-- ==== Sys2Proof/Word.lean ====
section
/-! DEFINITION. The word types of the FK4-2604 and nothing else: bytes, 32-bit registers, 64-bit
addresses, the 64-bit instruction word (spec 00 R4, 14 R301). -/

namespace Sys2Proof

/-- A byte of memory (00 R4). -/
abbrev Byte := BitVec 8

/-- A 32-bit register or system register (02 R28, 15 R330). -/
abbrev Word := BitVec 32

/-- A 64-bit value: a virtual address, a program counter, a work identifier (06 R129, 02 R19, R20). -/
abbrev DWord := BitVec 64

/-- A mask with one bit for each of the 32 lanes of a group (02 R19, 03 R59). -/
abbrev LaneMask := BitVec 32

end Sys2Proof
end

