-- ==== Sys2Proof/Syntax.lean ====
section
/-! DEFINITION. The syntax of the FK4-2604: the fields of the six single-word formats and of the dual
word (spec 14 R301 to R303, R310), the names by which events name the agent they are about, and `Instr`,
one constructor for each row of spec/opcode_table.json. A lane instruction's constructor carries the fields
of its format as the word holds them (a reference entry gives them their meaning); an event's constructor
carries what the event is about. -/

namespace Sys2Proof

/-- Fields of a format V word beside its major opcode (14 R301, R303). -/
structure FmtV where
  b : Bool
  g : BitVec 4
  ta : Bool
  tb : Bool
  tc : Bool
  dst : BitVec 9
  sa : BitVec 9
  sb : BitVec 9
  sc : BitVec 9
  fn : BitVec 11
  deriving DecidableEq, Repr, Inhabited

/-- Fields of a format I word (14 R303). -/
structure FmtI where
  b : Bool
  g : BitVec 4
  ta : Bool
  dst : BitVec 9
  sa : BitVec 9
  fn : BitVec 11
  imm : BitVec 20
  deriving DecidableEq, Repr, Inhabited

/-- Fields of a format L word; `rsv` is the field [40:32], which must be zero (14 R303). -/
structure FmtL where
  b : Bool
  g : BitVec 4
  dst : BitVec 9
  rsv : BitVec 9
  imm : BitVec 32
  deriving DecidableEq, Repr, Inhabited

/-- Fields of a format M word (14 R303, R307). -/
structure FmtM where
  b : Bool
  g : BitVec 4
  ta : Bool
  dv : BitVec 9
  av : BitVec 9
  fn : BitVec 11
  off : BitVec 20
  deriving DecidableEq, Repr, Inhabited

/-- Fields of a format B word; `rsv` is the field [49:40], which must be zero (14 R303, R309). -/
structure FmtB where
  b : Bool
  g : BitVec 4
  rsv : BitVec 10
  fn : BitVec 8
  off : BitVec 32
  deriving DecidableEq, Repr, Inhabited

/-- Fields of a format S word; `rsv` is the field [24:0], which must be zero (14 R303). -/
structure FmtS where
  b : Bool
  g : BitVec 4
  reg : BitVec 9
  sysnum : BitVec 16
  rsv : BitVec 25
  deriving DecidableEq, Repr, Inhabited

/-- One half of a dual word (14 R310); `hf1` is the reserved bit HF[1]. -/
structure Half where
  hop : BitVec 6
  hd : BitVec 9
  hs : BitVec 9
  hg : BitVec 3
  ht : Bool
  imm : Bool
  hf1 : Bool
  u : Bool
  deriving DecidableEq, Repr, Inhabited

/-- A dual word: two halves that both read before either writes (14 R301, R310). -/
structure Dual where
  b : Bool
  h0 : Half
  h1 : Half
  deriving DecidableEq, Repr, Inhabited

/-- A group handle: core, partition and group slot (12 R271). -/
structure Handle where
  core : Nat
  part : Nat
  slot : Nat
  deriving DecidableEq, Repr, Inhabited

/-- A Potluck unit: die 0 or 1, unit 0 to 15 (01 R9, 06 R139). -/
structure UnitId where
  die : Nat
  unit : Nat
  deriving DecidableEq, Repr, Inhabited

/-- A tile of a stack fabric (10 R210). -/
structure TileId where
  stack : Nat
  x : Nat
  y : Nat
  deriving DecidableEq, Repr, Inhabited

/-- A party that issues words of the lane instruction set: a group, a combiner wave (09 R198), or a
Ranger (15 R324). Rangers 0 to 3 are on die 0, 4 to 7 on die 1, and 8 is the system Ranger. -/
inductive Party where
  | group (h : Handle)
  | wave (u : UnitId) (wslot : Nat)
  | ranger (n : Nat)
  deriving DecidableEq, Repr, Inhabited

/-- Where an ECC error of tile state lies (10 R240). `corrected` errors only count. -/
inductive EccWhat where
  | corrected
  | nodeWord (slot : Nat)
  | streamRecord (rec : Nat)
  | paramWord
  /-- An entry of the edge buffer of an input: node input 3 × slot + pos, record input 48 + record. -/
  | edgeToken (input entry : Nat)
  | accRow (row : Nat)
  | topk
  deriving DecidableEq, Repr, Inhabited

/-- A host access to a BAR (13 R289, R290): a read of a number of bytes, or a write of bytes. -/
inductive HostAccess where
  | read (n : Nat)
  | write (data : List (BitVec 8))
  deriving DecidableEq, Repr, Inhabited

/-- A request that arrives from a peer module (13 R294, R295). -/
inductive PeerRequest where
  | load (pa : BitVec 52) (n : Nat)
  | store (pa : BitVec 52) (data : List (BitVec 8))
  | atomic (pa : BitVec 52) (aop : BitVec 5) (d : BitVec 128)
  | arrive (pa : BitVec 52) (n : BitVec 32)
  | ocall (pa : BitVec 52) (meth : BitVec 8) (arg : BitVec 64) (ctx : Nat) (wid : BitVec 64) (w : List Nat) (blk gix lane vd : Nat)
  | append (pa : BitVec 52) (n : Nat)
  | bind (pa : BitVec 52) (va : BitVec 64) (unbind : Bool) (ctx : Nat)
  deriving DecidableEq, Repr, Inhabited

/-- A PCI Express configuration request (13 R288): a read or a write of the register at a byte offset, or a write of the
Resizable BAR capability that gives BAR2 a size of 2^n bytes (13 R289). -/
inductive ConfigReq where
  | read (reg : Nat)
  | write (reg : Nat) (v : BitVec 32)
  | resizeBar2 (n : Nat)
  deriving DecidableEq, Repr, Inhabited

/-- One constructor for each row of spec/opcode_table.json. -/
inductive Instr where
  /-- NOP (R403): Does nothing in any lane. -/
  | nop (f : FmtV)
  /-- MOV (R401): Copies a vector or scalar register, broadcasts a scalar, or reads one lane into a scalar, depending on SUB. -/
  | mov (f : FmtV)
  /-- MOVL (R401): Writes a 32-bit immediate to a vector register in every active lane. -/
  | movl (f : FmtL)
  /-- IADD (R388): Integer add, wrapping or saturating. -/
  | iadd (f : FmtV)
  /-- IADDI (R388): Integer add of a sign-extended 20-bit immediate. -/
  | iaddi (f : FmtI)
  /-- ISUB (R388): Integer subtract, wrapping or saturating. -/
  | isub (f : FmtV)
  /-- IMUL (R388): Low half of an integer product, wrapping or saturating. -/
  | imul (f : FmtV)
  /-- IMULH (R388): High half of the exact integer product. -/
  | imulh (f : FmtV)
  /-- IMAD (R388): Integer multiply-add, wrapping or saturating. -/
  | imad (f : FmtV)
  /-- IMIN (R388): Integer minimum, signed or unsigned. -/
  | imin (f : FmtV)
  /-- IMAX (R388): Integer maximum, signed or unsigned. -/
  | imax (f : FmtV)
  /-- IABS (R388): Integer absolute value, optionally saturating. -/
  | iabs (f : FmtV)
  /-- AND (R340): Bitwise AND of two registers. -/
  | and (f : FmtV)
  /-- ANDI (R340): Bitwise AND with a sign-extended immediate. -/
  | andi (f : FmtI)
  /-- ANDN (R340): Bitwise AND with the complement of the second source. -/
  | andn (f : FmtV)
  /-- OR (R406): Bitwise OR of two registers. -/
  | or (f : FmtV)
  /-- ORI (R406): Bitwise OR with a sign-extended immediate. -/
  | ori (f : FmtI)
  /-- XOR (R438): Bitwise XOR of two registers. -/
  | xor (f : FmtV)
  /-- XORI (R438): Bitwise XOR with a sign-extended immediate. -/
  | xori (f : FmtI)
  /-- SHL (R419): Shift left by a register count. -/
  | shl (f : FmtV)
  /-- SHLI (R419): Shift left by an immediate count. -/
  | shli (f : FmtI)
  /-- SHR (R419): Logical shift right by a register count. -/
  | shr (f : FmtV)
  /-- SHRI (R419): Logical shift right by an immediate count. -/
  | shri (f : FmtI)
  /-- SAR (R419): Arithmetic shift right by a register count. -/
  | sar (f : FmtV)
  /-- SARI (R419): Arithmetic shift right by an immediate count. -/
  | sari (f : FmtI)
  /-- BFX (R349): Extracts a bit field, sign- or zero-extended. -/
  | bfx (f : FmtV)
  /-- BFI (R349): Inserts a bit field into a base value. -/
  | bfi (f : FmtV)
  /-- POPC (R411): Counts the set bits of a register. -/
  | popc (f : FmtV)
  /-- CLZ (R355): Counts the leading zero bits of a register. -/
  | clz (f : FmtV)
  /-- PERMB (R410): Selects bytes from an 8-byte pair under nibble selectors. -/
  | permb (f : FmtV)
  /-- LEA (R397): Adds a shifted, extended 32-bit offset to a 64-bit address. -/
  | lea (f : FmtV)
  /-- ISETP (R391): Integer compare of two registers into a predicate, ANDed with a predicate. -/
  | isetp (f : FmtV)
  /-- ISETPI (R391): Integer compare with an immediate into a predicate. -/
  | isetpi (f : FmtI)
  /-- SEL (R422): Selects one of two registers per lane by a predicate. -/
  | sel (f : FmtV)
  /-- CVTI (R361): Converts to an integer type, rounding and clamping. -/
  | cvti (f : FmtV)
  /-- CVTF (R361): Converts to a floating-point format, rounding and saturating. -/
  | cvtf (f : FmtV)
  /-- PACK (R407): Converts a value and inserts it as one element of a packed register. -/
  | pack (f : FmtV)
  /-- UNPACK (R407): Extracts one packed element and widens it exactly. -/
  | unpack (f : FmtV)
  /-- MSK (R402): Sets a mask from predicates, a scalar or mask logic, or reads a mask into a scalar; re-evaluates parked masks. -/
  | msk (f : FmtV)
  /-- FADD (R366): FP32 add rounded once by the rounding mode. -/
  | fadd (f : FmtV)
  /-- FMUL (R366): FP32 multiply rounded once. -/
  | fmul (f : FmtV)
  /-- FFMA (R366): FP32 fused multiply-add rounded once. -/
  | ffma (f : FmtV)
  /-- FMIN (R367): FP32 minimum with -0 below +0 and NaN handling. -/
  | fmin (f : FmtV)
  /-- FMAX (R367): FP32 maximum with -0 below +0 and NaN handling. -/
  | fmax (f : FmtV)
  /-- FSETP (R373): FP32 compare into a predicate. -/
  | fsetp (f : FmtV)
  /-- FRCP (R95): Correctly rounded FP32 reciprocal, a producer. -/
  | frcp (f : FmtV)
  /-- FRSQ (R95): Correctly rounded FP32 reciprocal square root, a producer. -/
  | frsq (f : FmtV)
  /-- FEXP2 (R96): Computes 2^x by the fixed table and polynomial algorithm. -/
  | fexp2 (f : FmtV)
  /-- FLOG2 (R97): Computes log2 x by the fixed table and polynomial algorithm. -/
  | flog2 (f : FmtV)
  /-- FDOT2 (R369): Dot product of two 16-bit float pairs added to FP32 under the K-block rule. -/
  | fdot2 (f : FmtV)
  /-- FDOT4 (R369): Dot product of four 8-bit float pairs added to FP32 under the K-block rule. -/
  | fdot4 (f : FmtV)
  /-- HFMA2 (R387): Two fused 16-bit multiply-adds, one per half. -/
  | hfma2 (f : FmtV)
  /-- IDP4 (R384): Exact 4-element I8 dot product added to INT32. -/
  | idp4 (f : FmtV)
  /-- IDP8 (R385): 8-element I4 or I4O dot product added to INT32 or FP32. -/
  | idp8 (f : FmtV)
  /-- ISQD4 (R384): Exact sum of four squared byte differences added to INT32. -/
  | isqd4 (f : FmtV)
  /-- HAMD (R384): Hamming distance added to an INT32 addend. -/
  | hamd (f : FmtV)
  /-- PQACC (R412): Sums eight scratchpad lookup-table entries selected by 4-bit codes. -/
  | pqacc (f : FmtV)
  /-- GSORT (R383): Uniform sort of key and payload pairs across the group's lanes. -/
  | gsort (f : FmtV)
  /-- GMERGEK (R379): Merges two lane lists of pairs and keeps the k smallest. -/
  | gmergek (f : FmtV)
  /-- SHFL (R423): Exchanges register values between active lanes. -/
  | shfl (f : FmtV)
  /-- GRED (R381): Reduces the lanes by the fixed pairwise tree. -/
  | gred (f : FmtV)
  /-- GSCAN (R382): Inclusive or exclusive Hillis-Steele scan across lanes. -/
  | gscan (f : FmtV)
  /-- VOTE (R434): Ballot, any, all or uniform vote of a predicate. -/
  | vote (f : FmtV)
  /-- MATCH (R398): Gives each active lane the mask of lanes with an equal key. -/
  | matchL (f : FmtV)
  /-- COMPACT (R356): Packs selected lanes' values into the lowest active lanes and writes the count. -/
  | compact (f : FmtV)
  /-- RGPUT (R417): Deposits lane records into the core's regrouping table, all or none. -/
  | rgput (f : FmtV)
  /-- RGTAKE (R417): Takes the block's oldest regrouping records into active lanes with their identifiers. -/
  | rgtake (f : FmtV)
  /-- GENRD (R377): Reads generator elements at lane coordinates into a register. -/
  | genrd (f : FmtV)
  /-- LD (R395): Global or private load into a register, a producer. -/
  | ld (f : FmtM)
  /-- LDS (R395): Scratchpad load into a register, a producer. -/
  | lds (f : FmtM)
  /-- ST (R425): Global or private store. -/
  | st (f : FmtM)
  /-- STS (R425): Scratchpad store. -/
  | sts (f : FmtM)
  /-- ATOM (R343): Global atomic performed at the home, optionally returning the old value. -/
  | atom (f : FmtM)
  /-- ATOMS (R343): Scratchpad atomic performed at the owning port. -/
  | atoms (f : FmtM)
  /-- FENCE (R370): Makes neighbouring accesses act as release or acquire at a scope. -/
  | fence (f : FmtV)
  /-- PREF (R414): Prefetches a line into a cache level; never traps. -/
  | pref (f : FmtM)
  /-- CSTORE (R359): Appends a compressed record of predicated lanes to a segment. -/
  | cstore (f : FmtV)
  /-- ICINV (R390): Releases stores and starts invalidation of cached code for a VA range. -/
  | icinv (f : FmtV)
  /-- ARRIVE (R341): Releases and performs a barrier arrival of a count at the home. -/
  | arrive (f : FmtV)
  /-- WAITB (R435): Parks the entry until a barrier's phase differs from a value. -/
  | waitb (f : FmtV)
  /-- SBRES (R115): Reserves the next slot of a slot buffer, waiting until it is free. -/
  | sbres (f : FmtV)
  /-- SBFILL (R115): Marks a reserved slot filled, a release at block scope. -/
  | sbfill (f : FmtV)
  /-- SBTAKE (R115): Takes the next filled slot in ring order, waiting until filled. -/
  | sbtake (f : FmtV)
  /-- SBFREE (R115): Returns a taken slot to the free state. -/
  | sbfree (f : FmtV)
  /-- JOIN (R393): Parks the executing lanes of a mask until every live lane of the mask arrives. -/
  | join (f : FmtV)
  /-- LEAVE (R393): Removes the executing lanes from a mask and re-evaluates parked masks. -/
  | leave (f : FmtV)
  /-- WAITM (R436): Parks lanes on a mask as JOIN does, released as a group-scope fence. -/
  | waitm (f : FmtV)
  /-- YIELD (R53): Moves lanes to the next word with the deferred bit set. -/
  | yield (f : FmtV)
  /-- BRA (R352): PC-relative branch of the active lanes. -/
  | bra (f : FmtB)
  /-- BRX (R352): Indirect branch to a 64-bit register target. -/
  | brx (f : FmtV)
  /-- CALL (R352): Writes the link pair and branches PC-relative. -/
  | call (f : FmtB)
  /-- RET (R416): Returns through a link pair as BRX does. -/
  | ret (f : FmtV)
  /-- EXIT (R364): Active lanes exit the group and leave every mask. -/
  | exit (f : FmtV)
  /-- TRAP (R432): Raises TRAPCODE with a code for a handler or firmware service. -/
  | trap (f : FmtV)
  /-- BKPT (R351): Raises a BKPT trap. -/
  | bkpt (f : FmtV)
  /-- TRAPRET (R275): Ranger resumes the selected stopped group from its edited PC table. -/
  | trapret (f : FmtV)
  /-- BCOPY (R346): Checks a command record and starts the copy engine. -/
  | bcopy (f : FmtV)
  /-- BGATHER (R346): Checks a command record and starts the indexed gather engine. -/
  | bgather (f : FmtV)
  /-- TIERIN (R429): Checks a command record and starts moving pages from the CT to HBM. -/
  | tierin (f : FmtV)
  /-- TIEROUT (R429): Checks a command record and starts moving pages from HBM to the CT. -/
  | tierout (f : FmtV)
  /-- GANGSET (R178): Writes the group's gang list after checking it. -/
  | gangset (f : FmtV)
  /-- GMMA (R173): Multiplies A by B into an accumulator tile under the K-block rule or INT32 path. -/
  | gmma (f : FmtV)
  /-- ACCRD (R336): Reads a window of an accumulator tile into vector registers. -/
  | accrd (f : FmtV)
  /-- ACCWR (R336): Writes vector registers into a window of an accumulator tile. -/
  | accwr (f : FmtV)
  /-- ACCST (R339): Converts and stores an accumulator tile, plain, scaled or compressed. -/
  | accst (f : FmtV)
  /-- GENSET (R182): Writes a generator register from eight scalars after checking it. -/
  | genset (f : FmtV)
  /-- CFGWR (R251): Erases a tile and loads a tile block into it after checks. -/
  | cfgwr (f : FmtV)
  /-- CFGSEAL (R252): Verifies a loaded region against its image and installs it in the Hamper. -/
  | cfgseal (f : FmtV)
  /-- CFGRUN (R255): Releases, cleans footprints and queues a new PENDING run. -/
  | cfgrun (f : FmtV)
  /-- CFGRUN_RESUME (R255): Makes a DRAINED run PENDING again with its saved footprints. -/
  | cfgrunResume (f : FmtV)
  /-- CFGSTAT (R258): Writes a run's status word to memory and ORs its flags into MXFLAGS. -/
  | cfgstat (f : FmtV)
  /-- CFGDRAIN (R254): Requests a drain of a run; its status is written when DRAINED. -/
  | cfgdrain (f : FmtV)
  /-- CFGKILL (R264): Stops every run of a region, erases its tiles and frees the region. -/
  | cfgkill (f : FmtV)
  /-- CFGEVICT (R253): Removes an unreferenced Hamper entry. -/
  | cfgevict (f : FmtV)
  /-- OBIND (R193): Binds an object header at its Potluck unit. -/
  | obind (f : FmtV)
  /-- OBIND_U (R193): Unbinds an object and refuses its queued requests. -/
  | obindU (f : FmtV)
  /-- OCALL (R194): Sends one method request per lane to an object's home, or stages it in deterministic mode. -/
  | ocall (f : FmtV)
  /-- OLD (R199): Wave load from the staged state window. -/
  | old (f : FmtV)
  /-- OST (R199): Wave store into the staged state window. -/
  | ost (f : FmtV)
  /-- OCOMMIT (R200): Writes the staged window back, releases and sends every reply. -/
  | ocommit (f : FmtV)
  /-- OABORT (R200): Discards the staged window and sends every reply. -/
  | oabort (f : FmtV)
  /-- LAUNCH (R394): Reads a launch header and queues it in the pending-launch pool, writing a status. -/
  | launch (f : FmtV)
  /-- SYSRD (R428): Reads a system register into a scalar. -/
  | sysrd (f : FmtS)
  /-- SYSWR (R428): Writes a scalar to a system register that has no behaviour of its own. -/
  | syswr (f : FmtS)
  /-- WID (R437): Writes a work-identifier field, the whole identifier, group index or block number. -/
  | wid (f : FmtV)
  /-- RGIVE (R29): Gives registers back to the block pool. -/
  | rgive (f : FmtV)
  /-- RCLAIM (R29): Enqueues a claim for registers from the block pool. -/
  | rclaim (f : FmtV)
  /-- DUAL_WORD (R311): Issues two half operations that both read before either writes. -/
  | dualWord (d : Dual)
  /-- PRODUCER_COMPLETE (R56): A pending producer's data arrive and its destination becomes full. -/
  | producerComplete (p : Party) (id : Nat)
  /-- RCLAIM_GRANT (R29): A waiting claim at the queue head is granted once FREE suffices. -/
  | rclaimGrant (blk : Nat)
  /-- SBRES_GRANT (R115): A waiting reservation takes the slot at PIX once it is free. -/
  | sbresGrant (blk : Nat) (buf : Nat)
  /-- SBTAKE_GRANT (R115): A waiting take takes the slot at CIX once it is filled. -/
  | sbtakeGrant (blk : Nat) (buf : Nat)
  /-- WAITB_WAKE (R120): A monitor entry reports a phase change and wakes the waiting entry. -/
  | waitbWake (p : Party) (pc : BitVec 64)
  /-- WAITB_POLL (R120): A poll delay expires and the barrier's phase is read again. -/
  | waitbPoll (p : Party) (pc : BitVec 64)
  /-- GANG_LATCH_OPEN (R179): Every member has issued a matching GMMA and the gang proceeds. -/
  | gangLatchOpen (h : Handle)
  /-- REGDEADLOCK (R31): The pool deadlock condition has held 1,024 clocks and every blocked group traps. -/
  | regdeadlock (blk : Nat)
  /-- WATCHDOG (R267): A memory access has had no response for 2^26 clocks and the group traps fatally. -/
  | watchdog (p : Party) (va : BitVec 64)
  /-- ECCFATAL (R267): An uncorrectable error in a group's state raises a fatal trap. -/
  | eccfatal (p : Party) (what : BitVec 2)
  /-- RUCKSACK_SAVE_DONE (R280): The save of a pre-empted cluster set completes. -/
  | rucksackSaveDone (launch : Nat) (cset : Nat) (image : Bool)
  /-- LAUNCH_COMPLETE (R43): All threads of a launch have exited; release, deterministic folds and completion arrival follow. -/
  | launchComplete (launch : Nat)
  /-- OCALL_REQUEST_ARRIVE (R196): A request enters its object's queue at the Potluck unit, or is refused. -/
  | ocallRequestArrive (u : UnitId)
  /-- BATCH_START (R197): A free wave context takes a batch of requests and stages the window. -/
  | batchStart (u : UnitId)
  /-- WAVE_LIMIT (R198): A wave reaches 4,096 issued words, or parks every lane, and faults. -/
  | waveLimit (u : UnitId) (wslot : Nat)
  /-- OCALL_REPLY (R201): A reply lands in the requester's register pair or saved image. -/
  | ocallReply (ix : Nat)
  /-- FAULT_REPLY (R204): A fault reply makes the pair full and marks it faulted. -/
  | faultReply (ix : Nat)
  /-- COPY_ENGINE_COMPLETE (R347): The copy or gather engine finishes or stops, then reports, fills and arrives. -/
  | copyEngineComplete (id : Nat) (upto : Option Nat)
  /-- TIER_PAGE_MOVE (R123): The tier engine moves one page between tiers. -/
  | tierPageMove (id : Nat)
  /-- TIER_COMMAND_COMPLETE (R124): The tier engine writes its report and makes the completion. -/
  | tierCommandComplete (id : Nat)
  /-- ICINV_COMPLETE (R70): Invalidation ends in every core and the status is written. -/
  | icinvComplete (id : Nat)
  /-- TLBI_RANGE (R143): Starts invalidation of a VA range in one context. -/
  | tlbiRange (r : Nat) (v : BitVec 32)
  /-- TLBI_CONTEXT (R143): Starts invalidation of all of one context. -/
  | tlbiContext (r : Nat) (v : BitVec 32)
  /-- TLBI_ALL (R143): Starts invalidation of all contexts. -/
  | tlbiAll (r : Nat) (v : BitVec 32)
  /-- STOP (R274): Stops a running group at its next run boundary. -/
  | stopCmd (r : Nat)
  /-- STEP (R286): Resumes a stopped group for exactly one word of its head entry. -/
  | stepCmd (r : Nat)
  /-- TERMINATE (R274): Makes every live lane of a group exit and logs it. -/
  | terminateCmd (r : Nat)
  /-- PREEMPT (R274): Saves the group's cluster set, optionally held until released. -/
  | preemptCmd (r : Nat) (hold : Bool)
  /-- RELEASE (R274): Makes a held saved cluster set resumable by its ticket. -/
  | releaseCmd (r : Nat)
  /-- WCMD_BADCMD (R274): A reserved window command code answers BADCMD. -/
  | wcmdBadcmd (r : Nat) (v : BitVec 32)
  /-- WINDOW_READ (R272): Reads a window item of the selected group and advances the address. -/
  | windowRead (r : Nat)
  /-- WINDOW_WRITE (R273): Writes a window item of the selected group and advances the address. -/
  | windowWrite (r : Nat) (v : BitVec 32)
  /-- TQTAKE (R269): Takes the oldest handle from the die trap queue. -/
  | tqtake (r : Nat)
  /-- DBSYNC (R285): Makes every block of a context reload its breakpoint table. -/
  | dbsync (r : Nat) (v : BitVec 32)
  /-- CLKLO_READ (R331): Reads the low clock word and latches the high word. -/
  | clkloRead (p : Party)
  /-- SBCFG_WRITE (R113): Configures and resets a slot buffer, or raises SBFAULT. -/
  | sbcfgWrite (blk : Nat) (buf : Nat) (v : BitVec 32)
  /-- FBSACT_RETRY (R262): Ranger answers a stream fault with a retry of the walk. -/
  | fbsactRetry (r : Nat) (v : BitVec 32)
  /-- FBSACT_UNRESOLVABLE (R262): Ranger declares a stream fault unresolvable and seals its domain. -/
  | fbsactUnresolvable (r : Nat) (v : BitVec 32)
  /-- FBOWN_SELECT (R265): Selects a tile owner entry for reading. -/
  | fbownSelect (r : Nat) (v : BitVec 32)
  /-- FBOWN_WRITE (R265): Writes a tile owner entry, erasing the tile on a change of owner. -/
  | fbownWrite (r : Nat) (v : BitVec 32)
  /-- DRAIN (R265): Ranger pre-emption of a run in a slot. -/
  | drainCmd (r : Nat) (v : BitVec 32)
  /-- RESUME (R265): Makes a Ranger-drained run PENDING again. -/
  | resumeCmd (r : Nat) (v : BitVec 32)
  /-- LEND (R265): Suspends selection in a region so its owner entries may be rewritten. -/
  | lendCmd (r : Nat) (v : BitVec 32)
  /-- RETURN (R265): Ends a lend when every tile is back with the region. -/
  | returnCmd (r : Nat) (v : BitVec 32)
  /-- KILL (R265): Kills a region as CFGKILL does for its owner. -/
  | killCmd (r : Nat) (v : BitVec 32)
  /-- ERASE (R265): Erases every tile of a region. -/
  | eraseCmd (r : Nat) (v : BitVec 32)
  /-- FBRCMD_BADCMD (R265): A reserved region command code answers BADCMD. -/
  | fbrcmdBadcmd (r : Nat) (v : BitVec 32)
  /-- FRGREQ (R242): Firmware service that grants a free region and erases it. -/
  | frgreq (h : Handle) (ox oy rid : Nat)
  /-- FTRUST (R242): Firmware service that checks a digest against the trust list. -/
  | ftrust (h : Handle)
  /-- FVERIFY (R242): Firmware service that verifies an image signature and enrols its digest. -/
  | fverify (h : Handle)
  /-- RUN_SELECT (R256): A free region selects a PENDING run and it starts LOADING. -/
  | runSelect (stack rid : Nat)
  /-- LOADING_COMPLETE (R257): Tiles hold the image, state is restored and sources and streams start. -/
  | loadingComplete (stack rid : Nat)
  /-- RUN_DONE (R257): Every pass and write has finished and the run is DONE. -/
  | runDone (stack rid : Nat)
  /-- DRAIN_COMPLETE (R259): Every tile has frozen, the Rucksack saves the run and it is DRAINED. -/
  | drainComplete (stack rid : Nat)
  /-- TOKEN_ARRIVE (R215): A token reaches an input queue and is accepted or dropped by context. -/
  | tokenArrive (stack ix : Nat)
  /-- BATON_ESCAPE (R235): The Baton moves a packet blocked past the threshold to an escape buffer. -/
  | batonEscape (stack ix : Nat)
  /-- CHANNEL_WATCHDOG (R239): A pseudo-channel's watchdog expires and its tile faults. -/
  | channelWatchdog (t : TileId)
  /-- BANK_REFRESH (R238): A bank refreshes and queues its missed commands for catch-up. -/
  | bankRefresh (t : TileId) (bank : Nat)
  /-- FABRIC_ECC_ERROR (R240): An ECC error in tile state is corrected or faults the tile. -/
  | fabricEccError (t : TileId) (what : EccWhat)
  /-- STREAM_WALK_COMPLETE (R262): A stream TLB miss's walk ends, resuming or stalling the stream. -/
  | streamWalkComplete (t : TileId) (rec : Nat)
  /-- STREAM_GATE_OPEN (R231): A gated record observes a new phase and begins a pass. -/
  | streamGateOpen (t : TileId) (rec : Nat)
  /-- READ_STREAM_TOKEN (R230): A read stream fills and sends a token of its burst. -/
  | readStreamToken (t : TileId) (rec : Nat)
  /-- WRITE_STREAM_ELEMENT (R230): A write stream stores the elements of an arriving token. -/
  | writeStreamElement (t : TileId) (rec : Nat)
  /-- WRITE_PASS_COMPLETE (R231): A write record's pass has been performed at its banks. -/
  | writePassComplete (t : TileId) (rec : Nat)
  /-- ELEMENTWISE_FIRE (R221): An elementwise node fires on its input tokens. -/
  | elementwiseFire (t : TileId) (slot : Nat)
  /-- SEL_NODE (R422): A select node chooses elements of L or R by P. -/
  | selNode (t : TileId) (slot : Nat)
  /-- CONST (R357): Source node emits a burst of constant tokens. -/
  | constN (t : TileId) (slot : Nat)
  /-- COUNT (R358): Source node emits an arithmetic sequence burst. -/
  | countN (t : TileId) (slot : Nat)
  /-- GEN (R227): Source node emits a generator B operand burst. -/
  | genN (t : TileId) (slot : Nat)
  /-- STEER (R427): Routes a whole burst to a path chosen by a P token. -/
  | steerN (t : TileId) (slot : Nat)
  /-- FILTER (R372): Passes or drops each L token by its P token. -/
  | filterN (t : TileId) (slot : Nat)
  /-- MERGE (R399): Passes whole bursts from L and R in turn or in arrival order. -/
  | mergeN (t : TileId) (slot : Nat)
  /-- ACC (R334): Whole-burst node sums tokens lane by lane and sends the sums at the tail. -/
  | accN (t : TileId) (slot : Nat)
  /-- BFPSUM (R350): Whole-burst node sums BF16 blocks by the K-block rule. -/
  | bfpsumN (t : TileId) (slot : Nat)
  /-- MMAN (R226): Matrix node accumulates a K-block and sends the accumulator after NIMM16 blocks. -/
  | mmanN (t : TileId) (slot : Nat)
  /-- TOPKN (R431): Keeps the k smallest pairs of a burst and sends them at the tail. -/
  | topknN (t : TileId) (slot : Nat)
  /-- PART (R409): Splits index tokens into bank-ordered gather or scatter requests. -/
  | partN (t : TileId) (slot : Nat)
  /-- GATHR (R375): Reorders gather replies into request order and sends them. -/
  | gathrN (t : TileId) (slot : Nat)
  /-- SINK (R424): Consumes and counts tokens. -/
  | sinkN (t : TileId) (slot : Nat)
  /-- PQACC_TABLE_LOAD (R413): A burst on P is written into the PQ table region. -/
  | pqaccTableLoad (t : TileId) (slot : Nat)
  /-- RESERVE (R292): Host read that reserves the next mailbox slot. -/
  | mbReserve (mb : Nat)
  /-- COMMIT (R292): Host commits or cancels the next reserved mailbox slot. -/
  | mbCommit (mb : Nat) (v : BitVec 32)
  /-- LAUNCH_SLOT_WRITE (R292): Host writes a launch record into a slot, ignored unless reserved. -/
  | launchSlotWrite (off : Nat) (data : List (BitVec 8))
  /-- MAILBOX_CONSUME (R292): The dispatcher copies a committed slot, checks it and queues or rejects it. -/
  | mailboxConsume (mb : Nat)
  /-- HOST_BAR2_ACCESS (R290): Host read or write of device memory at the line's home. -/
  | hostBar2Access (off : Nat) (acc : HostAccess)
  /-- BAR0_VIOLATION (R289): An unpopulated or misaligned BAR access receives a completer abort and is logged. -/
  | bar0Violation (off : Nat) (acc : HostAccess)
  /-- REGISTER_WRITE (R5): Write to a BAR register with no behaviour of its own. -/
  | registerWrite (off : Nat) (v : BitVec 64) (size8 : Bool)
  /-- TAIL (R299): Host advances the error log TAIL to consume entries. -/
  | logTail (die : Nat) (v : BitVec 32)
  /-- MGCMD_BADCMD (R293): An unknown management command code answers BADCMD. -/
  | mgcmdBadcmd (code : BitVec 32)
  /-- COLD_RESET (R296): Cold or fundamental reset starts authentication and bring-up. -/
  | coldReset (primaryOk secondaryOk : Bool)
  /-- CONFIG_REQUEST (R288): A PCI Express configuration request, answered with retry status until bring-up. -/
  | configRequest (q : ConfigReq)
  /-- NEGOTIATE_ALGORITHMS (R297): SPDM negotiation of SHA-256 and SLH-DSA-SHA2-128f. -/
  | negotiateAlgorithms (offersSlhDsa128f : Bool)
  /-- GET_CERTIFICATE (R297): SPDM request for the identity certificate chain. -/
  | getCertificate (slot offset length : Nat)
  /-- CHALLENGE (R297): SPDM challenge signed by the device. -/
  | challenge (slot : Nat) (nonce : BitVec 256)
  /-- GET_MEASUREMENTS (R297): SPDM request reporting MR0 to MR7. -/
  | getMeasurements (index : Nat) (nonce : BitVec 256)
  /-- SUPPLY_SAG (R298): A supply sag stretches a partition's clock and counts in SAGCNT. -/
  | supplySag (core part : Nat)
  /-- CLOCK_STRETCH_END (R298): The stretch interval ends and the clock returns to rate. -/
  | clockStretchEnd (core part : Nat)
  /-- PEER_REQUEST_ARRIVE (R295): An incoming peer request is checked against exposed segments and served or refused. -/
  | peerRequestArrive (port : Nat) (q : PeerRequest)
  /-- LINK (R295): A peer link goes down; in-flight requests get violation or fault replies and it is logged. -/
  | linkDown (port : Nat)
  /-- RUCKSACK_RESTORE_DONE (R281): The Rucksack finishes restoring a resumed cluster set; held OCALL replies land, trapped groups re-enter the trap queue, and the others continue. -/
  | rucksackRestoreDone (launch : Nat) (cset : Nat)
  /-- GMMA_COMPLETE (R173): A matrix engine finishes a GMMA, writes the tile and flags, and the operation leaves the in-flight set. -/
  | gmmaComplete (h : Handle)
  /-- MEMORY_ECC_ERROR (R12): An ECC error in memory or a cache is corrected, or it is uncorrectable and is reported as poison and logged as ECC. -/
  | memoryEccError (pa : Nat) (correctable : Bool)
  /-- DET_LOG_EXTEND (R207): The system Ranger extends a full deterministic log, or fails to, and the waiting staging word proceeds or raises DETFAULT. -/
  | detLogExtend (ctx : Nat) (pages : Nat)
  /-- DONE_ARRIVAL_RETRY (R44): After a Ranger resolves an XNP on a launch's completion barrier, the waiting completion arrival is made. -/
  | doneArrivalRetry (launch : Nat)
  /-- DISPATCHER_CYCLE (R34): Every 8 clocks the dispatcher selects and places at most one cluster set per die. -/
  | dispatcherCycle
  /-- POOL_STARVATION (R42): The pending-launch pool stays full 10 ms with no placement and an entry is logged. -/
  | poolStarvation
  /-- TLBI_COMPLETE (R144): Every TLB and walk cache has dropped the entries and BUSY clears. -/
  | tlbiComplete
  /-- CTXCREATE (R293): Makes a context valid with its root and priority ceiling. -/
  | ctxcreate
  /-- CTXDESTROY (R293): Terminates a context's groups, kills its regions and quarantines the id. -/
  | ctxdestroy
  /-- MBBIND (R293): Binds or disables a mailbox. -/
  | mbbind
  /-- QASSIGN (R293): Assigns a launch queue to a context. -/
  | qassign
  /-- SAVEPOOL (R293): Sets a context's save pool and deterministic log. -/
  | savepool
  /-- POWERCAP (R298): Sets the module power cap. -/
  | powercap
  /-- SEGMAP (R295): Writes a peer or host aperture segment entry. -/
  | segmap
  /-- FREEZE (R287): Management command that stops every clock of the module. -/
  | freezeCmd
  /-- CFGKEY (R293): Enrols a configuration key and extends MR7. -/
  | cfgkey
  /-- FABQUOTA (R293): Sets a context's fabric tile quota. -/
  | fabquota
  /-- FREEZE_JTAG (R287): FREEZE entered through the IEEE 1149.1 port. -/
  | freezeJtag
  /-- BRINGUP_COMPLETE (R296): Training and measurement end, LOCK is set and retry status stops. -/
  | bringupComplete
  /-- FUNCTION_LEVEL_RESET (R296): Terminates every context, kills every region and empties every mailbox. -/
  | functionLevelReset
  /-- GET_VERSION (R297): SPDM request for the supported versions. -/
  | getVersion
  /-- GET_CAPABILITIES (R297): SPDM request for capabilities. -/
  | getCapabilities
  /-- GET_DIGESTS (R297): SPDM request for certificate digests. -/
  | getDigests
  deriving DecidableEq, Repr

end Sys2Proof
end

