-- ==== Sys2Proof/Machine/State.lean ====
section
/-! DEFINITION. The state of the machine as plain data: everything spec/ names, the outcomes' reasons, and
`State.reset`. Registers of a group, a wave or a Ranger are one `Group`; memory, vector registers, tiles and
scratchpads are sparse lists of (key, value) with rising keys and no zero value. -/

namespace Sys2Proof.Machine

/-- A sparse array: rising keys, no entry whose value is zero; an unlisted key reads zero. -/
abbrev Sparse (w : Nat) := List (Nat × BitVec w)

/-- Why a step stops with a fault. -/
inductive Fault where
  /-- Raised by the meaning of a lane word that is executed while no party is issuing (the field `cur` is `none`):
  the spec gives a word no effect without a group, wave or Ranger that issues it. Safe. -/
  | noIssuer
  deriving DecidableEq, Repr

/-- Why an instruction is refused. -/
inductive Refusal where
  /-- Raised only by an arm of `exec` whose instruction has no meaning yet. Safe. -/
  | notModelled (mnemonic : String)
  deriving DecidableEq, Repr

/-! ## Groups -/

/-- State of a PC-table entry (03 R46). -/
inductive EntrySt where
  | ready | join | waitm | uwait
  deriving DecidableEq, Repr, Inhabited

/-- An entry of the sorted PC table (03 R46); `valid` is CTL bit 7, cleared only through the window (12 R272). -/
structure Entry where
  pc : DWord
  mask : LaneMask
  st : EntrySt
  pm : BitVec 4
  df : Bool
  valid : Bool
  deriving DecidableEq, Repr, Inhabited

/-- Role of a group (02 R26). -/
inductive Role where
  | any | copy | matrix | vector
  deriving DecidableEq, Repr, Inhabited

/-- What a pending producer is, as far as R31, R41, R89 and R279 tell them apart. -/
inductive ProdKind where
  | load | atomic | transcendental | genrd | accrd | cfgStatus | launchStatus | icinv | ocall | drain
  deriving DecidableEq, Repr, Inhabited

/-- A word whose memory accesses stand unanswered: its PC, the word, its executing lanes, and the VAs that it accesses (12 R267). -/
structure Site where
  pc : DWord
  word : DWord
  lanes : LaneMask
  vas : List DWord
  deriving DecidableEq, Repr, Inhabited

/-- A producer that has issued and not completed (03 R56): its destination registers, the values it will write,
and whether its completion makes them full (03 R73). `lanes` are lanes whose replies are outstanding (OCALL). -/
structure Producer where
  id : Nat
  kind : ProdKind
  vregs : List Nat
  sregs : List Nat
  vwrites : Sparse 32
  vmask : List (Nat × LaneMask)
  swrites : List (Nat × Word)
  fp : BitVec 8
  mx : BitVec 8
  fills : Bool
  lanes : LaneMask
  /-- The header that a LAUNCH has still to read (02 R39): an engine owns a line of it. -/
  header : Option DWord
  /-- The word that issued it, where that accesses memory. -/
  site : Option Site
  deriving DecidableEq, Repr, Inhabited

/-- A faulted mark of a reply pair (09 R204). -/
structure FaultMark where
  pair : Nat
  obj : DWord
  cause : Byte
  meth : Byte
  deriving DecidableEq, Repr, Inhabited

/-- Codes of memory scopes (07 R145, 15 R328). -/
inductive Scope where
  | group | block | cluster | die | device | system
  deriving DecidableEq, Repr, Inhabited

/-- An instruction that waits at its entry's PC: WAITB (05 R120), SBRES and SBTAKE (05 R115), RCLAIM (02 R29), a staging
word that waits for its context's deterministic log (09 R207). -/
inductive WaitKind where
  | waitb (va : DWord) (phase : Word) (scope : Scope) (rmt : Bool)
  | sbres (buf dst : Nat)
  | sbtake (buf dst : Nat)
  | rclaim (n : Nat)
  | detlog
  deriving DecidableEq, Repr, Inhabited

/-- A wait with the PC and lanes of its entry, the lanes that perform the word, the order in which it began, and its word. -/
structure Wait where
  pc : DWord
  mask : LaneMask
  act : LaneMask
  stamp : Nat
  kind : WaitKind
  word : DWord
  deriving DecidableEq, Repr, Inhabited

/-- A trap record (12 R268). -/
structure TrapRec where
  cause : Byte
  level : BitVec 3
  fatal : Bool
  ctx : Byte
  lanes : LaneMask
  pc : DWord
  addr : DWord
  aux : DWord
  word : DWord
  handle : BitVec 16
  seq : Word
  wid : DWord
  deriving DecidableEq, Repr, Inhabited

/-- A GMMA held in the gang rendezvous latch (08 R179): its entry and word, its number since the list was set, and the order in
which its wait began (02 R41). -/
structure Latched where
  pc : DWord
  mask : LaneMask
  count : Nat
  f : FmtV
  word : DWord
  stamp : Nat
  deriving DecidableEq, Repr, Inhabited

/-- A GMMA in flight (08 R173, R176): its tile, the values it will write and the flags it will raise. -/
structure InGmma where
  tile : Nat
  value : Sparse 32
  mx : BitVec 8
  deriving DecidableEq, Repr, Inhabited

/-- A run in progress (03 R50, R69): words issued, the PC of its next word, the DEF bit with which its entry was chosen
(R48), whether the loop buffer held it, and the one copy of the code that supplies its words, in order. -/
structure Run where
  words : Nat
  pc : DWord
  df : Bool
  hit : Bool
  code : List DWord
  deriving DecidableEq, Repr, Inhabited

/-- A staged operation of deterministic mode (09 R207). -/
inductive StagedOp where
  | atomic (pa : Nat) (va : DWord) (aop : Nat) (pair : Bool) (operand : DWord)
  | ocall (hdrVa : DWord) (hdrPa : Nat) (meth : Byte) (arg : DWord) (widths : List Nat)
  deriving DecidableEq, Repr, Inhabited

/-- A staged operation with its tag (09 R207). -/
structure Staged where
  wid : DWord
  seq : Word
  op : StagedOp
  deriving DecidableEq, Repr, Inhabited

/-- The registers and the PC table of a group, of a combiner wave or of a Ranger. -/
structure Group where
  /-- Group index i within the block (02 R22). -/
  index : Nat
  part : Nat
  slot : Nat
  role : Role
  /-- Allocation A (02 R28). -/
  alloc : Nat
  /-- Accumulator tiles ACCT (02 R27). -/
  acct : Nat
  present : LaneMask
  live : LaneMask
  tab : List Entry
  /-- Lane l of vn at 32n + l. -/
  v : Sparse 32
  sr : Sparse 32
  vEmpty : List Nat
  sEmpty : List Nat
  marks : List FaultMark
  /-- Lane masks of p0 to p6. -/
  preds : List LaneMask
  masks : List LaneMask
  /-- Generator registers g0 to g7. -/
  gens : List (BitVec 256)
  wids : List DWord
  /-- Staging sequence counts per lane (09 R207) and staged entries held by the group. -/
  seqs : List Word
  nStaged : Nat
  fpflags : BitVec 8
  mxflags : BitVec 8
  phwm : Word
  gang : List Nat
  /-- GMMAs issued since the gang list was set (08 R179). -/
  gangSeq : Nat
  tiles : Sparse 32
  gmmas : List InGmma
  latch : Option Latched
  pend : List Producer
  waits : List Wait
  trap : Option TrapRec
  stopped : Bool
  stopReq : Bool
  stepping : Bool
  saving : Bool
  run : Option Run
  lastIssue : Nat
  /-- Relaxed state of fences (07 R152): the scope a pending FENCE.rel gives the next store, per lane mask. -/
  fenceRel : List (LaneMask × Scope)
  deriving DecidableEq, Repr, Inhabited

/-! ## Work -/

/-- A launch header (02 R24), as its 1,024 bits parsed. -/
structure Header where
  entry : DWord
  param : DWord
  done : DWord
  dseq : DWord
  /-- W1 to W5. -/
  widths : List Nat
  c : Nat
  k : Nat
  prio : Nat
  queue : Nat
  /-- E0 to E5. -/
  ext : List Nat
  ctx : Nat
  det : Bool
  /-- REGQ for ANY, COPY, MATRIX, VECTOR. -/
  regq : List Nat
  rmaxq : Nat
  acct : Nat
  sbufs : Nat
  split : Nat
  scratch : Nat
  privInit : Nat
  privMax : Nat
  roles : BitVec 256
  deriving DecidableEq, Repr, Inhabited

/-- Where a launch came from (02 R32). -/
inductive Origin where
  | mailbox (n : Nat)
  | pool
  | ranger
  deriving DecidableEq, Repr, Inhabited

/-- How far a launch has come: its cluster sets run, its deferred OCALLs run, or its completion arrival waits for
a Ranger (02 R43, R44). -/
inductive LaunchStage where
  | running | folding | doneWait
  deriving DecidableEq, Repr, Inhabited

/-- An accepted launch (02 R32, R34). -/
structure Launch where
  id : Nat
  hdr : Header
  origin : Origin
  /-- Next cluster set to place, in ascending order. -/
  next : Nat
  age : Nat
  reserved : Option Nat
  stage : LaunchStage
  staged : List Staged
  /-- Staged entries that lie in the context's deterministic log (09 R207). -/
  spilled : Nat
  deriving DecidableEq, Repr, Inhabited

/-- State of one slot of a slot buffer (05 R115); `byEngine` marks a slot reserved by an engine (05 R116). -/
inductive SlotSt where
  | free | reserved | filled | taken | engine
  deriving DecidableEq, Repr, Inhabited

/-- A slot buffer (05 R113 to R115). -/
structure SlotBuf where
  cfg : Word
  slots : List SlotSt
  pix : Nat
  pph : Bool
  cix : Nat
  cph : Bool
  deriving DecidableEq, Repr, Inhabited

/-- A regrouping record (03 R67). -/
structure RgRec where
  regs : List Word
  wid : DWord
  seq : Word
  blk : Nat
  deriving DecidableEq, Repr, Inhabited

/-- A waiting register claim (02 R29). -/
structure Claim where
  gix : Nat
  n : Nat
  deriving DecidableEq, Repr, Inhabited

/-- A placed block (02 R19 to R22, R28, R36). -/
structure Block where
  uid : Nat
  launch : Nat
  /-- Cluster set number and block number j within it. -/
  cset : Nat
  j : Nat
  core : Nat
  /-- Byte offset of the block's scratchpad in its core's local memory (05 R105). -/
  base : Nat
  scratch : Sparse 8
  /-- Poisoned 16-byte sectors of the scratchpad (05 R460). -/
  scPoison : List Nat
  /-- Private slot numbers by 32 × group index + lane (05 R106). -/
  privSlots : List (Nat × Nat)
  free : Nat
  claims : List Claim
  sbufs : List SlotBuf
  groups : List Group
  /-- The eight address breakpoints loaded (12 R285): VA and control word. -/
  bkpts : List (DWord × DWord)
  bkReload : Bool
  /-- Registers per lane reserved on each partition (02 R30). -/
  regRes : List Nat
  deriving DecidableEq, Repr, Inhabited

/-- A pre-emption that has begun (12 R278): the Rangers that asked (none: the dispatcher), and whether it holds. -/
structure SaveOp where
  launch : Nat
  cset : Nat
  by_ : List Nat
  hold : Bool
  deriving DecidableEq, Repr, Inhabited

/-- A saved cluster set (12 R280, R281) with its save ticket and the image bytes it takes from the save pool. -/
structure SavedSet where
  launch : Nat
  cset : Nat
  ticket : BitVec 16
  hold : Bool
  resumable : Bool
  /-- Barriers on which its WAITB groups wait: VA and phase compared with (02 R41). -/
  barriers : List (DWord × Word)
  /-- Where its images lie in the save pool: offset and bytes (12 R280). -/
  area : Nat
  bytes : Nat
  blocks : List Block
  stamp : Nat
  restoring : Bool
  /-- Records of R67 with each block's uid, in deposit order. -/
  records : List RgRec
  deriving DecidableEq, Repr, Inhabited

/-- State held per context: validity and ceiling (13 R293), the registers of R330, pools and quotas. -/
structure Ctx where
  valid : Bool
  ceiling : Nat
  privBase : DWord
  privStride : Word
  privSlots : Word
  hbmPool : DWord
  ctPool : DWord
  savePool : DWord
  savePoolBytes : Nat
  detLog : DWord
  detLogPages : Nat
  /-- Entries spilled to the deterministic log (09 R207). -/
  detLogUsed : Nat
  quota : Nat
  /-- Queues assigned and the number of free private slots are kept with the queues and the blocks. -/
  slotsTaken : List Nat
  deriving DecidableEq, Repr, Inhabited

/-- The dispatcher (02 R32 to R35, R40, R42). -/
structure Sched where
  /-- Owner context of each launch queue, by queue number. -/
  queueOwner : List (Nat × Nat)
  /-- Launches in each queue, by queue number, oldest first. -/
  queues : List (Nat × List Nat)
  /-- Launch identifiers that hold an entry of the pending-launch pool (02 R40). -/
  pool : List Nat
  /-- Round-robin position among queue heads, for die 0 and die 1. -/
  rr : List Nat
  /-- Split of each core's local memory, by core; absent: the core has no resident block. -/
  splits : List (Nat × Nat)
  nextTicket : BitVec 16
  saveOps : List SaveOp
  saved : List SavedSet
  /-- Regrouping tables: records in deposit order, with their core (03 R67). -/
  records : List (Nat × RgRec)
  deriving DecidableEq, Repr, Inhabited

/-! ## Engines -/

/-- The command of a copy or gather record (16 R345). -/
structure CopyCmd where
  gather : Bool
  src : DWord
  dst : DWord
  idx : DWord
  rowBytes : Nat
  rows : Nat
  sstride : Word
  dstride : Word
  ctl : Word
  bar : DWord
  report : DWord
  deriving DecidableEq, Repr, Inhabited

/-- A copy or gather engine in flight (16 R345 to R348, 07 R155 to R158). `owned` lists the 64-byte lines it owns:
(block uid + 1, line) in scratchpad or (0, line of a physical address). `asked` is the order in which its slot buffer received its
reservation, while it waits for a slot (05 R116). -/
structure CopyEngine where
  id : Nat
  blk : Nat
  gix : Nat
  /-- Core, launch and cluster set of the block, which may end before the engine does. -/
  core : Nat
  launch : Nat
  cset : Nat
  ctx : Nat
  cmd : CopyCmd
  slot : Option Nat
  asked : Option Nat
  row : Nat
  sector : Nat
  /-- The index word of the row it stands in, once it has read it (16 R347). -/
  index : Option Nat
  owned : List (Nat × Nat)
  deriving DecidableEq, Repr, Inhabited

/-- A tier command in flight (05 R121 to R124), on the engine of a die; `asked` as for a copy engine. -/
structure TierCmd where
  id : Nat
  die : Nat
  asked : Option Nat
  blk : Nat
  ctx : Nat
  inward : Bool
  page : DWord
  count : Nat
  kind : Bool
  sb : Nat
  compl : DWord
  report : DWord
  pos : Nat
  moved : Nat
  skipped : Nat
  status : Option Nat
  deriving DecidableEq, Repr, Inhabited

/-- An ICINV in flight (17 R390, 03 R70). -/
structure IcinvOp where
  id : Nat
  party : Party
  blk : Nat
  dst : Nat
  ctx : Nat
  lo : Nat
  hi : Nat
  deriving DecidableEq, Repr, Inhabited

/-- A translation structure of R140: the L1 TLB of a core, or the structures of a die or a stack. -/
inductive TlbHome where
  | core (c : Nat)
  | die (d : Nat)
  | stack (k : Nat)
  deriving DecidableEq, Repr, Inhabited

/-- A TLB entry: context, first VA, log2 of its size, the frame it maps and the leaf's bits (06 R136, R140). -/
structure TlbEntry where
  at_ : TlbHome
  ctx : Nat
  va : Nat
  size : Nat
  frame : Nat
  leaf : DWord
  level : Nat
  deriving DecidableEq, Repr, Inhabited

/-- A walk-cache entry of a die: the table entry of a level reached by a VA prefix (06 R140). -/
structure WalkEntry where
  die : Nat
  ctx : Nat
  level : Nat
  prefix_ : Nat
  entry : DWord
  deriving DecidableEq, Repr, Inhabited

/-- A 16-byte sector in the L1 of a core (05 R108): valid and dirty bytes. -/
structure L1Sector where
  core : Nat
  sector : Nat
  data : BitVec 128
  valid : BitVec 16
  dirty : BitVec 16
  /-- Brought in under STRM: first to be evicted (05 R110). -/
  strm : Bool
  deriving DecidableEq, Repr, Inhabited

/-- A 16-byte sector in the RDC of a die (01 R10, 05 R108): a clean copy of a line homed on the other die. -/
structure RdcSector where
  die : Nat
  sector : Nat
  data : BitVec 128
  /-- Brought in under STRM: first to be evicted (05 R110). -/
  strm : Bool
  deriving DecidableEq, Repr, Inhabited

/-- An instruction word held in the instruction cache of a core (03 R69, R70), tagged with context, VA and PA. -/
structure CodeWord where
  core : Nat
  ctx : Nat
  va : DWord
  pa : Nat
  word : DWord
  deriving DecidableEq, Repr, Inhabited

/-- A run held in a partition's loop buffer (03 R69): its words from its first VA on. -/
structure LoopRun where
  core : Nat
  part : Nat
  ctx : Nat
  start : DWord
  words : List DWord
  deriving DecidableEq, Repr, Inhabited

/-! ## Potluck -/

/-- Who waits for the reply to a request: block uid, group index, lane, destination register; `via` is the peer port
that the request travels through, if any, and `peer` says that the requester is the module at its other end. -/
structure ReplyTo where
  blk : Nat
  gix : Nat
  lane : Nat
  vd : Nat
  prod : Nat
  via : Option Nat
  peer : Bool
  deriving DecidableEq, Repr, Inhabited

/-- An OCALL request (09 R194); `dest` is none for a deferred request, whose reply is discarded (09 R208). -/
structure Request where
  hdrVa : DWord
  hdrPa : Nat
  unit : UnitId
  meth : Byte
  arg : DWord
  ctx : Nat
  wid : DWord
  widths : List Nat
  dest : Option ReplyTo
  stamp : Nat
  deriving DecidableEq, Repr, Inhabited

/-- A reply or fault reply on its way (09 R201, R204). -/
structure Reply where
  dest : ReplyTo
  value : DWord
  fault : Option Byte
  obj : DWord
  meth : Byte
  deriving DecidableEq, Repr, Inhabited

/-- A bound object in a unit's directory (09 R193) with its queue (09 R196). -/
structure Bound where
  unit : UnitId
  hdrVa : DWord
  hdrPa : Nat
  ctx : Nat
  methods : DWord
  window : DWord
  size : Nat
  solo : Bool
  faulted : Bool
  queue : List Request
  deriving DecidableEq, Repr, Inhabited

/-- A combiner wave (09 R198 to R200). -/
structure Wave where
  unit : UnitId
  wslot : Nat
  hdrPa : Nat
  hdrVa : DWord
  ctx : Nat
  n : Nat
  meth : Byte
  reqs : List Request
  /-- Physical lines of the state window, by window line. -/
  lines : List Nat
  windowVa : DWord
  staged : Sparse 8
  size : Nat
  words : Nat
  /-- Launch whose deferred requests it runs, if any (09 R208). -/
  det : Option Nat
  grp : Group
  deriving DecidableEq, Repr, Inhabited

/-- All Potluck units: requests in the network, bound objects, waves and replies in flight. -/
structure Potluck where
  net : List Request
  bound : List Bound
  waves : List Wave
  replies : List Reply
  deriving DecidableEq, Repr, Inhabited

/-! ## The stack fabric -/

/-- A token with its sideband (10 R212). -/
structure Token where
  d : Bool
  scl : Byte
  ctx : Byte
  thr : Byte
  seq : BitVec 16
  h : Bool
  t : Bool
  e : Bool
  val : Nat
  payload : BitVec 512
  deriving DecidableEq, Repr, Inhabited

/-- Where a token goes: an input position (0 L, 1 R, 2 P) of a node slot, or a record's MEM input. -/
inductive Dest where
  | node (slot pos : Nat)
  | record (r : Nat)
  deriving DecidableEq, Repr, Inhabited

/-- Where a token comes from: a node slot or a stream record of a tile. -/
inductive Source where
  | node (x y slot : Nat)
  | record (x y r : Nat)
  deriving DecidableEq, Repr, Inhabited

/-- A token in the mesh (10 R235), with the output path of its source: 0 and 1 are TGT0 and TGT1 (a record's TGT is 0),
2 and 3 STEER's further paths (10 R223). -/
structure Flight where
  src : Source
  path : Nat
  x : Nat
  y : Nat
  dest : Dest
  tok : Token
  /-- It has met a full edge buffer and stays in its destination's switch. -/
  held : Bool
  deriving DecidableEq, Repr, Inhabited

/-- State of a node slot (10 R211): what R259 saves of it. -/
structure NodeSt where
  /-- ACC's lane sums, BFPSUM's in lane 0; empty while no burst is open. -/
  lanes : List Word
  /-- Tokens sent of a source's burst; tokens of a PQ table burst written. -/
  pos : Nat
  /-- SINK's count; K-blocks done by MMAN; tokens FILTER has passed of a burst. -/
  cnt : Nat
  /-- What GEN has added to ROW0 or COL0 of its copy (10 R227). -/
  adv : Word
  /-- A source owes a burst, or the rest of one. -/
  owed : Bool
  /-- Tokens sent of the open burst on each output path; 0 where none is open. -/
  nseq : List Nat
  /-- STEER: path of the open burst (4 discards it); MERGE: input of the open burst. -/
  path : Option Nat
  /-- MERGE: the turn is R's. -/
  turn : Bool
  /-- The token whose sideband an owed E tail or result takes. -/
  head : Token
  /-- Inputs being discarded up to their next tail. -/
  skip : List Nat
  /-- Codes among which the owed E tail takes the lowest. -/
  errs : List Nat
  /-- Results not yet sent, with the mask of the paths they go to. -/
  out : List (Nat × Token)
  /-- MMAN's operand bursts so far, their scales, and whether their tails have come. -/
  abuf : List (BitVec 512)
  bbuf : List (BitVec 512)
  ascl : Byte
  bscl : Byte
  aend : Bool
  bend : Bool
  /-- TOPKN's pairs so far. -/
  keys : List (Word × Word)
  /-- MERGE: inputs whose bursts' heads have arrived, in order. -/
  arrived : List Nat
  /-- Drain has passed the node (10 R259). -/
  frozen : Bool
  deriving DecidableEq, Repr, Inhabited

/-- Phase of a stream record: not begun, waiting for its gate, waiting for a walk, stalled by a fault, moving, or done. -/
inductive StreamPh where
  | idle | waiting | walking | stalled | active | done
  deriving DecidableEq, Repr, Inhabited

/-- State of a stream record (10 R234). -/
structure StreamSt where
  phase : StreamPh
  /-- Elements of the pass before the next one (READ), or before the burst in progress (WRITE). -/
  pos : Nat
  passes : Nat
  gate : Word
  /-- A gated record's pass is in progress. -/
  opened : Bool
  /-- The assembly buffer: elements of the token being filled. -/
  buf : List Nat
  /-- Tokens sent of the open burst; 0 where none is open. -/
  seq : Nat
  /-- The open burst met poison, and the E tail with POISON is owed (10 R240). -/
  pois : Bool
  etail : Bool
  /-- Elements of the open burst written, and elements of the token in hand that are done. -/
  bi : Nat
  ti : Nat
  /-- Elements past the burst's last address have been counted. -/
  past : Bool
  /-- Sectors that the open burst has written, by VA. -/
  touched : List Nat
  /-- Every write of the pass has been performed at its bank. -/
  passEnd : Bool
  /-- The VA of the walk or of the fault, its cause and level, and the Ranger's answer: 0 none, 1 retry,
  2 unresolvable. -/
  va : DWord
  cause : Nat
  level : Nat
  answer : Nat
  /-- The walk in progress answers a retry (11 R258, SFAULTS). -/
  retry : Bool
  /-- Drain has passed the record. -/
  drained : Bool
  deriving DecidableEq, Repr, Inhabited

/-- A tile of a stack fabric (10 R210, R211) with its owner entry (11 R241). -/
structure Tile where
  ownV : Bool
  ownCtx : Nat
  ownRid : Nat
  loaded : Bool
  /-- The loaded block's words as written (11 R251). -/
  words : List DWord
  nodes : List DWord
  taps : List (BitVec 128)
  recs : List (BitVec 512)
  params : List Word
  domains : DWord
  /-- Edge buffers: the queue of input position 3 × slot + pos; record inputs at 48 + record. -/
  edges : List (Nat × List Token)
  escape : Option (Nat × Token)
  /-- Drain tokens that have reached an input, by the arc they came on. -/
  dmarks : List (Nat × Source × Nat)
  acc : Sparse 32
  accPoison : Word
  topkPoison : Bool
  pq : Sparse 8
  node : List NodeSt
  streams : List StreamSt
  fault : Bool
  /-- Stream records whose words failed since the tile was last loaded (10 R240). -/
  badRecs : List Nat
  computeOff : Bool
  /-- WDOFF under which the watchdog count in progress started, where FBCTL has been written since (10 R237). -/
  wdKept : Option Bool
  drops : Word
  ecc : Word
  /-- Catch-up queue lengths by bank (10 R238). -/
  catchup : List (Nat × Nat)
  /-- Domains sealed since the tile was last loaded (11 R263). -/
  sealedDoms : BitVec 16
  deriving DecidableEq, Repr, Inhabited

/-- State of a run (11 R254). -/
inductive RunSt where
  | none | pending | loading | running | draining | drained | done | killed
  deriving DecidableEq, Repr, Inhabited

/-- Lines under fabric ownership (07 R159): VA, PA and length. -/
structure Owned where
  va : Nat
  pa : Nat
  len : Nat
  deriving DecidableEq, Repr, Inhabited

/-- A run of a Hamper entry (11 R254 to R258). -/
structure FabRun where
  rid : Nat
  slot : Nat
  gen : Nat
  st : RunSt
  entry : Nat
  handle : Word
  det : Bool
  seq : DWord
  prio : Nat
  stamp : Nat
  resumed : Bool
  rangerDrained : Bool
  drainAsked : Bool
  bases : List DWord
  passes : Word
  launch : Nat
  wid : DWord
  widths : List Nat
  ctx : Nat
  /-- Resolved footprints: VA and length. -/
  fpR : List (Nat × Nat)
  fpW : List (Nat × Nat)
  /-- Lines under fabric ownership, and whether a completion tap has ended it (07 R159). -/
  owned : List Owned
  ownOver : Bool
  /-- The region's tiles, 8 × y + x, row by row. -/
  tiles : List Nat
  err : Nat
  ftile : Byte
  mxfl : BitVec 8
  dropped : Word
  mismatch : Word
  nankey : Word
  eccc : Word
  poisonsec : Word
  sfaults : Word
  sealed_ : BitVec 16
  drains : BitVec 16
  /-- PASSES as reported, passes whose completion taps have fired, and whether the last firing of R263 has been made. -/
  slowest : Word
  tapped : Nat
  tapEnd : Bool
  /-- Tiles saved by a drain (11 R259), and where their image lies in the save pool: offset and bytes; 0 bytes where it has no place. -/
  image : List Tile
  area : Nat
  bytes : Nat
  /-- Groups whose CFGDRAIN status is written when the run is DRAINED: (block, group, producer). -/
  drainers : List (Nat × Nat × Nat)
  deriving DecidableEq, Repr, Inhabited

/-- A Hamper entry (11 R252, R253). -/
structure HamperEntry where
  ix : Nat
  gen : Nat
  digest : BitVec 256
  ox : Nat
  oy : Nat
  w : Nat
  h : Nat
  ctx : Nat
  prio : Nat
  units : Nat
  blocks : List (List DWord)
  fps : List (DWord × DWord)
  nfpr : Nat
  rates : List DWord
  deriving DecidableEq, Repr, Inhabited

/-- A stream fault record that waits for a Ranger (11 R262). -/
structure StreamFault where
  x : Nat
  y : Nat
  recNo : Nat
  va : DWord
  cause : Nat
  level : Nat
  deriving DecidableEq, Repr, Inhabited

/-- A stack fabric (10 R210). -/
structure Stack where
  tiles : List Tile
  flights : List Flight
  runs : List FabRun
  /-- Generations of run slots (8 × region + slot) and Hamper entries used so far. -/
  runGen : List (Nat × Nat)
  hamper : List HamperEntry
  hamGen : List (Nat × Nat)
  hamRr : Nat
  /-- Regions lent by a Ranger (11 R265): number, context and tiles. -/
  lent : List (Nat × Nat × List Nat)
  /-- Contexts and tiles of killed regions whose channels still counted replies (10 R216). -/
  released : List (Nat × List Nat)
  fbctl : Word
  faults : List StreamFault
  deriving DecidableEq, Repr, Inhabited

/-! ## Rangers and the platform -/

/-- A Ranger (15 R324) with its window registers (12 R270). -/
structure Ranger where
  grp : Group
  running : Bool
  wsel : Word
  waddr : Word
  wstat : Word
  ctxsel : Word
  deriving DecidableEq, Repr, Inhabited

/-- An entry of a die's error log (13 R299). -/
structure LogEntry where
  ty : Byte
  ctx : Byte
  seq : Word
  addr : DWord
  aux0 : DWord
  aux1 : DWord
  deriving DecidableEq, Repr, Inhabited

/-- A die's error log (13 R299): HEAD, TAIL, LOST and the entries written last, by index. -/
structure ErrLog where
  head : Word
  tail : Word
  lost : Word
  entries : List (Nat × LogEntry)
  deriving DecidableEq, Repr, Inhabited

/-- State of a mailbox slot (13 R291); a committed slot may be empty (CANCEL). -/
inductive MbSlot where
  | free | reserved | committed | cancelled
  deriving DecidableEq, Repr, Inhabited

/-- A launch mailbox (13 R291, R293). -/
structure Mailbox where
  en : Bool
  ctx : Nat
  queue : Nat
  vector : BitVec 16
  rptr : Nat
  cptr : Nat
  dptr : Nat
  slots : List (Nat × MbSlot)
  data : Sparse 8
  /-- Clearing EN waits for committed slots to be consumed (13 R293). -/
  closing : Bool
  deriving DecidableEq, Repr, Inhabited

/-- An aperture segment entry (13 R295). -/
structure Segment where
  v : Bool
  remote : DWord
  deriving DecidableEq, Repr, Inhabited

/-- An answer the module gives to the outside world. -/
inductive Output where
  /-- Data returned for a host read, least significant byte first. -/
  | hostData (bytes : List Byte)
  | completerAbort
  | retryStatus
  | configDone (reg : Nat) (v : Word)
  | msix (vector : Nat)
  | peerData (bytes : List Byte)
  | peerDone
  | peerViolation
  /-- The reply to a peer's OCALL, with the requester that it named: block tag, group, lane and register (R194). -/
  | peerReply (port blk gix lane vd : Nat) (value : DWord) (fault : Option Byte)
  /-- A request sent through an aperture target to a peer or the host (13 R294, R295). -/
  | peerRequest (target : Nat) (addr : DWord) (write : Bool) (data : List Byte)
  /-- A write of n poisoned bytes to a peer or the host (05 R460, 16 R347). -/
  | peerPoison (target : Nat) (addr : DWord) (n : Nat)
  /-- The update of a segment's header by CSTORE: COUNT grows by n unless that passes CAP (05 R125). -/
  | peerAppend (target : Nat) (addr : DWord) (n : Nat)
  | peerAtomic (target : Nat) (addr : DWord) (aop : Nat) (operand : BitVec 128)
  | peerArrive (target : Nat) (addr : DWord) (n : Word)
  /-- An OCALL request with what R194 has it carry. -/
  | peerOcall (target : Nat) (addr : DWord) (meth : Byte) (arg : DWord) (ctx : Nat) (wid : DWord) (widths : List Nat) (blk gix lane vd : Nat)
  | peerBind (target : Nat) (addr va : DWord) (unbind : Bool) (ctx : Nat)
  /-- The answer to a peer's bind: done, or the cause of its refusal. -/
  | peerBound (port : Nat) (fault : Option Byte)
  | spdmVersion (v : Nat)
  | spdmCapabilities
  | spdmAlgorithms (hash sig : Nat)
  | spdmDigests (d : BitVec 256)
  | spdmCertificate (bytes : List Byte)
  | spdmChallenge (sig : List Byte)
  | spdmMeasurement (index : Nat) (value : BitVec 256) (sig : List Byte)
  | spdmError
  deriving DecidableEq, Repr, Inhabited

/-- Registers of the platform (13). -/
structure Plat where
  mailboxes : List (Nat × Mailbox)
  mgcmd : Word
  mgstat : Word
  mgargs : List DWord
  b2win : DWord
  errvec : Word
  sagcnt : DWord
  bootstat : Word
  powercap : Nat
  /-- Partitions whose clock is stretched (13 R298). -/
  stretched : List (Nat × Nat)
  /-- The MSI-X table, each byte as its difference from its reset contents. -/
  msixTable : Sparse 8
  pba : Sparse 8
  segments : List (Nat × Segment)
  /-- Segments exposed to peers (13 R295): port and first PA of 64 MiB. -/
  exposed : List (Nat × Nat)
  linksDown : List Nat
  logs : List ErrLog
  /-- Trap queues of die 0 and die 1 (12 R269), oldest first, and record numbers. -/
  trapq : List (List Handle)
  recSeq : List Word
  mrs : List (BitVec 256)
  keys : List (BitVec 256)
  trust : List (BitVec 256)
  /-- What the firmware's handler has logged of calls without a service (19 R432): handle and code, oldest first. -/
  svcLog : List (BitVec 16 × Nat)
  /-- Both firmware images failed: BAR0 answers only BOOTSTAT and the logs (13 R296). -/
  bootFailed : Bool
  /-- Configuration requests receive retry status (13 R288). -/
  crs : Bool
  /-- SPDM: negotiation has completed. -/
  spdmReady : Bool
  /-- log2 of the size of BAR2 (13 R289). -/
  bar2Log : Nat
  out : List Output
  deriving DecidableEq, Repr, Inhabited

/-- Device-held system registers (15 R330). -/
structure DevRegs where
  ctxtab : Word
  tlbivalo : Word
  tlbivahi : Word
  tlbicmd : Word
  /-- The invalidation in progress (06 R143): the command word and the range base. -/
  tlbiRun : Option (Word × DWord)
  dbtab : Word
  fbown : Word
  fbrstat : Word
  /-- The region command that keeps BUSY set: stack and region, and run slot for DRAIN. -/
  fbrBusy : Option (Nat × Nat × Nat)
  /-- Latched [63:32] of the core clock, by core; Ranger n at 1000 + n (15 R331). -/
  clkhi : List (Nat × Word)
  deriving DecidableEq, Repr, Inhabited

/-- The party that issues a word, and the word's entry (the model's own field, set by `step` around `exec`). -/
structure Cur where
  party : Party
  pc : DWord
  mask : LaneMask
  df : Bool
  word : DWord
  deriving DecidableEq, Repr, Inhabited

/-- What happens next: an event, a word of a partition, a wave or a Ranger, or a move of the environment on a cache
(the model's own; the order of turns stands for every order the device may take). -/
inductive Turn where
  | event (e : Instr)
  | issue (core part : Nat)
  | wave (u : UnitId) (wslot : Nat)
  | ranger (n : Nat)
  | evictL1 (core sector : Nat)
  | cleanL2 (sector : Nat)
  | dropRdc (ix : Nat)
  | dropTlb (ix : Nat)
  | dropWalk (ix : Nat)
  | dropCode (ix : Nat)
  | dropLoop (ix : Nat)
  /-- The system Ranger's firmware injects a launch: its header's 1,024 bits (01 R15, 02 R32). -/
  | inject (w : Nat)
  /-- The firmware has trained HBM, the CT and the peer links, and begins to measure (13 R296). -/
  | trained
  /-- The firmware answers a call for which it has no service (19 R432). -/
  | noService (h : Handle)
  deriving DecidableEq, Repr

/-- The whole machine. -/
structure State where
  mem : List Host.Cell
  /-- Poisoned 16-byte sectors of memory (01 R12, 10 R240), rising. -/
  poison : List Nat
  /-- DRAM bytes that are older than the home value, below a dirty L2 line (07 R158). -/
  old : List (Nat × Byte)
  /-- Lines that the L2 holds under STRM: first to be evicted (05 R110). -/
  l2strm : List Nat
  l1 : List L1Sector
  /-- The RDCs of both dies, oldest copy first (05 R108). -/
  rdc : List RdcSector
  tlb : List TlbEntry
  walks : List WalkEntry
  code : List CodeWord
  loops : List LoopRun
  ctxs : List (Nat × Ctx)
  launches : List Launch
  blocks : List Block
  sched : Sched
  copies : List CopyEngine
  tiers : List TierCmd
  icinvs : List IcinvOp
  potluck : Potluck
  fabrics : List Stack
  rangers : List Ranger
  dev : DevRegs
  plat : Plat
  frozen : Bool
  cur : Option Cur
  agenda : List Turn
  /-- Counter for free values and fresh identifiers (the model's own). -/
  fresh : Nat
  deriving DecidableEq, Repr

/-! ## Reset -/

/-- A group with every register at zero, full, and nothing pending (02 R36). -/
def Group.blank : Group where
  index := 0
  part := 0
  slot := 0
  role := .any
  alloc := 8
  acct := 0
  present := 0
  live := 0
  tab := []
  v := []
  sr := []
  vEmpty := []
  sEmpty := []
  marks := []
  preds := List.replicate 7 0
  masks := List.replicate 12 0
  gens := List.replicate 8 0
  wids := List.replicate 32 0
  seqs := List.replicate 32 0
  nStaged := 0
  fpflags := 0
  mxflags := 0
  phwm := 0
  gang := []
  gangSeq := 0
  tiles := []
  gmmas := []
  latch := none
  pend := []
  waits := []
  trap := none
  stopped := false
  stopReq := false
  stepping := false
  saving := false
  run := none
  lastIssue := 0
  fenceRel := []

/-- A context that is not valid (13 R293). -/
def Ctx.blank : Ctx where
  valid := false
  ceiling := 0
  privBase := 0
  privStride := 0
  privSlots := 0
  hbmPool := 0
  ctPool := 0
  savePool := 0
  savePoolBytes := 0
  detLog := 0
  detLogPages := 0
  detLogUsed := 0
  quota := 0
  slotsTaken := []

/-- A Ranger before its firmware runs: lane 0 present, every register zero. -/
def Ranger.blank : Ranger where
  grp := { Group.blank with alloc := 512, present := 1 }
  running := false
  wsel := 0
  waddr := 0
  wstat := 0
  ctxsel := 0

/-- An error log with no entry (13 R299). -/
def ErrLog.blank : ErrLog := { head := 0, tail := 0, lost := 0, entries := [] }

/-- A node slot in which nothing has happened. -/
def NodeSt.blank : NodeSt where
  lanes := []
  pos := 0
  cnt := 0
  adv := 0
  owed := false
  nseq := List.replicate 4 0
  path := none
  turn := false
  head := default
  skip := []
  errs := []
  out := []
  abuf := []
  bbuf := []
  ascl := 127
  bscl := 127
  aend := false
  bend := false
  keys := []
  arrived := []
  frozen := false

/-- A stream record in which nothing has happened. -/
def StreamSt.blank : StreamSt where
  phase := .idle
  pos := 0
  passes := 0
  gate := 0
  opened := false
  buf := []
  seq := 0
  pois := false
  etail := false
  bi := 0
  ti := 0
  past := false
  touched := []
  passEnd := false
  va := 0
  cause := 0
  level := 0
  answer := 0
  retry := false
  drained := false

/-- A tile with no owner and nothing loaded. -/
def Tile.blank : Tile where
  ownV := false
  ownCtx := 0
  ownRid := 0
  loaded := false
  words := []
  nodes := List.replicate 16 0
  taps := List.replicate 3 0
  recs := List.replicate 4 0
  params := []
  domains := 0
  edges := []
  escape := none
  dmarks := []
  acc := []
  accPoison := 0
  topkPoison := false
  pq := []
  node := List.replicate 16 NodeSt.blank
  streams := List.replicate 4 StreamSt.blank
  fault := false
  badRecs := []
  computeOff := false
  wdKept := none
  drops := 0
  ecc := 0
  catchup := []
  sealedDoms := 0

/-- A stack fabric with nothing loaded; SYS.FBCTL at its reset value, WDLOG 20 and BTLOG 12 (10 R237). -/
def Stack.blank : Stack where
  tiles := List.replicate 64 Tile.blank
  flights := []
  runs := []
  runGen := []
  hamper := []
  hamGen := []
  hamRr := 0
  lent := []
  released := []
  fbctl := 0x028C0000
  faults := []

/-- A mailbox after reset: disabled, every slot FREE (13 R291). -/
def Mailbox.blank : Mailbox where
  en := false
  ctx := 0
  queue := 0
  vector := 0xFFFF
  rptr := 0
  cptr := 0
  dptr := 0
  slots := []
  data := []
  closing := false

/-- The platform's registers after reset (13 R293, R296). -/
def Plat.reset : Plat where
  mailboxes := []
  mgcmd := 0
  mgstat := 0
  mgargs := List.replicate 4 0
  b2win := 0
  errvec := 0
  sagcnt := 0
  bootstat := 0
  powercap := 2500
  stretched := []
  msixTable := []
  pba := []
  segments := []
  exposed := []
  linksDown := []
  logs := [ErrLog.blank, ErrLog.blank]
  trapq := [[], []]
  recSeq := [0, 0]
  mrs := List.replicate 8 0
  keys := []
  trust := []
  svcLog := []
  bootFailed := false
  crs := true
  spdmReady := false
  bar2Log := 42
  out := []

/-- The machine right after reset (13 R296): memory lists nothing, no context is valid, nothing is placed and no Ranger runs. The
values that the spec gives are FREE mailbox slots (13 R291), WDLOG and BTLOG (10 R237), retry status until bring-up (13 R288) and
empty error logs (13 R299); every other value is the model's choice (log entries 1 to 4, 46, 60, 64). -/
def State.reset : State where
  mem := []
  poison := []
  old := []
  l2strm := []
  l1 := []
  rdc := []
  tlb := []
  walks := []
  code := []
  loops := []
  ctxs := []
  launches := []
  blocks := []
  sched := { queueOwner := [], queues := [], pool := [], rr := [0, 0], splits := [], nextTicket := 0, saveOps := [],
             saved := [], records := [] }
  copies := []
  tiers := []
  icinvs := []
  potluck := { net := [], bound := [], waves := [], replies := [] }
  fabrics := List.replicate 8 Stack.blank
  rangers := List.replicate 9 Ranger.blank
  dev := { ctxtab := 0, tlbivalo := 0, tlbivahi := 0, tlbicmd := 0, tlbiRun := none, dbtab := 0, fbown := 0, fbrstat := 0,
           fbrBusy := none, clkhi := [] }
  plat := Plat.reset
  frozen := false
  cur := none
  agenda := []
  fresh := 0

end Sys2Proof.Machine
end

