-- ==== Sys2Proof/Machine/Maps.lean ====
section
/-! DEFINITION. Plain-data helpers: sparse arrays, association lists, little-endian bytes (spec 00 R4), lane
masks, and a structural sort. -/

namespace Sys2Proof.Machine

/-! ## Sparse arrays in canonical form -/

/-- The value at a key; zero where nothing is listed. -/
def Sparse.get {w : Nat} : Sparse w → Nat → BitVec w
  | [], _ => 0
  | (a, v) :: t, k => if a = k then v else Sparse.get t k

/-- Writes a value at a key and keeps the canonical form: writing zero removes the entry. -/
def Sparse.set {w : Nat} : Sparse w → Nat → BitVec w → Sparse w
  | [], k, v => if v = 0 then [] else [(k, v)]
  | (a, x) :: t, k, v =>
    if k < a then (if v = 0 then (a, x) :: t else (k, v) :: (a, x) :: t)
    else if k = a then (if v = 0 then t else (k, v) :: t)
    else (a, x) :: Sparse.set t k v

/-- Writes a list of values one after another. -/
def Sparse.setAll {w : Nat} (m : Sparse w) (l : List (Nat × BitVec w)) : Sparse w :=
  l.foldl (fun m kv => Sparse.set m kv.1 kv.2) m

/-- Removes every entry whose key satisfies a test. -/
def Sparse.drop {w : Nat} (m : Sparse w) (p : Nat → Bool) : Sparse w :=
  m.filter (fun kv => !p kv.1)

/-- The canonical form: keys rise strictly from a bound, and no value is zero. -/
def Sparse.wfFrom {w : Nat} : Nat → Sparse w → Bool
  | _, [] => true
  | lo, (a, v) :: t => decide (lo ≤ a) && decide (v ≠ 0) && Sparse.wfFrom (a + 1) t

/-- The canonical form of a sparse array. -/
def Sparse.wf {w : Nat} (m : Sparse w) : Bool := Sparse.wfFrom 0 m

/-! ## Association lists and indexed lists -/

/-- The value under a key, or a default. -/
def lookD {α : Type} (d : α) : List (Nat × α) → Nat → α
  | [], _ => d
  | (a, v) :: t, k => if a = k then v else lookD d t k

/-- The value under a key, if any. -/
def look? {α : Type} : List (Nat × α) → Nat → Option α
  | [], _ => none
  | (a, v) :: t, k => if a = k then some v else look? t k

/-- Sets the value under a key; keys rise. -/
def put {α : Type} : List (Nat × α) → Nat → α → List (Nat × α)
  | [], k, v => [(k, v)]
  | (a, x) :: t, k, v => if k < a then (k, v) :: (a, x) :: t else if k = a then (k, v) :: t else (a, x) :: put t k v

/-- Removes a key. -/
def del {α : Type} (m : List (Nat × α)) (k : Nat) : List (Nat × α) := m.filter (fun kv => kv.1 != k)

/-- The element at an index, or a default. -/
def nth {α : Type} (d : α) : List α → Nat → α
  | [], _ => d
  | x :: _, 0 => x
  | _ :: t, n + 1 => nth d t n

/-- Replaces the element at an index, if there is one. -/
def setNth {α : Type} : List α → Nat → α → List α
  | [], _, _ => []
  | _ :: t, 0, v => v :: t
  | x :: t, n + 1, v => x :: setNth t n v

/-- Removes the element at an index. -/
def dropNth {α : Type} : List α → Nat → List α
  | [], _ => []
  | _ :: t, 0 => t
  | x :: t, n + 1 => x :: dropNth t n

/-- Replaces the first element that satisfies a test. -/
def updFirst {α : Type} (p : α → Bool) (f : α → α) : List α → List α
  | [] => []
  | x :: t => if p x then f x :: t else x :: updFirst p f t

/-- Inserts into a rising list of numbers without repetition. -/
def insNat : List Nat → Nat → List Nat
  | [], k => [k]
  | a :: t, k => if k < a then k :: a :: t else if k = a then a :: t else a :: insNat t k

/-- Inserts before the first element that is not less or equal: a stable insertion. -/
def insertBy {α : Type} (le : α → α → Bool) (x : α) : List α → List α
  | [] => [x]
  | y :: t => if le x y && !le y x then x :: y :: t else y :: insertBy le x t

/-- A stable sort by insertion. -/
def sortBy {α : Type} (le : α → α → Bool) (l : List α) : List α :=
  l.foldl (fun acc x => insertBy le x acc) []

/-- Least element of a list of numbers. -/
def minNat : List Nat → Option Nat
  | [] => none
  | a :: t => match minNat t with
    | none => some a
    | some b => some (if a ≤ b then a else b)

/-! ## Bits and bytes -/

/-- A truth value as one bit. -/
def bit (b : Bool) : BitVec 1 := BitVec.ofBool b

/-- Bits [lo + n - 1 : lo] of a number. -/
def bits (x lo n : Nat) : Nat := (x >>> lo) % 2 ^ n

/-- The n little-endian bytes of a number (00 R4). -/
def toBytes : Nat → Nat → List Byte
  | 0, _ => []
  | n + 1, x => BitVec.ofNat 8 x :: toBytes n (x / 256)

/-- The number of little-endian bytes. -/
def ofBytes : List Byte → Nat
  | [] => 0
  | b :: t => b.toNat + 256 * ofBytes t

/-- A number read as a signed value of w bits. -/
def toSigned (w x : Nat) : Int :=
  let y := x % 2 ^ w
  if y < 2 ^ (w - 1) then (y : Int) else (y : Int) - (2 ^ w : Nat)

/-- An integer as a value of w bits, modulo 2^w. -/
def ofInt (w : Nat) (x : Int) : Nat := (x % ((2 ^ w : Nat) : Int)).toNat

/-- Number of set bits among the low w bits. -/
def popcount : Nat → Nat → Nat
  | 0, _ => 0
  | w + 1, x => x % 2 + popcount w (x / 2)

/-- Bits of the low w positions that are set, ascending. -/
def bitList (w x : Nat) : List Nat := (List.range w).filter (fun i => x.testBit i)

/-- Lanes of a mask, ascending. -/
def lanesOf (m : LaneMask) : List Nat := bitList 32 m.toNat

/-- The mask of one lane. -/
def laneBit (l : Nat) : LaneMask := 1#32 <<< l

/-- The mask of a list of lanes. -/
def maskOf (l : List Nat) : LaneMask := l.foldl (fun m i => m ||| laneBit i) 0

/-- Whether a lane is in a mask. -/
def hasLane (m : LaneMask) (l : Nat) : Bool := m.getLsbD l

/-- Sign extension of an n-bit field to 64 bits. -/
def sext64 {n : Nat} (x : BitVec n) : DWord := x.signExtend 64

/-- Ceiling of a quotient. -/
def ceilDiv (a b : Nat) : Nat := (a + b - 1) / b

end Sys2Proof.Machine
end

