-- ==== Sys2Proof/Machine/Legal.lean ====
section
/-! DEFINITION. Which words are instructions: for every lane instruction, the registers its fields name and the
checks of 14 R313 that need nothing but the word. One table serves the decoder's legality check, REGRANGE and
SBFAULT, EMPTYREAD and blocking. -/

namespace Sys2Proof.Machine

/-- Kinds of register a field may name (14 R304). -/
inductive RegKind where
  | vec | sca | pred | mask | gen | tile | sbuf
  deriving DecidableEq, Repr

/-- What a field of a word names: nothing, `cnt` vector or scalar registers aligned to `cnt`, a window of vector
registers without alignment, eight scalars, a register of another kind, or a small immediate. -/
inductive Slot where
  | none
  | v (cnt : Nat)
  | s (cnt : Nat)
  | w (cnt : Nat)
  | k (kind : RegKind)
  | imm (bound : Nat)
  deriving DecidableEq, Repr

/-- A register operand of a word: kind, first number, count, whether it is read and written, and its empty-mode bit. -/
structure Opnd where
  kind : RegKind
  n : Nat
  cnt : Nat
  src : Bool
  dst : Bool
  t : Bool
  deriving DecidableEq, Repr

/-- Whether a word is legal (14 R313), and its register operands. -/
structure Spec where
  ok : Bool
  ops : List Opnd
  deriving DecidableEq, Repr

/-- The limits of R304 on a field of a given kind. -/
def Slot.legal (sl : Slot) (x : Nat) : Bool :=
  match sl with
  | .none => x = 0
  | .v c => x % c = 0
  | .s c => x % c = 0 && x + c ≤ 64
  | .w _ => true
  | .k .pred => x < 8
  | .k .mask => x < 12
  | .k .gen => x < 8
  | .k .tile => x < 16
  | .k .sbuf => x < 16
  | .k _ => false
  | .imm b => x < b

/-- Whether a T bit may be set over the field (R305). -/
def Slot.hasEmpty (sl : Slot) : Bool :=
  match sl with
  | .v _ => true
  | .s _ => true
  | .w _ => true
  | _ => false

/-- The operand a field names. -/
def Slot.opnd (sl : Slot) (x : Nat) (src dst t : Bool) : List Opnd :=
  match sl with
  | .none => []
  | .imm _ => []
  | .v c => [⟨.vec, x, c, src, dst, t⟩]
  | .w c => [⟨.vec, x, c, src, dst, t⟩]
  | .s c => [⟨.sca, x, c, src, dst, t⟩]
  | .k kd => [⟨kd, x, 1, src, dst, t⟩]

/-- A format V word with a destination and up to three sources (R303). -/
def specV (f : FmtV) (fnOk : Bool) (d a b c : Slot) : Spec where
  ok := f.g != 15 && fnOk && d.legal f.dst.toNat && a.legal f.sa.toNat && b.legal f.sb.toNat && c.legal f.sc.toNat
    && (!f.ta || a.hasEmpty) && (!f.tb || b.hasEmpty) && (!f.tc || c.hasEmpty)
  ops := d.opnd f.dst.toNat false true false ++ a.opnd f.sa.toNat true false f.ta
    ++ b.opnd f.sb.toNat true false f.tb ++ c.opnd f.sc.toNat true false f.tc

/-! ## Fields of the ALU layout (R306) -/

/-- SK, the scalar form. -/
def fnSk (fn : BitVec 11) : Bool := fn.getLsbD 10
/-- BC, the second source is scalar. -/
def fnBc (fn : BitVec 11) : Bool := fn.getLsbD 9
/-- TY, the element type's code. -/
def fnTy (fn : BitVec 11) : Nat := (fn.extractLsb' 5 4).toNat
/-- RM, the rounding mode's code (R84). -/
def fnRm (fn : BitVec 11) : Nat := (fn.extractLsb' 3 2).toNat
/-- SUB, the sub-operation. -/
def fnSub (fn : BitVec 11) : Nat := (fn.extractLsb' 0 3).toNat

/-- Registers an operand of the word's type takes: two for 64-bit types. -/
def tyRegs (ty : Nat) : Nat := if ty = 2 || ty = 3 then 2 else 1

/-- The integer types of 32 and 64 bits. -/
def tyInt (ty : Nat) : Bool := ty < 4
/-- The type .f32. -/
def tyF32 (ty : Nat) : Bool := ty = 8

/-- The scalar form of a slot (R306, SK). -/
def Slot.scalar (sl : Slot) : Slot :=
  match sl with
  | .v c => .s c
  | other => other

/-- A format V word in the ALU layout. -/
def specAlu (f : FmtV) (skOk bcOk tyOk rmOk subOk : Bool) (d a b c : Slot) : Spec :=
  let sk := fnSk f.fn
  let bc := fnBc f.fn
  let sl := fun (x : Slot) => if sk then x.scalar else x
  let slb := if sk || bc then b.scalar else b
  specV f ((!sk || skOk) && (!bc || (bcOk && !sk)) && tyOk && (rmOk || fnRm f.fn = 0) && subOk)
    (sl d) (sl a) slb (sl c)

/-- A format I word (R303, R306): BC zero, RM zero, a destination and one source. -/
def specI (f : FmtI) (skOk immOk subOk : Bool) (d a : Slot) : Spec :=
  let sk := fnSk f.fn
  let sl := fun (x : Slot) => if sk then x.scalar else x
  { ok := f.g != 15 && (!sk || skOk) && !fnBc f.fn && tyInt (fnTy f.fn) && fnRm f.fn = 0 && subOk && immOk
      && (sl d).legal f.dst.toNat && (sl a).legal f.sa.toNat && (!f.ta || (sl a).hasEmpty)
    ops := (sl d).opnd f.dst.toNat false true false ++ (sl a).opnd f.sa.toNat true false f.ta }

/-! ## Fields of the memory layout (R307, R308) -/

/-- SZ. -/
def fnSz (fn : BitVec 11) : Nat := (fn.extractLsb' 8 3).toNat
/-- AM. -/
def fnAm (fn : BitVec 11) : Nat := (fn.extractLsb' 6 2).toNat
/-- ORD (R328). -/
def fnOrd (fn : BitVec 11) : Nat := (fn.extractLsb' 4 2).toNat
/-- SCOPE (R328). -/
def fnScope (fn : BitVec 11) : Nat := (fn.extractLsb' 1 3).toNat
/-- RMT. -/
def fnRmt (fn : BitVec 11) : Bool := fn.getLsbD 0
/-- CH, with ORD relaxed. -/
def fnCh (fn : BitVec 11) : Nat := (fn.extractLsb' 2 2).toNat
/-- SX, with ORD relaxed. -/
def fnSx (fn : BitVec 11) : Bool := fn.getLsbD 1

/-- Registers that a datum of size code SZ takes. -/
def szRegs (sz : Nat) : Nat := if sz = 3 then 2 else if sz = 4 then 4 else 1

/-- Order, scope and RMT codes that an instruction accepts (R308, R329). -/
def ordLegal (fn : BitVec 11) (ords : List Nat) (rmtOk : Bool) : Bool :=
  ords.contains (fnOrd fn) && fnScope fn < 6 && (!fnRmt fn || (rmtOk && (fnOrd fn = 1 || fnOrd fn = 3)))

/-- A load or store (R307, R395, R425). -/
def specMem (f : FmtM) (scratch store : Bool) : Spec :=
  let fn := f.fn
  let sz := fnSz fn
  let am := fnAm fn
  let relaxed : Bool := fnOrd fn = 0
  let ordOk := if relaxed then !fn.getLsbD 0 && fnCh fn < 3 && (!scratch || fnCh fn = 0)
      && (!fnSx fn || (!store && sz < 2))
    else ordLegal fn [if store then 2 else 1] (!store)
  let dv : Slot := .v (szRegs sz)
  let av : Slot := if scratch then (if am = 0 then .s 1 else .v 1)
    else if am = 0 then .s 2 else if am = 1 then .v 2 else .v 1
  { ok := f.g != 15 && sz < 5 && (am < 2 || (am = 2 && !scratch)) && ordOk && dv.legal f.dv.toNat && av.legal f.av.toNat
    ops := dv.opnd f.dv.toNat store (!store) f.ta ++ av.opnd f.av.toNat true false f.ta }

/-- AOP, the operation code of an atomic (R307, R342). -/
def atomOp (f : FmtM) : Nat := (f.off.extractLsb' 15 5).toNat
/-- Width in bytes of an atomic operation (R342). -/
def atomBytes (aop : Nat) : Nat :=
  if [1, 6, 7, 8, 9, 0x0B, 0x0D, 0x0F, 0x11, 0x13].contains aop then 8 else 4
/-- Registers of the data operand (R342): cas takes compare and new. -/
def atomRegs (aop : Nat) : Nat :=
  (if atomBytes aop = 8 then 2 else 1) * (if aop = 0x12 || aop = 0x13 then 2 else 1)
/-- Whether an atomic operation is floating point (R342). -/
def atomFp (aop : Nat) : Bool := 0x14 ≤ aop

/-- An atomic (R307, R342, R343). With RET the data registers are also the destination. -/
def specAtom (f : FmtM) (scratch : Bool) : Spec :=
  let fn := f.fn
  let am := fnAm fn
  let dv : Slot := .v (atomRegs (atomOp f))
  let av : Slot := if scratch then (if am = 0 then .s 1 else .v 1) else (if am = 0 then .s 2 else .v 2)
  { ok := f.g != 15 && (fn.extractLsb' 8 2) = 0 && am < 2 && ordLegal fn [0, 1, 2, 3] true && atomOp f < 0x1A
      && dv.legal f.dv.toNat && av.legal f.av.toNat
    ops := dv.opnd f.dv.toNat true (fnSk fn) f.ta ++ av.opnd f.av.toNat true false f.ta }

/-- PREF (R414). -/
def specPref (f : FmtM) : Spec :=
  let am := fnAm f.fn
  let av : Slot := if am = 0 then .s 2 else .v 2
  { ok := f.g != 15 && f.dv = 0 && fnSz f.fn = 0 && am < 2 && fnOrd f.fn = 0 && !f.fn.getLsbD 0 && !fnSx f.fn
      && fnCh f.fn < 3 && av.legal f.av.toNat
    ops := av.opnd f.av.toNat true false f.ta }

/-- System register numbers that the map of R330 assigns. -/
def sysAssigned (n : Nat) : Bool :=
  n ≤ 6 || n = 8 || n = 9 || (0x10 ≤ n && n ≤ 0x18) || (0x20 ≤ n && n ≤ 0x3F) || (0x100 ≤ n && n ≤ 0x108) || n = 0x200
    || (0x210 ≤ n && n ≤ 0x212) || (0x300 ≤ n && n ≤ 0x30B) || (0xF00 ≤ n && n ≤ 0xF07)

/-- SYSRD or SYSWR (R303, R428). -/
def specSys (f : FmtS) (write : Bool) : Spec :=
  { ok := f.g != 15 && f.rsv = 0 && f.reg.toNat < 64 && sysAssigned f.sysnum.toNat
    ops := [⟨.sca, f.reg.toNat, 1, write, !write, false⟩] }

/-- Half opcodes that take an immediate (R311). -/
def hopImm (h : Nat) : Bool := h ≤ 0x0C
/-- A half of a dual word (R310, R311). -/
def halfOk (h : Half) : Bool :=
  let o := h.hop.toNat
  0 < o && o < 0x14 && !h.hf1 && (!h.imm || hopImm o) && (!h.u || o = 4 || o = 5)

/-- Registers a half names; an empty HD or HS is a source under HT (R55). -/
def halfOps (h : Half) : List Opnd :=
  ⟨.vec, h.hd.toNat, 1, true, true, h.ht⟩ :: (if h.imm then [] else [⟨.vec, h.hs.toNat, 1, true, false, h.ht⟩])

/-- A dual word: both halves, and the bank rules (R310 to R312). -/
def specDual (d : Dual) : Spec :=
  { ok := halfOk d.h0 && halfOk d.h1 && d.h0.hd.toNat % 4 != d.h1.hd.toNat % 4
      && (d.h0.imm || d.h1.imm || d.h0.hs.toNat % 4 != d.h1.hs.toNat % 4)
    ops := halfOps d.h0 ++ halfOps d.h1 }

/-- Width in bits of an element type's code that PACK and UNPACK accept (R407); 0 for the others. -/
def packWidth (ty : Nat) : Nat :=
  if [4, 5, 9, 10].contains ty then 16 else if [6, 7, 11, 12].contains ty then 8 else if [13, 14].contains ty then 4 else 0

/-- Whether a code is a floating-point element type (R306). -/
def tyFloat (ty : Nat) : Bool := 8 ≤ ty && ty ≤ 13

/-- What R360 accepts of CVTF. -/
def cvtfLegal (dty sty sub : Nat) : Bool := tyFloat dty && sty < 15 && sub < 2
/-- What R360 accepts of CVTI. -/
def cvtiLegal (dty sty rm sub : Nat) : Bool :=
  (dty < 8 || dty = 14) && sty < 15 && (if tyFloat sty then sub = 0 else rm = 0 && sub < 2)

/-- An operand of the GMMA form: a generator or an even scalar pair (08 R168). -/
def gmmaSlot (g : Bool) : Slot := if g then .k .gen else .s 2

/-- GMMA's function bits (08 R168). -/
def gmmaFn (fn : BitVec 11) : Bool :=
  let ga := fn.getLsbD 10
  let gb := fn.getLsbD 9
  (fn.extractLsb' 0 4) = 0 && !(ga && gb) && (!fn.getLsbD 8 || ga || gb)

/-- Window size of RGPUT and RGTAKE (18 R417). -/
def rgWin (fn : BitVec 11) : Nat := 2 ^ fnSub fn

/-- The legality and the operands of every word. -/
def specOf : Instr → Spec
  | .nop f => specV f (f.fn = 0) .none .none .none .none
  | .mov f =>
    let n := tyRegs (fnTy f.fn)
    if fnSub f.fn = 0 then specAlu f true false (tyInt (fnTy f.fn)) false true (.v n) (.v n) .none .none
    else if fnSub f.fn = 1 then specAlu f false false (fnTy f.fn < 2) false true (.v 1) (.s 1) .none .none
    else specAlu f false false (fnTy f.fn < 2) false (fnSub f.fn = 2) (.s 1) (.v 1) (.s 1) .none
  | .movl f => { ok := f.g != 15 && f.rsv = 0, ops := [⟨.vec, f.dst.toNat, 1, false, true, false⟩] }
  | .iadd f => specAlu f true true (tyInt (fnTy f.fn)) false (fnSub f.fn < 2) (.v (tyRegs (fnTy f.fn))) (.v (tyRegs (fnTy f.fn))) (.v (tyRegs (fnTy f.fn))) (.none)
  | .isub f => specAlu f true true (tyInt (fnTy f.fn)) false (fnSub f.fn < 2) (.v (tyRegs (fnTy f.fn))) (.v (tyRegs (fnTy f.fn))) (.v (tyRegs (fnTy f.fn))) (.none)
  | .imul f => specAlu f true true (tyInt (fnTy f.fn)) false (fnSub f.fn < 2) (.v (tyRegs (fnTy f.fn))) (.v (tyRegs (fnTy f.fn))) (.v (tyRegs (fnTy f.fn))) (.none)
  | .iaddi f => specI f true (true) (fnSub f.fn < 2) (.v (tyRegs (fnTy f.fn))) (.v (tyRegs (fnTy f.fn)))
  | .imulh f => specAlu f true true (tyInt (fnTy f.fn)) false (fnSub f.fn = 0) (.v (tyRegs (fnTy f.fn))) (.v (tyRegs (fnTy f.fn))) (.v (tyRegs (fnTy f.fn))) (.none)
  | .imin f => specAlu f true true (tyInt (fnTy f.fn)) false (fnSub f.fn = 0) (.v (tyRegs (fnTy f.fn))) (.v (tyRegs (fnTy f.fn))) (.v (tyRegs (fnTy f.fn))) (.none)
  | .imax f => specAlu f true true (tyInt (fnTy f.fn)) false (fnSub f.fn = 0) (.v (tyRegs (fnTy f.fn))) (.v (tyRegs (fnTy f.fn))) (.v (tyRegs (fnTy f.fn))) (.none)
  | .imad f => specAlu f true true (tyInt (fnTy f.fn)) false (fnSub f.fn < 2) (.v (tyRegs (fnTy f.fn))) (.v (tyRegs (fnTy f.fn))) (.v (tyRegs (fnTy f.fn))) (.v (tyRegs (fnTy f.fn)))
  | .iabs f => specAlu f true true (fnTy f.fn = 0 || fnTy f.fn = 2) false (fnSub f.fn < 2) (.v (tyRegs (fnTy f.fn))) (.v (tyRegs (fnTy f.fn))) (.none) (.none)
  | .and f => specAlu f true true (tyInt (fnTy f.fn)) false (fnSub f.fn = 0) (.v (tyRegs (fnTy f.fn))) (.v (tyRegs (fnTy f.fn))) (.v (tyRegs (fnTy f.fn))) (.none)
  | .andn f => specAlu f true true (tyInt (fnTy f.fn)) false (fnSub f.fn = 0) (.v (tyRegs (fnTy f.fn))) (.v (tyRegs (fnTy f.fn))) (.v (tyRegs (fnTy f.fn))) (.none)
  | .or f => specAlu f true true (tyInt (fnTy f.fn)) false (fnSub f.fn = 0) (.v (tyRegs (fnTy f.fn))) (.v (tyRegs (fnTy f.fn))) (.v (tyRegs (fnTy f.fn))) (.none)
  | .xor f => specAlu f true true (tyInt (fnTy f.fn)) false (fnSub f.fn = 0) (.v (tyRegs (fnTy f.fn))) (.v (tyRegs (fnTy f.fn))) (.v (tyRegs (fnTy f.fn))) (.none)
  | .andi f => specI f true (true) (fnSub f.fn = 0) (.v (tyRegs (fnTy f.fn))) (.v (tyRegs (fnTy f.fn)))
  | .ori f => specI f true (true) (fnSub f.fn = 0) (.v (tyRegs (fnTy f.fn))) (.v (tyRegs (fnTy f.fn)))
  | .xori f => specI f true (true) (fnSub f.fn = 0) (.v (tyRegs (fnTy f.fn))) (.v (tyRegs (fnTy f.fn)))
  | .shl f => specAlu f true true (tyInt (fnTy f.fn)) false (fnSub f.fn = 0) (.v (tyRegs (fnTy f.fn))) (.v (tyRegs (fnTy f.fn))) (.v 1) (.none)
  | .shr f => specAlu f true true (tyInt (fnTy f.fn)) false (fnSub f.fn = 0) (.v (tyRegs (fnTy f.fn))) (.v (tyRegs (fnTy f.fn))) (.v 1) (.none)
  | .sar f => specAlu f true true (tyInt (fnTy f.fn)) false (fnSub f.fn = 0) (.v (tyRegs (fnTy f.fn))) (.v (tyRegs (fnTy f.fn))) (.v 1) (.none)
  | .shli f => specI f true (f.imm.toNat < 128) (fnSub f.fn = 0) (.v (tyRegs (fnTy f.fn))) (.v (tyRegs (fnTy f.fn)))
  | .shri f => specI f true (f.imm.toNat < 128) (fnSub f.fn = 0) (.v (tyRegs (fnTy f.fn))) (.v (tyRegs (fnTy f.fn)))
  | .sari f => specI f true (f.imm.toNat < 128) (fnSub f.fn = 0) (.v (tyRegs (fnTy f.fn))) (.v (tyRegs (fnTy f.fn)))
  | .bfx f => specAlu f true true (tyInt (fnTy f.fn)) false (fnSub f.fn = 0) (.v (tyRegs (fnTy f.fn))) (.v (tyRegs (fnTy f.fn))) (.v 1) (.none)
  | .bfi f => specAlu f true true (tyInt (fnTy f.fn)) false (fnSub f.fn = 0) (.v (tyRegs (fnTy f.fn))) (.v (tyRegs (fnTy f.fn))) (.v (tyRegs (fnTy f.fn))) (.v 1)
  | .popc f => specAlu f true false (tyInt (fnTy f.fn)) false (fnSub f.fn = 0) (.v 1) (.v (tyRegs (fnTy f.fn))) (.none) (.none)
  | .clz f => specAlu f true false (tyInt (fnTy f.fn)) false (fnSub f.fn = 0) (.v 1) (.v (tyRegs (fnTy f.fn))) (.none) (.none)
  | .permb f => specAlu f true true (fnTy f.fn = 1) false (fnSub f.fn = 0) (.v 1) (.v 1) (.v 1) (.v 1)
  | .lea f => specAlu f true true (fnTy f.fn = 2 || fnTy f.fn = 3) false (true) (.v 2) (.v 2) (.v 1) (.none)
  | .isetp f => specAlu f false true (tyInt (fnTy f.fn)) false (fnSub f.fn < 7) (.k .pred) (.v (tyRegs (fnTy f.fn))) (.v (tyRegs (fnTy f.fn))) (.k .pred)
  | .isetpi f => specI f false true (fnSub f.fn < 7) (.k .pred) (.v (tyRegs (fnTy f.fn)))
  | .sel f => specAlu f false true (tyInt (fnTy f.fn)) false (fnSub f.fn = 0) (.v (tyRegs (fnTy f.fn))) (.v (tyRegs (fnTy f.fn))) (.v (tyRegs (fnTy f.fn))) (.k .pred)
  | .cvti f => specAlu f true false (true) true (cvtiLegal (fnTy f.fn) f.sc.toNat (fnRm f.fn) (fnSub f.fn)) (.v (tyRegs (fnTy f.fn))) (.v (tyRegs f.sc.toNat)) (.none) (.imm 16)
  | .cvtf f => specAlu f true false (true) true (cvtfLegal (fnTy f.fn) f.sc.toNat (fnSub f.fn)) (.v 1) (.v (tyRegs f.sc.toNat)) (.none) (.imm 16)
  | .pack f => specAlu f false false (0 < packWidth (fnTy f.fn)) true (fnSub f.fn * packWidth (fnTy f.fn) < 32) (.v 1) (.v 1) (.v 1) (.none)
  | .unpack f => specAlu f false false (0 < packWidth (fnTy f.fn)) false (fnSub f.fn * packWidth (fnTy f.fn) < 32) (.v 1) (.v 1) (.none) (.none)
  | .msk f =>
    let sub := fnSub f.fn
    let d : Slot := if sub = 7 then .s 1 else .k .mask
    let a : Slot := if sub < 2 then .k .pred else if sub = 2 then .s 1 else .k .mask
    let b : Slot := if 3 ≤ sub && sub ≤ 6 then .k .mask else .none
    specAlu f false false (fnTy f.fn = 0) false true d a b .none
  | .fadd f => specAlu f true true (fnTy f.fn = 8) true (fnSub f.fn < 4) (.v 1) (.v 1) (.v 1) (.none)
  | .fmul f => specAlu f true true (fnTy f.fn = 8) true (fnSub f.fn < 2) (.v 1) (.v 1) (.v 1) (.none)
  | .ffma f => specAlu f true true (fnTy f.fn = 8) true (fnSub f.fn < 4) (.v 1) (.v 1) (.v 1) (.v 1)
  | .fmin f => specAlu f true true (fnTy f.fn = 8) false (fnSub f.fn = 0) (.v 1) (.v 1) (.v 1) (.none)
  | .fmax f => specAlu f true true (fnTy f.fn = 8) false (fnSub f.fn = 0) (.v 1) (.v 1) (.v 1) (.none)
  | .fsetp f => specAlu f false true (fnTy f.fn = 8) false (true) (.k .pred) (.v 1) (.v 1) (.k .pred)
  | .frcp f => specAlu f true false (fnTy f.fn = 8) true (fnSub f.fn = 0) (.v 1) (.v 1) (.none) (.none)
  | .frsq f => specAlu f true false (fnTy f.fn = 8) true (fnSub f.fn = 0) (.v 1) (.v 1) (.none) (.none)
  | .fexp2 f => specAlu f true false (fnTy f.fn = 8) false (fnSub f.fn = 0) (.v 1) (.v 1) (.none) (.none)
  | .flog2 f => specAlu f true false (fnTy f.fn = 8) false (fnSub f.fn = 0) (.v 1) (.v 1) (.none) (.none)
  | .fdot2 f => specAlu f true true (fnTy f.fn = 9 || fnTy f.fn = 10) false (fnSub f.fn = 0) (.v 1) (.v 1) (.v 1) (.v 1)
  | .fdot4 f => specAlu f true true (fnTy f.fn = 11 || fnTy f.fn = 12) false (fnSub f.fn < 2) (.v 1) (.v 1) (.v 1) (.v 1)
  | .hfma2 f => specAlu f true false (fnTy f.fn = 9 || fnTy f.fn = 10) false (fnSub f.fn = 0) (.v 1) (.v 1) (.v 1) (.v 1)
  | .idp4 f => specAlu f true true (fnTy f.fn = 6) false (fnSub f.fn < 4) (.v 1) (.v 1) (.v 1) (.v 1)
  | .idp8 f => specAlu f true true (fnTy f.fn = 14 || fnTy f.fn = 15) false (if fnTy f.fn = 15 then fnSub f.fn < 2 else fnSub f.fn = 0) (.v 1) (.v 1) (.v 1) (.v 1)
  | .isqd4 f => specAlu f true true (fnTy f.fn = 6) false (fnSub f.fn < 2) (.v 1) (.v 1) (.v 1) (.v 1)
  | .hamd f => specAlu f true true (fnTy f.fn = 1 || fnTy f.fn = 3) false (fnSub f.fn = 0) (.v 1) (.v (tyRegs (fnTy f.fn))) (.v (tyRegs (fnTy f.fn))) (.v 1)
  | .pqacc f => specAlu f false true (fnTy f.fn = 8 || fnTy f.fn = 0) false (fnBc f.fn) (.v 1) (.v 1) (.s 1) (.v 1)
  | .gsort f => specAlu f false false (fnTy f.fn = 8 || fnTy f.fn < 2) false (fnSub f.fn < 2) (.v 2) (.v 1) (.v 1) (.none)
  | .gmergek f => specAlu f false false (fnTy f.fn = 8 || fnTy f.fn < 2) false (fnSub f.fn = 0) (.v 2) (.v 2) (.v 2) (.s 1)
  | .shfl f => specAlu f false true (fnTy f.fn = 8 || fnTy f.fn < 4) false (fnSub f.fn < 4) (.v (tyRegs (fnTy f.fn))) (.v (tyRegs (fnTy f.fn))) (.v 1) (.none)
  | .gred f => specAlu f false false (fnTy f.fn = 8 || fnTy f.fn < 4) false (fnSub f.fn < 6 && (fnTy f.fn != 8 || fnSub f.fn < 3)) (.v (tyRegs (fnTy f.fn))) (.v (tyRegs (fnTy f.fn))) (.none) (.none)
  | .gscan f => specAlu f false false (fnTy f.fn = 8 || fnTy f.fn < 2) false (fnSub f.fn % 4 < 3) (.v 1) (.v 1) (.none) (.none)
  | .vote f =>
    let sub := fnSub f.fn
    let d : Slot := if sub = 0 then .s 1 else if sub = 1 then .v 1 else .k .pred
    specAlu f false false (fnTy f.fn = 0) false (sub < 5) d (.k .pred) .none .none
  | .matchL f => specAlu f false false (tyInt (fnTy f.fn)) false (fnSub f.fn = 0) (.v 1) (.v (tyRegs (fnTy f.fn))) (.none) (.none)
  | .compact f =>
    let n := tyRegs (fnTy f.fn)
    let sp := specAlu { f with sc := 0 } false false (tyInt (fnTy f.fn)) false (fnSub f.fn = 0) (.v n) (.v n) (.k .pred) .none
    { ok := sp.ok && f.sc.toNat < 64, ops := sp.ops ++ [⟨.sca, f.sc.toNat, 1, false, true, false⟩] }
  | .rgput f => specAlu f false false (fnTy f.fn = 0) false (fnSub f.fn < 5) (.s 1) (.w (rgWin f.fn)) (.k .pred) .none
  | .rgtake f =>
    let sp := specAlu { f with sa := 0 } false false (fnTy f.fn = 0) false (fnSub f.fn < 5) (.s 1) .none .none .none
    { ok := sp.ok, ops := sp.ops ++ [⟨.vec, f.sa.toNat, rgWin f.fn, false, true, false⟩] }
  | .genrd f => specV f (f.fn = 0) (.v 1) (.k .gen) (.v 1) (.v 1)
  | .ld f => specMem f false false
  | .lds f => specMem f true false
  | .st f => specMem f false true
  | .sts f => specMem f true true
  | .atom f => specAtom f false
  | .atoms f => specAtom f true
  | .fence f => specV f ((f.fn.extractLsb' 6 5) = 0 && ordLegal f.fn [1, 2, 3] false) .none .none .none .none
  | .pref f => specPref f
  | .cstore f => specV f (f.fn = 0) .none (.s 2) (.v 1) .none
  | .icinv f => specV f (f.fn = 0) (.s 1) (.s 2) (.s 1) .none
  | .arrive f =>
    let imc := f.fn.getLsbD 6
    specV f (ordLegal f.fn [2] false && (imc || (f.fn.extractLsb' 7 4) = 0)) .none (.s 2) (if imc then .none else .s 1) .none
  | .waitb f => specV f ((f.fn.extractLsb' 6 5) = 0 && ordLegal f.fn [1] true) .none (.s 2) (.s 1) .none
  | .sbres f => specV f (f.fn = 0) (.s 1) (.k .sbuf) .none .none
  | .sbfill f => specV f (f.fn = 0) .none (.k .sbuf) (.s 1) .none
  | .sbtake f => specV f (f.fn = 0) (.s 1) (.k .sbuf) .none .none
  | .sbfree f => specV f (f.fn = 0) .none (.k .sbuf) (.s 1) .none
  | .join f => specV f (f.fn = 0) .none (.k .mask) .none .none
  | .leave f => specV f (f.fn = 0) .none (.k .mask) .none .none
  | .waitm f => specV f (f.fn = 0) .none (.k .mask) .none .none
  | .yield f => specV f (f.fn = 0) .none .none .none .none
  | .bra f => { ok := f.g != 15 && f.rsv = 0 && f.fn = 0, ops := [] }
  | .brx f => specV f (f.fn.toNat < 2) .none (if f.fn.getLsbD 0 then .s 2 else .v 2) .none .none
  | .call f => { ok := f.g != 15 && f.rsv = 0, ops := [⟨.vec, 2 * f.fn.toNat, 2, false, true, false⟩] }
  | .ret f => specV f (f.fn.toNat < 2) .none (if f.fn.getLsbD 0 then .s 2 else .v 2) .none .none
  | .exit f => specV f (f.fn = 0) .none .none .none .none
  | .trap f => specV f true .none .none .none .none
  | .bkpt f => specV f (f.fn = 0) .none .none .none .none
  | .trapret f => specV f (f.fn = 0) .none .none .none .none
  | .bcopy f => specV f (f.fn = 0) .none (.s 2) .none .none
  | .bgather f => specV f (f.fn = 0) .none (.s 2) .none .none
  | .tierin f => specV f (f.fn = 0) .none (.s 2) .none .none
  | .tierout f => specV f (f.fn = 0) .none (.s 2) .none .none
  | .gangset f =>
    let sp := specV f (f.fn = 0) .none (.v 1) (.s 1) .none
    { sp with ops := sp.ops.map (fun o => if o.kind = .vec then { o with src := false } else o) }
  | .gmma f => specV f (gmmaFn f.fn) (.k .tile) (gmmaSlot (f.fn.getLsbD 10)) (gmmaSlot (f.fn.getLsbD 9)) (.s 1)
  | .accrd f =>
    let sp := specV f (f.fn = 0) (.w 1) (.k .tile) (.s 1) .none
    { sp with ops := sp.ops.map (fun o => if o.kind = .vec then { o with dst := false } else o) }
  | .accwr f =>
    let sp := specV f (f.fn = 0) (.k .tile) (.w 1) (.s 1) .none
    { sp with ops := sp.ops.map (fun o => if o.kind = .vec then { o with src := false } else o) }
  | .accst f =>
    let sp := specV f ((f.fn.extractLsb' 0 6) = 0) .none (.s 2) (.k .tile) (.s 1)
    if f.fn.getLsbD 7 then
      { sp with ops := sp.ops.map (fun o => if o.kind = .sca && o.cnt = 2 then { o with cnt := 1 } else o) }
    else sp
  | .genset f => specV f (f.fn = 0) (.k .gen) (.s 8) .none .none
  | .cfgwr f => specV f (f.fn = 0) (.s 1) (.s 2) (.s 1) (.s 1)
  | .cfgseal f => specV f (f.fn = 0) (.s 2) (.s 2) (.s 1) .none
  | .cfgrun f => specV f (f.fn = 0) (.s 2) (.s 2) (.s 1) (.s 1)
  | .cfgrunResume f => specV f (f.fn = 1) (.s 2) (.s 2) (.s 1) (.s 1)
  | .cfgstat f => specV f (f.fn = 0) (.s 1) (.s 2) (.s 1) .none
  | .cfgdrain f => specV f (f.fn = 0) (.s 1) .none (.s 1) .none
  | .cfgkill f => specV f (f.fn = 0) (.s 1) .none (.s 1) .none
  | .cfgevict f => specV f (f.fn = 0) (.s 1) .none (.s 1) .none
  | .obind f => specV f (f.fn = 0) .none (.s 2) .none .none
  | .obindU f => specV f (f.fn = 1) .none (.s 2) .none .none
  | .ocall f => specV f (f.fn.toNat < 256) (.v 2) (.v 2) (.v 2) .none
  | .old f =>
    specV f (f.fn.toNat < 8 && (!f.fn.getLsbD 2 || f.fn.toNat % 4 < 2)) (.v (if f.fn.toNat % 4 = 3 then 2 else 1)) (.v 1)
      .none .none
  | .ost f => specV f (f.fn.toNat < 4) .none (.v 1) (.v (if f.fn.toNat % 4 = 3 then 2 else 1)) .none
  | .oabort f => specV f (f.fn = 0 && f.g = 7) .none (.v 2) .none .none
  | .ocommit f => specV f (f.fn = 0 && f.g = 7) .none (.v 2) .none .none
  | .launch f => specV f (f.fn = 0) (.s 1) (.s 2) .none .none
  | .sysrd f => specSys f false
  | .syswr f => specSys f true
  | .wid f => specV f (f.fn.toNat < 9) (.v (if f.fn.toNat = 6 then 2 else 1)) .none .none .none
  | .rgive f => specV f (f.fn.toNat < 64) .none .none .none .none
  | .rclaim f => specV f (f.fn.toNat < 64) .none .none .none .none
  | .dualWord d => specDual d
  | .producerComplete _ _ => ⟨true, []⟩
  | .rclaimGrant _ => ⟨true, []⟩
  | .sbresGrant _ _ => ⟨true, []⟩
  | .sbtakeGrant _ _ => ⟨true, []⟩
  | .waitbWake _ _ => ⟨true, []⟩
  | .waitbPoll _ _ => ⟨true, []⟩
  | .gangLatchOpen _ => ⟨true, []⟩
  | .regdeadlock _ => ⟨true, []⟩
  | .watchdog _ _ => ⟨true, []⟩
  | .eccfatal _ _ => ⟨true, []⟩
  | .dispatcherCycle => ⟨true, []⟩
  | .rucksackSaveDone _ _ _ => ⟨true, []⟩
  | .poolStarvation => ⟨true, []⟩
  | .launchComplete _ => ⟨true, []⟩
  | .ocallRequestArrive _ => ⟨true, []⟩
  | .batchStart _ => ⟨true, []⟩
  | .waveLimit _ _ => ⟨true, []⟩
  | .ocallReply _ => ⟨true, []⟩
  | .faultReply _ => ⟨true, []⟩
  | .copyEngineComplete _ _ => ⟨true, []⟩
  | .tierPageMove _ => ⟨true, []⟩
  | .tierCommandComplete _ => ⟨true, []⟩
  | .icinvComplete _ => ⟨true, []⟩
  | .tlbiRange _ _ => ⟨true, []⟩
  | .tlbiContext _ _ => ⟨true, []⟩
  | .tlbiAll _ _ => ⟨true, []⟩
  | .tlbiComplete => ⟨true, []⟩
  | .stopCmd _ => ⟨true, []⟩
  | .stepCmd _ => ⟨true, []⟩
  | .terminateCmd _ => ⟨true, []⟩
  | .preemptCmd _ _ => ⟨true, []⟩
  | .releaseCmd _ => ⟨true, []⟩
  | .wcmdBadcmd _ _ => ⟨true, []⟩
  | .windowRead _ => ⟨true, []⟩
  | .windowWrite _ _ => ⟨true, []⟩
  | .tqtake _ => ⟨true, []⟩
  | .dbsync _ _ => ⟨true, []⟩
  | .clkloRead _ => ⟨true, []⟩
  | .sbcfgWrite _ _ _ => ⟨true, []⟩
  | .fbsactRetry _ _ => ⟨true, []⟩
  | .fbsactUnresolvable _ _ => ⟨true, []⟩
  | .fbownSelect _ _ => ⟨true, []⟩
  | .fbownWrite _ _ => ⟨true, []⟩
  | .drainCmd _ _ => ⟨true, []⟩
  | .resumeCmd _ _ => ⟨true, []⟩
  | .lendCmd _ _ => ⟨true, []⟩
  | .returnCmd _ _ => ⟨true, []⟩
  | .killCmd _ _ => ⟨true, []⟩
  | .eraseCmd _ _ => ⟨true, []⟩
  | .fbrcmdBadcmd _ _ => ⟨true, []⟩
  | .frgreq _ _ _ _ => ⟨true, []⟩
  | .ftrust _ => ⟨true, []⟩
  | .fverify _ => ⟨true, []⟩
  | .runSelect _ _ => ⟨true, []⟩
  | .loadingComplete _ _ => ⟨true, []⟩
  | .runDone _ _ => ⟨true, []⟩
  | .drainComplete _ _ => ⟨true, []⟩
  | .tokenArrive _ _ => ⟨true, []⟩
  | .batonEscape _ _ => ⟨true, []⟩
  | .channelWatchdog _ => ⟨true, []⟩
  | .bankRefresh _ _ => ⟨true, []⟩
  | .fabricEccError _ _ => ⟨true, []⟩
  | .streamWalkComplete _ _ => ⟨true, []⟩
  | .streamGateOpen _ _ => ⟨true, []⟩
  | .readStreamToken _ _ => ⟨true, []⟩
  | .writeStreamElement _ _ => ⟨true, []⟩
  | .writePassComplete _ _ => ⟨true, []⟩
  | .elementwiseFire _ _ => ⟨true, []⟩
  | .selNode _ _ => ⟨true, []⟩
  | .constN _ _ => ⟨true, []⟩
  | .countN _ _ => ⟨true, []⟩
  | .genN _ _ => ⟨true, []⟩
  | .steerN _ _ => ⟨true, []⟩
  | .filterN _ _ => ⟨true, []⟩
  | .mergeN _ _ => ⟨true, []⟩
  | .accN _ _ => ⟨true, []⟩
  | .bfpsumN _ _ => ⟨true, []⟩
  | .mmanN _ _ => ⟨true, []⟩
  | .topknN _ _ => ⟨true, []⟩
  | .partN _ _ => ⟨true, []⟩
  | .gathrN _ _ => ⟨true, []⟩
  | .sinkN _ _ => ⟨true, []⟩
  | .pqaccTableLoad _ _ => ⟨true, []⟩
  | .mbReserve _ => ⟨true, []⟩
  | .mbCommit _ _ => ⟨true, []⟩
  | .launchSlotWrite _ _ => ⟨true, []⟩
  | .mailboxConsume _ => ⟨true, []⟩
  | .hostBar2Access _ _ => ⟨true, []⟩
  | .bar0Violation _ _ => ⟨true, []⟩
  | .registerWrite _ _ _ => ⟨true, []⟩
  | .logTail _ _ => ⟨true, []⟩
  | .ctxcreate => ⟨true, []⟩
  | .ctxdestroy => ⟨true, []⟩
  | .mbbind => ⟨true, []⟩
  | .qassign => ⟨true, []⟩
  | .savepool => ⟨true, []⟩
  | .powercap => ⟨true, []⟩
  | .segmap => ⟨true, []⟩
  | .freezeCmd => ⟨true, []⟩
  | .cfgkey => ⟨true, []⟩
  | .fabquota => ⟨true, []⟩
  | .mgcmdBadcmd _ => ⟨true, []⟩
  | .freezeJtag => ⟨true, []⟩
  | .coldReset _ _ => ⟨true, []⟩
  | .bringupComplete => ⟨true, []⟩
  | .functionLevelReset => ⟨true, []⟩
  | .configRequest _ => ⟨true, []⟩
  | .getVersion => ⟨true, []⟩
  | .getCapabilities => ⟨true, []⟩
  | .negotiateAlgorithms _ => ⟨true, []⟩
  | .getDigests => ⟨true, []⟩
  | .getCertificate _ _ _ => ⟨true, []⟩
  | .challenge _ _ => ⟨true, []⟩
  | .getMeasurements _ _ => ⟨true, []⟩
  | .supplySag _ _ => ⟨true, []⟩
  | .clockStretchEnd _ _ => ⟨true, []⟩
  | .peerRequestArrive _ _ => ⟨true, []⟩
  | .linkDown _ => ⟨true, []⟩
  | .rucksackRestoreDone _ _ => ⟨true, []⟩
  | .gmmaComplete _ => ⟨true, []⟩
  | .memoryEccError _ _ => ⟨true, []⟩
  | .detLogExtend _ _ => ⟨true, []⟩
  | .doneArrivalRetry _ => ⟨true, []⟩

/-- The class facts of a lane word: major opcode (R322; 0x100 for a dual word), B bit, guard. -/
structure Hdr where
  op : Nat
  b : Bool
  g : BitVec 4
  deriving DecidableEq, Repr

/-- Opcode, B bit and guard of a lane word; none for an event. -/
def hdrOf : Instr → Option Hdr
  | .nop f => some ⟨0x01, f.b, f.g⟩
  | .mov f => some ⟨0x02, f.b, f.g⟩
  | .movl f => some ⟨0x03, f.b, f.g⟩
  | .iadd f => some ⟨0x04, f.b, f.g⟩
  | .iaddi f => some ⟨0x05, f.b, f.g⟩
  | .isub f => some ⟨0x06, f.b, f.g⟩
  | .imul f => some ⟨0x07, f.b, f.g⟩
  | .imulh f => some ⟨0x08, f.b, f.g⟩
  | .imad f => some ⟨0x09, f.b, f.g⟩
  | .imin f => some ⟨0x0A, f.b, f.g⟩
  | .imax f => some ⟨0x0B, f.b, f.g⟩
  | .iabs f => some ⟨0x0C, f.b, f.g⟩
  | .and f => some ⟨0x0D, f.b, f.g⟩
  | .andi f => some ⟨0x0E, f.b, f.g⟩
  | .andn f => some ⟨0x0F, f.b, f.g⟩
  | .or f => some ⟨0x10, f.b, f.g⟩
  | .ori f => some ⟨0x11, f.b, f.g⟩
  | .xor f => some ⟨0x12, f.b, f.g⟩
  | .xori f => some ⟨0x13, f.b, f.g⟩
  | .shl f => some ⟨0x14, f.b, f.g⟩
  | .shli f => some ⟨0x15, f.b, f.g⟩
  | .shr f => some ⟨0x16, f.b, f.g⟩
  | .shri f => some ⟨0x17, f.b, f.g⟩
  | .sar f => some ⟨0x18, f.b, f.g⟩
  | .sari f => some ⟨0x19, f.b, f.g⟩
  | .bfx f => some ⟨0x1A, f.b, f.g⟩
  | .bfi f => some ⟨0x1B, f.b, f.g⟩
  | .popc f => some ⟨0x1C, f.b, f.g⟩
  | .clz f => some ⟨0x1D, f.b, f.g⟩
  | .permb f => some ⟨0x1E, f.b, f.g⟩
  | .lea f => some ⟨0x1F, f.b, f.g⟩
  | .isetp f => some ⟨0x20, f.b, f.g⟩
  | .isetpi f => some ⟨0x21, f.b, f.g⟩
  | .sel f => some ⟨0x22, f.b, f.g⟩
  | .cvti f => some ⟨0x23, f.b, f.g⟩
  | .cvtf f => some ⟨0x24, f.b, f.g⟩
  | .pack f => some ⟨0x25, f.b, f.g⟩
  | .unpack f => some ⟨0x26, f.b, f.g⟩
  | .msk f => some ⟨0x27, f.b, f.g⟩
  | .fadd f => some ⟨0x30, f.b, f.g⟩
  | .fmul f => some ⟨0x31, f.b, f.g⟩
  | .ffma f => some ⟨0x32, f.b, f.g⟩
  | .fmin f => some ⟨0x33, f.b, f.g⟩
  | .fmax f => some ⟨0x34, f.b, f.g⟩
  | .fsetp f => some ⟨0x35, f.b, f.g⟩
  | .frcp f => some ⟨0x36, f.b, f.g⟩
  | .frsq f => some ⟨0x37, f.b, f.g⟩
  | .fexp2 f => some ⟨0x38, f.b, f.g⟩
  | .flog2 f => some ⟨0x39, f.b, f.g⟩
  | .fdot2 f => some ⟨0x3A, f.b, f.g⟩
  | .fdot4 f => some ⟨0x3B, f.b, f.g⟩
  | .hfma2 f => some ⟨0x3C, f.b, f.g⟩
  | .idp4 f => some ⟨0x40, f.b, f.g⟩
  | .idp8 f => some ⟨0x41, f.b, f.g⟩
  | .isqd4 f => some ⟨0x42, f.b, f.g⟩
  | .hamd f => some ⟨0x43, f.b, f.g⟩
  | .pqacc f => some ⟨0x44, f.b, f.g⟩
  | .gsort f => some ⟨0x45, f.b, f.g⟩
  | .gmergek f => some ⟨0x46, f.b, f.g⟩
  | .shfl f => some ⟨0x47, f.b, f.g⟩
  | .gred f => some ⟨0x48, f.b, f.g⟩
  | .gscan f => some ⟨0x49, f.b, f.g⟩
  | .vote f => some ⟨0x4A, f.b, f.g⟩
  | .matchL f => some ⟨0x4B, f.b, f.g⟩
  | .compact f => some ⟨0x4C, f.b, f.g⟩
  | .rgput f => some ⟨0x4D, f.b, f.g⟩
  | .rgtake f => some ⟨0x4E, f.b, f.g⟩
  | .genrd f => some ⟨0x4F, f.b, f.g⟩
  | .ld f => some ⟨0x50, f.b, f.g⟩
  | .st f => some ⟨0x51, f.b, f.g⟩
  | .lds f => some ⟨0x52, f.b, f.g⟩
  | .sts f => some ⟨0x53, f.b, f.g⟩
  | .atom f => some ⟨0x54, f.b, f.g⟩
  | .atoms f => some ⟨0x55, f.b, f.g⟩
  | .fence f => some ⟨0x56, f.b, f.g⟩
  | .pref f => some ⟨0x57, f.b, f.g⟩
  | .cstore f => some ⟨0x58, f.b, f.g⟩
  | .icinv f => some ⟨0x59, f.b, f.g⟩
  | .arrive f => some ⟨0x60, f.b, f.g⟩
  | .waitb f => some ⟨0x61, f.b, f.g⟩
  | .sbres f => some ⟨0x62, f.b, f.g⟩
  | .sbfill f => some ⟨0x63, f.b, f.g⟩
  | .sbtake f => some ⟨0x64, f.b, f.g⟩
  | .sbfree f => some ⟨0x65, f.b, f.g⟩
  | .join f => some ⟨0x66, f.b, f.g⟩
  | .leave f => some ⟨0x67, f.b, f.g⟩
  | .waitm f => some ⟨0x68, f.b, f.g⟩
  | .yield f => some ⟨0x69, f.b, f.g⟩
  | .bra f => some ⟨0x70, f.b, f.g⟩
  | .brx f => some ⟨0x71, f.b, f.g⟩
  | .call f => some ⟨0x72, f.b, f.g⟩
  | .ret f => some ⟨0x73, f.b, f.g⟩
  | .exit f => some ⟨0x74, f.b, f.g⟩
  | .trap f => some ⟨0x75, f.b, f.g⟩
  | .bkpt f => some ⟨0x76, f.b, f.g⟩
  | .trapret f => some ⟨0x77, f.b, f.g⟩
  | .bcopy f => some ⟨0x80, f.b, f.g⟩
  | .bgather f => some ⟨0x81, f.b, f.g⟩
  | .tierin f => some ⟨0x82, f.b, f.g⟩
  | .tierout f => some ⟨0x83, f.b, f.g⟩
  | .gangset f => some ⟨0x90, f.b, f.g⟩
  | .gmma f => some ⟨0x91, f.b, f.g⟩
  | .accrd f => some ⟨0x92, f.b, f.g⟩
  | .accwr f => some ⟨0x93, f.b, f.g⟩
  | .accst f => some ⟨0x94, f.b, f.g⟩
  | .genset f => some ⟨0x95, f.b, f.g⟩
  | .cfgwr f => some ⟨0xA0, f.b, f.g⟩
  | .cfgseal f => some ⟨0xA1, f.b, f.g⟩
  | .cfgrun f => some ⟨0xA2, f.b, f.g⟩
  | .cfgrunResume f => some ⟨0xA2, f.b, f.g⟩
  | .cfgstat f => some ⟨0xA3, f.b, f.g⟩
  | .cfgdrain f => some ⟨0xA4, f.b, f.g⟩
  | .cfgkill f => some ⟨0xA5, f.b, f.g⟩
  | .cfgevict f => some ⟨0xA6, f.b, f.g⟩
  | .obind f => some ⟨0xB0, f.b, f.g⟩
  | .obindU f => some ⟨0xB0, f.b, f.g⟩
  | .ocall f => some ⟨0xB1, f.b, f.g⟩
  | .old f => some ⟨0xB2, f.b, f.g⟩
  | .ost f => some ⟨0xB3, f.b, f.g⟩
  | .oabort f => some ⟨0xB4, f.b, f.g⟩
  | .ocommit f => some ⟨0xB5, f.b, f.g⟩
  | .launch f => some ⟨0xC0, f.b, f.g⟩
  | .sysrd f => some ⟨0xC1, f.b, f.g⟩
  | .syswr f => some ⟨0xC2, f.b, f.g⟩
  | .wid f => some ⟨0xC3, f.b, f.g⟩
  | .rgive f => some ⟨0xC4, f.b, f.g⟩
  | .rclaim f => some ⟨0xC5, f.b, f.g⟩
  | .dualWord d => some ⟨0x100, d.b, 7⟩
  | .producerComplete _ _ => none
  | .rclaimGrant _ => none
  | .sbresGrant _ _ => none
  | .sbtakeGrant _ _ => none
  | .waitbWake _ _ => none
  | .waitbPoll _ _ => none
  | .gangLatchOpen _ => none
  | .regdeadlock _ => none
  | .watchdog _ _ => none
  | .eccfatal _ _ => none
  | .dispatcherCycle => none
  | .rucksackSaveDone _ _ _ => none
  | .poolStarvation => none
  | .launchComplete _ => none
  | .ocallRequestArrive _ => none
  | .batchStart _ => none
  | .waveLimit _ _ => none
  | .ocallReply _ => none
  | .faultReply _ => none
  | .copyEngineComplete _ _ => none
  | .tierPageMove _ => none
  | .tierCommandComplete _ => none
  | .icinvComplete _ => none
  | .tlbiRange _ _ => none
  | .tlbiContext _ _ => none
  | .tlbiAll _ _ => none
  | .tlbiComplete => none
  | .stopCmd _ => none
  | .stepCmd _ => none
  | .terminateCmd _ => none
  | .preemptCmd _ _ => none
  | .releaseCmd _ => none
  | .wcmdBadcmd _ _ => none
  | .windowRead _ => none
  | .windowWrite _ _ => none
  | .tqtake _ => none
  | .dbsync _ _ => none
  | .clkloRead _ => none
  | .sbcfgWrite _ _ _ => none
  | .fbsactRetry _ _ => none
  | .fbsactUnresolvable _ _ => none
  | .fbownSelect _ _ => none
  | .fbownWrite _ _ => none
  | .drainCmd _ _ => none
  | .resumeCmd _ _ => none
  | .lendCmd _ _ => none
  | .returnCmd _ _ => none
  | .killCmd _ _ => none
  | .eraseCmd _ _ => none
  | .fbrcmdBadcmd _ _ => none
  | .frgreq _ _ _ _ => none
  | .ftrust _ => none
  | .fverify _ => none
  | .runSelect _ _ => none
  | .loadingComplete _ _ => none
  | .runDone _ _ => none
  | .drainComplete _ _ => none
  | .tokenArrive _ _ => none
  | .batonEscape _ _ => none
  | .channelWatchdog _ => none
  | .bankRefresh _ _ => none
  | .fabricEccError _ _ => none
  | .streamWalkComplete _ _ => none
  | .streamGateOpen _ _ => none
  | .readStreamToken _ _ => none
  | .writeStreamElement _ _ => none
  | .writePassComplete _ _ => none
  | .elementwiseFire _ _ => none
  | .selNode _ _ => none
  | .constN _ _ => none
  | .countN _ _ => none
  | .genN _ _ => none
  | .steerN _ _ => none
  | .filterN _ _ => none
  | .mergeN _ _ => none
  | .accN _ _ => none
  | .bfpsumN _ _ => none
  | .mmanN _ _ => none
  | .topknN _ _ => none
  | .partN _ _ => none
  | .gathrN _ _ => none
  | .sinkN _ _ => none
  | .pqaccTableLoad _ _ => none
  | .mbReserve _ => none
  | .mbCommit _ _ => none
  | .launchSlotWrite _ _ => none
  | .mailboxConsume _ => none
  | .hostBar2Access _ _ => none
  | .bar0Violation _ _ => none
  | .registerWrite _ _ _ => none
  | .logTail _ _ => none
  | .ctxcreate => none
  | .ctxdestroy => none
  | .mbbind => none
  | .qassign => none
  | .savepool => none
  | .powercap => none
  | .segmap => none
  | .freezeCmd => none
  | .cfgkey => none
  | .fabquota => none
  | .mgcmdBadcmd _ => none
  | .freezeJtag => none
  | .coldReset _ _ => none
  | .bringupComplete => none
  | .functionLevelReset => none
  | .configRequest _ => none
  | .getVersion => none
  | .getCapabilities => none
  | .negotiateAlgorithms _ => none
  | .getDigests => none
  | .getCertificate _ _ _ => none
  | .challenge _ _ => none
  | .getMeasurements _ _ => none
  | .supplySag _ _ => none
  | .clockStretchEnd _ _ => none
  | .peerRequestArrive _ _ => none
  | .linkDown _ => none
  | .rucksackRestoreDone _ _ => none
  | .gmmaComplete _ => none
  | .memoryEccError _ _ => none
  | .detLogExtend _ _ => none
  | .doneArrivalRetry _ => none

/-- Uniform instructions (03 R63, 15 R323). -/
def isUniform (op : Nat) : Bool :=
  op = 0x45 || (0x80 ≤ op && op ≤ 0x83) || (0x91 ≤ op && op ≤ 0x95) || (0xA0 ≤ op && op ≤ 0xA6) || op = 0xC0 || op = 0xC4
    || op = 0xC5

/-- Control instructions, which end a run (03 R50, 15 R323). ARRIVE and OBIND also end it (R341, R193). -/
def isControl (op : Nat) : Bool :=
  op = 0x66 || op = 0x68 || op = 0x69 || (0x70 ≤ op && op ≤ 0x77) || op = 0x60 || op = 0xB0

/-- The branches among the control instructions: BRA, BRX, CALL, RET (03 R50). -/
def isBranch (op : Nat) : Bool := 0x70 ≤ op && op ≤ 0x73

/-- Words that a Ranger may not issue (15 R324). -/
def rangerExcluded (op : Nat) : Bool :=
  op = 0x4D || op = 0x4E || op = 0x52 || op = 0x53 || op = 0x55 || (0x62 ≤ op && op ≤ 0x65) || (0x80 ≤ op && op ≤ 0x83)
    || (0x90 ≤ op && op ≤ 0x95) || (0xA0 ≤ op && op ≤ 0xA6) || (0xB0 ≤ op && op ≤ 0xB5) || op = 0xC0 || op = 0xC4 || op = 0xC5

/-- Words that a combiner wave may not issue, with cause FORBID (09 R198, R459, and the entries): engine and
configuration instructions, accesses to a scratchpad, tiles or slot buffers, WAITB, LAUNCH, OCALL, OBIND, GANGSET,
the register pool, TRAP, BKPT and TRAPRET. -/
def waveForbidden (op : Nat) : Bool :=
  op = 0x44 || op = 0x52 || op = 0x53 || op = 0x55 || (0x61 ≤ op && op ≤ 0x65) || (0x75 ≤ op && op ≤ 0x77)
    || (0x80 ≤ op && op ≤ 0x83) || (0x90 ≤ op && op ≤ 0x94) || (0xA0 ≤ op && op ≤ 0xA6) || op = 0xB0 || op = 0xB1 || op = 0xC0
    || op = 0xC4 || op = 0xC5

/-- Whether a word uses private address mode, AM 10 (14 R307). -/
def usesPrivate : Instr → Bool
  | .ld f => fnAm f.fn = 2
  | .st f => fnAm f.fn = 2
  | _ => false

/-- Words that reach a scratchpad, accumulator tiles, slot buffers or a private window, all of which a wave lacks (09 R198, R459). -/
def waveLacks (i : Instr) (op : Nat) : Bool :=
  op = 0x44 || op = 0x52 || op = 0x53 || op = 0x55 || (0x62 ≤ op && op ≤ 0x65) || (0x91 ≤ op && op ≤ 0x94) || usesPrivate i

/-- Words that only a combiner wave may issue (09 R199). -/
def waveOnly (op : Nat) : Bool := 0xB2 ≤ op && op ≤ 0xB5

end Sys2Proof.Machine
end

