-- ==== Sys2Proof/WellFormed.lean ====
section
/-! DEFINITION. Well-formed instructions: those whose word is not an illegal encoding (spec 14 R313). An event
is always well-formed. -/

namespace Sys2Proof

/-- Whether an instruction's word is legal (14 R313), as a Bool. -/
def Instr.legal (i : Instr) : Bool := (Machine.specOf i).ok

/-- An instruction is well-formed when its word is not an illegal encoding. -/
abbrev WellFormed (i : Instr) : Prop := i.legal = true

end Sys2Proof
end

