-- ==== Sys2Proof/Decode.lean ====
section
/-! DEFINITION. The decoder, total on any 64-bit word and rejecting every illegal encoding, and the encoder,
both from the format tables (spec 14 R301 to R312, 15 R322). -/

namespace Sys2Proof

open Sys2Proof.Machine

/-! ## Fields of a word (14 R303, R310) -/

/-- Format V fields. -/
def vOf (w : DWord) : FmtV where
  b := w.getLsbD 63
  g := w.extractLsb' 50 4
  ta := w.getLsbD 49
  tb := w.getLsbD 48
  tc := w.getLsbD 47
  dst := w.extractLsb' 38 9
  sa := w.extractLsb' 29 9
  sb := w.extractLsb' 20 9
  sc := w.extractLsb' 11 9
  fn := w.extractLsb' 0 11

/-- Format I fields. -/
def iOf (w : DWord) : FmtI where
  b := w.getLsbD 63
  g := w.extractLsb' 50 4
  ta := w.getLsbD 49
  dst := w.extractLsb' 40 9
  sa := w.extractLsb' 31 9
  fn := w.extractLsb' 20 11
  imm := w.extractLsb' 0 20

/-- Format L fields. -/
def lOf (w : DWord) : FmtL where
  b := w.getLsbD 63
  g := w.extractLsb' 50 4
  dst := w.extractLsb' 41 9
  rsv := w.extractLsb' 32 9
  imm := w.extractLsb' 0 32

/-- Format M fields. -/
def mOf (w : DWord) : FmtM where
  b := w.getLsbD 63
  g := w.extractLsb' 50 4
  ta := w.getLsbD 49
  dv := w.extractLsb' 40 9
  av := w.extractLsb' 31 9
  fn := w.extractLsb' 20 11
  off := w.extractLsb' 0 20

/-- Format B fields. -/
def bOf (w : DWord) : FmtB where
  b := w.getLsbD 63
  g := w.extractLsb' 50 4
  rsv := w.extractLsb' 40 10
  fn := w.extractLsb' 32 8
  off := w.extractLsb' 0 32

/-- Format S fields. -/
def sOf (w : DWord) : FmtS where
  b := w.getLsbD 63
  g := w.extractLsb' 50 4
  reg := w.extractLsb' 41 9
  sysnum := w.extractLsb' 25 16
  rsv := w.extractLsb' 0 25

/-- Fields of a half (14 R310). -/
def halfOf (h : BitVec 31) : Half where
  hop := h.extractLsb' 25 6
  hd := h.extractLsb' 16 9
  hs := h.extractLsb' 7 9
  hg := h.extractLsb' 4 3
  ht := h.getLsbD 3
  imm := h.getLsbD 2
  hf1 := h.getLsbD 1
  u := h.getLsbD 0

/-- Fields of a dual word (14 R301). -/
def dOf (w : DWord) : Dual where
  b := w.getLsbD 63
  h0 := halfOf (w.extractLsb' 31 31)
  h1 := halfOf (w.extractLsb' 0 31)

/-- The word read by its major opcode, before the legality check (15 R322). -/
def parse (w : DWord) : Option Instr :=
  if w.getLsbD 62 then some (.dualWord (dOf w))
  else match w.extractLsb' 54 8 with
    | 0x01#8 => some (.nop (vOf w))
    | 0x02#8 => some (.mov (vOf w))
    | 0x03#8 => some (.movl (lOf w))
    | 0x04#8 => some (.iadd (vOf w))
    | 0x05#8 => some (.iaddi (iOf w))
    | 0x06#8 => some (.isub (vOf w))
    | 0x07#8 => some (.imul (vOf w))
    | 0x08#8 => some (.imulh (vOf w))
    | 0x09#8 => some (.imad (vOf w))
    | 0x0A#8 => some (.imin (vOf w))
    | 0x0B#8 => some (.imax (vOf w))
    | 0x0C#8 => some (.iabs (vOf w))
    | 0x0D#8 => some (.and (vOf w))
    | 0x0E#8 => some (.andi (iOf w))
    | 0x0F#8 => some (.andn (vOf w))
    | 0x10#8 => some (.or (vOf w))
    | 0x11#8 => some (.ori (iOf w))
    | 0x12#8 => some (.xor (vOf w))
    | 0x13#8 => some (.xori (iOf w))
    | 0x14#8 => some (.shl (vOf w))
    | 0x15#8 => some (.shli (iOf w))
    | 0x16#8 => some (.shr (vOf w))
    | 0x17#8 => some (.shri (iOf w))
    | 0x18#8 => some (.sar (vOf w))
    | 0x19#8 => some (.sari (iOf w))
    | 0x1A#8 => some (.bfx (vOf w))
    | 0x1B#8 => some (.bfi (vOf w))
    | 0x1C#8 => some (.popc (vOf w))
    | 0x1D#8 => some (.clz (vOf w))
    | 0x1E#8 => some (.permb (vOf w))
    | 0x1F#8 => some (.lea (vOf w))
    | 0x20#8 => some (.isetp (vOf w))
    | 0x21#8 => some (.isetpi (iOf w))
    | 0x22#8 => some (.sel (vOf w))
    | 0x23#8 => some (.cvti (vOf w))
    | 0x24#8 => some (.cvtf (vOf w))
    | 0x25#8 => some (.pack (vOf w))
    | 0x26#8 => some (.unpack (vOf w))
    | 0x27#8 => some (.msk (vOf w))
    | 0x30#8 => some (.fadd (vOf w))
    | 0x31#8 => some (.fmul (vOf w))
    | 0x32#8 => some (.ffma (vOf w))
    | 0x33#8 => some (.fmin (vOf w))
    | 0x34#8 => some (.fmax (vOf w))
    | 0x35#8 => some (.fsetp (vOf w))
    | 0x36#8 => some (.frcp (vOf w))
    | 0x37#8 => some (.frsq (vOf w))
    | 0x38#8 => some (.fexp2 (vOf w))
    | 0x39#8 => some (.flog2 (vOf w))
    | 0x3A#8 => some (.fdot2 (vOf w))
    | 0x3B#8 => some (.fdot4 (vOf w))
    | 0x3C#8 => some (.hfma2 (vOf w))
    | 0x40#8 => some (.idp4 (vOf w))
    | 0x41#8 => some (.idp8 (vOf w))
    | 0x42#8 => some (.isqd4 (vOf w))
    | 0x43#8 => some (.hamd (vOf w))
    | 0x44#8 => some (.pqacc (vOf w))
    | 0x45#8 => some (.gsort (vOf w))
    | 0x46#8 => some (.gmergek (vOf w))
    | 0x47#8 => some (.shfl (vOf w))
    | 0x48#8 => some (.gred (vOf w))
    | 0x49#8 => some (.gscan (vOf w))
    | 0x4A#8 => some (.vote (vOf w))
    | 0x4B#8 => some (.matchL (vOf w))
    | 0x4C#8 => some (.compact (vOf w))
    | 0x4D#8 => some (.rgput (vOf w))
    | 0x4E#8 => some (.rgtake (vOf w))
    | 0x4F#8 => some (.genrd (vOf w))
    | 0x50#8 => some (.ld (mOf w))
    | 0x51#8 => some (.st (mOf w))
    | 0x52#8 => some (.lds (mOf w))
    | 0x53#8 => some (.sts (mOf w))
    | 0x54#8 => some (.atom (mOf w))
    | 0x55#8 => some (.atoms (mOf w))
    | 0x56#8 => some (.fence (vOf w))
    | 0x57#8 => some (.pref (mOf w))
    | 0x58#8 => some (.cstore (vOf w))
    | 0x59#8 => some (.icinv (vOf w))
    | 0x60#8 => some (.arrive (vOf w))
    | 0x61#8 => some (.waitb (vOf w))
    | 0x62#8 => some (.sbres (vOf w))
    | 0x63#8 => some (.sbfill (vOf w))
    | 0x64#8 => some (.sbtake (vOf w))
    | 0x65#8 => some (.sbfree (vOf w))
    | 0x66#8 => some (.join (vOf w))
    | 0x67#8 => some (.leave (vOf w))
    | 0x68#8 => some (.waitm (vOf w))
    | 0x69#8 => some (.yield (vOf w))
    | 0x70#8 => some (.bra (bOf w))
    | 0x71#8 => some (.brx (vOf w))
    | 0x72#8 => some (.call (bOf w))
    | 0x73#8 => some (.ret (vOf w))
    | 0x74#8 => some (.exit (vOf w))
    | 0x75#8 => some (.trap (vOf w))
    | 0x76#8 => some (.bkpt (vOf w))
    | 0x77#8 => some (.trapret (vOf w))
    | 0x80#8 => some (.bcopy (vOf w))
    | 0x81#8 => some (.bgather (vOf w))
    | 0x82#8 => some (.tierin (vOf w))
    | 0x83#8 => some (.tierout (vOf w))
    | 0x90#8 => some (.gangset (vOf w))
    | 0x91#8 => some (.gmma (vOf w))
    | 0x92#8 => some (.accrd (vOf w))
    | 0x93#8 => some (.accwr (vOf w))
    | 0x94#8 => some (.accst (vOf w))
    | 0x95#8 => some (.genset (vOf w))
    | 0xA0#8 => some (.cfgwr (vOf w))
    | 0xA1#8 => some (.cfgseal (vOf w))
    | 0xA2#8 => some (if w.getLsbD 0 then .cfgrunResume (vOf w) else .cfgrun (vOf w))
    | 0xA3#8 => some (.cfgstat (vOf w))
    | 0xA4#8 => some (.cfgdrain (vOf w))
    | 0xA5#8 => some (.cfgkill (vOf w))
    | 0xA6#8 => some (.cfgevict (vOf w))
    | 0xB0#8 => some (if w.getLsbD 0 then .obindU (vOf w) else .obind (vOf w))
    | 0xB1#8 => some (.ocall (vOf w))
    | 0xB2#8 => some (.old (vOf w))
    | 0xB3#8 => some (.ost (vOf w))
    | 0xB4#8 => some (.oabort (vOf w))
    | 0xB5#8 => some (.ocommit (vOf w))
    | 0xC0#8 => some (.launch (vOf w))
    | 0xC1#8 => some (.sysrd (sOf w))
    | 0xC2#8 => some (.syswr (sOf w))
    | 0xC3#8 => some (.wid (vOf w))
    | 0xC4#8 => some (.rgive (vOf w))
    | 0xC5#8 => some (.rclaim (vOf w))
    | _ => none

/-- The instruction a word holds; none for an illegal encoding (14 R313). -/
def decode (w : DWord) : Option Instr :=
  match parse w with
  | some i => if i.legal then some i else none
  | none => none

/-- The decoder on the opcode table's numbering of bits: one 64-bit word, low half first (14 R301). -/
def decodeTableWord (nbits w : Nat) : Option Instr := if nbits ≤ 64 then decode (BitVec.ofNat 64 w) else none

/-! ## The encoder -/

/-- A format V word under a major opcode. -/
def vWord (op : BitVec 8) (f : FmtV) : DWord :=
  bit f.b ++ 0#1 ++ op ++ f.g ++ bit f.ta ++ bit f.tb ++ bit f.tc ++ f.dst ++ f.sa ++ f.sb ++ f.sc ++ f.fn

/-- A format I word. -/
def iWord (op : BitVec 8) (f : FmtI) : DWord := bit f.b ++ 0#1 ++ op ++ f.g ++ bit f.ta ++ f.dst ++ f.sa ++ f.fn ++ f.imm

/-- A format L word. -/
def lWord (op : BitVec 8) (f : FmtL) : DWord := bit f.b ++ 0#1 ++ op ++ f.g ++ f.dst ++ f.rsv ++ f.imm

/-- A format M word. -/
def mWord (op : BitVec 8) (f : FmtM) : DWord := bit f.b ++ 0#1 ++ op ++ f.g ++ bit f.ta ++ f.dv ++ f.av ++ f.fn ++ f.off

/-- A format B word. -/
def bWord (op : BitVec 8) (f : FmtB) : DWord := bit f.b ++ 0#1 ++ op ++ f.g ++ f.rsv ++ f.fn ++ f.off

/-- A format S word. -/
def sWord (op : BitVec 8) (f : FmtS) : DWord := bit f.b ++ 0#1 ++ op ++ f.g ++ f.reg ++ f.sysnum ++ f.rsv

/-- A half. -/
def halfWord (h : Half) : BitVec 31 := h.hop ++ h.hd ++ h.hs ++ h.hg ++ bit h.ht ++ bit h.imm ++ bit h.hf1 ++ bit h.u

/-- A dual word. -/
def dWord (d : Dual) : DWord := bit d.b ++ 1#1 ++ halfWord d.h0 ++ halfWord d.h1

/-- The word of a lane instruction; an event has none. -/
def encode : Instr → Option DWord
  | .nop f => some (vWord 0x01 f)
  | .mov f => some (vWord 0x02 f)
  | .movl f => some (lWord 0x03 f)
  | .iadd f => some (vWord 0x04 f)
  | .iaddi f => some (iWord 0x05 f)
  | .isub f => some (vWord 0x06 f)
  | .imul f => some (vWord 0x07 f)
  | .imulh f => some (vWord 0x08 f)
  | .imad f => some (vWord 0x09 f)
  | .imin f => some (vWord 0x0A f)
  | .imax f => some (vWord 0x0B f)
  | .iabs f => some (vWord 0x0C f)
  | .and f => some (vWord 0x0D f)
  | .andi f => some (iWord 0x0E f)
  | .andn f => some (vWord 0x0F f)
  | .or f => some (vWord 0x10 f)
  | .ori f => some (iWord 0x11 f)
  | .xor f => some (vWord 0x12 f)
  | .xori f => some (iWord 0x13 f)
  | .shl f => some (vWord 0x14 f)
  | .shli f => some (iWord 0x15 f)
  | .shr f => some (vWord 0x16 f)
  | .shri f => some (iWord 0x17 f)
  | .sar f => some (vWord 0x18 f)
  | .sari f => some (iWord 0x19 f)
  | .bfx f => some (vWord 0x1A f)
  | .bfi f => some (vWord 0x1B f)
  | .popc f => some (vWord 0x1C f)
  | .clz f => some (vWord 0x1D f)
  | .permb f => some (vWord 0x1E f)
  | .lea f => some (vWord 0x1F f)
  | .isetp f => some (vWord 0x20 f)
  | .isetpi f => some (iWord 0x21 f)
  | .sel f => some (vWord 0x22 f)
  | .cvti f => some (vWord 0x23 f)
  | .cvtf f => some (vWord 0x24 f)
  | .pack f => some (vWord 0x25 f)
  | .unpack f => some (vWord 0x26 f)
  | .msk f => some (vWord 0x27 f)
  | .fadd f => some (vWord 0x30 f)
  | .fmul f => some (vWord 0x31 f)
  | .ffma f => some (vWord 0x32 f)
  | .fmin f => some (vWord 0x33 f)
  | .fmax f => some (vWord 0x34 f)
  | .fsetp f => some (vWord 0x35 f)
  | .frcp f => some (vWord 0x36 f)
  | .frsq f => some (vWord 0x37 f)
  | .fexp2 f => some (vWord 0x38 f)
  | .flog2 f => some (vWord 0x39 f)
  | .fdot2 f => some (vWord 0x3A f)
  | .fdot4 f => some (vWord 0x3B f)
  | .hfma2 f => some (vWord 0x3C f)
  | .idp4 f => some (vWord 0x40 f)
  | .idp8 f => some (vWord 0x41 f)
  | .isqd4 f => some (vWord 0x42 f)
  | .hamd f => some (vWord 0x43 f)
  | .pqacc f => some (vWord 0x44 f)
  | .gsort f => some (vWord 0x45 f)
  | .gmergek f => some (vWord 0x46 f)
  | .shfl f => some (vWord 0x47 f)
  | .gred f => some (vWord 0x48 f)
  | .gscan f => some (vWord 0x49 f)
  | .vote f => some (vWord 0x4A f)
  | .matchL f => some (vWord 0x4B f)
  | .compact f => some (vWord 0x4C f)
  | .rgput f => some (vWord 0x4D f)
  | .rgtake f => some (vWord 0x4E f)
  | .genrd f => some (vWord 0x4F f)
  | .ld f => some (mWord 0x50 f)
  | .st f => some (mWord 0x51 f)
  | .lds f => some (mWord 0x52 f)
  | .sts f => some (mWord 0x53 f)
  | .atom f => some (mWord 0x54 f)
  | .atoms f => some (mWord 0x55 f)
  | .fence f => some (vWord 0x56 f)
  | .pref f => some (mWord 0x57 f)
  | .cstore f => some (vWord 0x58 f)
  | .icinv f => some (vWord 0x59 f)
  | .arrive f => some (vWord 0x60 f)
  | .waitb f => some (vWord 0x61 f)
  | .sbres f => some (vWord 0x62 f)
  | .sbfill f => some (vWord 0x63 f)
  | .sbtake f => some (vWord 0x64 f)
  | .sbfree f => some (vWord 0x65 f)
  | .join f => some (vWord 0x66 f)
  | .leave f => some (vWord 0x67 f)
  | .waitm f => some (vWord 0x68 f)
  | .yield f => some (vWord 0x69 f)
  | .bra f => some (bWord 0x70 f)
  | .brx f => some (vWord 0x71 f)
  | .call f => some (bWord 0x72 f)
  | .ret f => some (vWord 0x73 f)
  | .exit f => some (vWord 0x74 f)
  | .trap f => some (vWord 0x75 f)
  | .bkpt f => some (vWord 0x76 f)
  | .trapret f => some (vWord 0x77 f)
  | .bcopy f => some (vWord 0x80 f)
  | .bgather f => some (vWord 0x81 f)
  | .tierin f => some (vWord 0x82 f)
  | .tierout f => some (vWord 0x83 f)
  | .gangset f => some (vWord 0x90 f)
  | .gmma f => some (vWord 0x91 f)
  | .accrd f => some (vWord 0x92 f)
  | .accwr f => some (vWord 0x93 f)
  | .accst f => some (vWord 0x94 f)
  | .genset f => some (vWord 0x95 f)
  | .cfgwr f => some (vWord 0xA0 f)
  | .cfgseal f => some (vWord 0xA1 f)
  | .cfgrun f => some (vWord 0xA2 f)
  | .cfgrunResume f => some (vWord 0xA2 f)
  | .cfgstat f => some (vWord 0xA3 f)
  | .cfgdrain f => some (vWord 0xA4 f)
  | .cfgkill f => some (vWord 0xA5 f)
  | .cfgevict f => some (vWord 0xA6 f)
  | .obind f => some (vWord 0xB0 f)
  | .obindU f => some (vWord 0xB0 f)
  | .ocall f => some (vWord 0xB1 f)
  | .old f => some (vWord 0xB2 f)
  | .ost f => some (vWord 0xB3 f)
  | .oabort f => some (vWord 0xB4 f)
  | .ocommit f => some (vWord 0xB5 f)
  | .launch f => some (vWord 0xC0 f)
  | .sysrd f => some (sWord 0xC1 f)
  | .syswr f => some (sWord 0xC2 f)
  | .wid f => some (vWord 0xC3 f)
  | .rgive f => some (vWord 0xC4 f)
  | .rclaim f => some (vWord 0xC5 f)
  | .dualWord d => some (dWord d)
  | .producerComplete _ _ => none
  | .rclaimGrant _ => none
  | .sbresGrant _ _ => none
  | .sbtakeGrant _ _ => none
  | .waitbWake _ _ => none
  | .waitbPoll _ _ => none
  | .gangLatchOpen _ => none
  | .regdeadlock _ => none
  | .watchdog _ _ => none
  | .eccfatal _ _ => none
  | .dispatcherCycle => none
  | .rucksackSaveDone _ _ _ => none
  | .poolStarvation => none
  | .launchComplete _ => none
  | .ocallRequestArrive _ => none
  | .batchStart _ => none
  | .waveLimit _ _ => none
  | .ocallReply _ => none
  | .faultReply _ => none
  | .copyEngineComplete _ _ => none
  | .tierPageMove _ => none
  | .tierCommandComplete _ => none
  | .icinvComplete _ => none
  | .tlbiRange _ _ => none
  | .tlbiContext _ _ => none
  | .tlbiAll _ _ => none
  | .tlbiComplete => none
  | .stopCmd _ => none
  | .stepCmd _ => none
  | .terminateCmd _ => none
  | .preemptCmd _ _ => none
  | .releaseCmd _ => none
  | .wcmdBadcmd _ _ => none
  | .windowRead _ => none
  | .windowWrite _ _ => none
  | .tqtake _ => none
  | .dbsync _ _ => none
  | .clkloRead _ => none
  | .sbcfgWrite _ _ _ => none
  | .fbsactRetry _ _ => none
  | .fbsactUnresolvable _ _ => none
  | .fbownSelect _ _ => none
  | .fbownWrite _ _ => none
  | .drainCmd _ _ => none
  | .resumeCmd _ _ => none
  | .lendCmd _ _ => none
  | .returnCmd _ _ => none
  | .killCmd _ _ => none
  | .eraseCmd _ _ => none
  | .fbrcmdBadcmd _ _ => none
  | .frgreq _ _ _ _ => none
  | .ftrust _ => none
  | .fverify _ => none
  | .runSelect _ _ => none
  | .loadingComplete _ _ => none
  | .runDone _ _ => none
  | .drainComplete _ _ => none
  | .tokenArrive _ _ => none
  | .batonEscape _ _ => none
  | .channelWatchdog _ => none
  | .bankRefresh _ _ => none
  | .fabricEccError _ _ => none
  | .streamWalkComplete _ _ => none
  | .streamGateOpen _ _ => none
  | .readStreamToken _ _ => none
  | .writeStreamElement _ _ => none
  | .writePassComplete _ _ => none
  | .elementwiseFire _ _ => none
  | .selNode _ _ => none
  | .constN _ _ => none
  | .countN _ _ => none
  | .genN _ _ => none
  | .steerN _ _ => none
  | .filterN _ _ => none
  | .mergeN _ _ => none
  | .accN _ _ => none
  | .bfpsumN _ _ => none
  | .mmanN _ _ => none
  | .topknN _ _ => none
  | .partN _ _ => none
  | .gathrN _ _ => none
  | .sinkN _ _ => none
  | .pqaccTableLoad _ _ => none
  | .mbReserve _ => none
  | .mbCommit _ _ => none
  | .launchSlotWrite _ _ => none
  | .mailboxConsume _ => none
  | .hostBar2Access _ _ => none
  | .bar0Violation _ _ => none
  | .registerWrite _ _ _ => none
  | .logTail _ _ => none
  | .ctxcreate => none
  | .ctxdestroy => none
  | .mbbind => none
  | .qassign => none
  | .savepool => none
  | .powercap => none
  | .segmap => none
  | .freezeCmd => none
  | .cfgkey => none
  | .fabquota => none
  | .mgcmdBadcmd _ => none
  | .freezeJtag => none
  | .coldReset _ _ => none
  | .bringupComplete => none
  | .functionLevelReset => none
  | .configRequest _ => none
  | .getVersion => none
  | .getCapabilities => none
  | .negotiateAlgorithms _ => none
  | .getDigests => none
  | .getCertificate _ _ _ => none
  | .challenge _ _ => none
  | .getMeasurements _ _ => none
  | .supplySag _ _ => none
  | .clockStretchEnd _ _ => none
  | .peerRequestArrive _ _ => none
  | .linkDown _ => none
  | .rucksackRestoreDone _ _ => none
  | .gmmaComplete _ => none
  | .memoryEccError _ _ => none
  | .detLogExtend _ _ => none
  | .doneArrivalRetry _ => none

end Sys2Proof
end

