-- ==== Sys2Proof/Config.lean ====
section
/-! DEFINITION. What the spec leaves to an implementation or to the outside world: opaque constants with no body, so
that nothing can be proved about their values. -/

namespace Sys2Proof.Config

/-- Core clocks since reset when SYS.CLKLO is read (15 R331), by the fresh counter: a timing value (free). -/
opaque clock : Nat → DWord

/-- A byte that a peer module or the host answers with (13 R294, R295), by the fresh counter (free). -/
opaque peerByte : Nat → Byte

/-- Whether a request that leaves through an aperture meets the violation response on the other side, its segment not being exposed
there or the link going down under it (13 R295), by the fresh counter (free). -/
opaque peerRefuses : Nat → Bool

/-- A status that a peer's home answers an arrival or a combining request with, by the fresh counter (free). -/
opaque peerWord : Nat → DWord

/-- Where the system Ranger's firmware starts each Ranger after bring-up (13 R296), by Ranger number (free). -/
opaque rangerEntry : Nat → DWord

/-- An SLH-DSA-SHA2-128f signature by the device key (13 R297): message (free). -/
opaque slhSign : List Byte → List Byte

/-- The bytes of the identity certificate chain (13 R297): certificate slot (free). -/
opaque certificate : Nat → List Byte

/-- Measurement of a firmware stage at bring-up (13 R296): the value a measurement register is extended with (free). -/
opaque measurement : Nat → BitVec 256

/-- A configuration register's value as PCI Express defines it (13 R288), by the fresh counter (free). -/
opaque pciConfig : Nat → Nat → Word

/-- The upper half of a 64-bit source that CVTF's node converts from a 32-bit lane (16 R362): by the lane (free). -/
opaque laneHigh : Word → Word

/-- A lane of a GATHER reply whose element is wider than 32 bits (10 R232, 17 R375): by the element and its lane (free). No count of
what the machine did before enters, so that runs of one configuration agree (01 R17). -/
opaque wideLane : Nat → Nat → Word

/-- An auxiliary word of an error-log entry whose contents the spec does not state (13 R299), by the fresh counter (free). -/
opaque logAux : Nat → DWord

/-- A byte of a poisoned sector as the host or the firmware reads it (13 R290, R293), by the fresh counter (free). -/
opaque poisonByte : Nat → Byte

/-- A byte that a copy engine reads from the scratchpad of a block that has ended (16 R347), by the fresh counter (free). -/
opaque goneByte : Nat → Byte

/-- A word of a save image whose encoding the spec does not state (12 R280), by the fresh counter (free). -/
opaque imageWord : Nat → Word

/-- A register that is held per group or per launch, as a wave or a Ranger reads it where it has no such copy of its own
(15 R331, 19 R428): SYS.WHERE, SYS.CTX, SYS.LPARAM, by the fresh counter (free). -/
opaque ownCopy : Nat → Word

end Sys2Proof.Config
end

