-- ==== Sys2Proof/Machine/Log.lean ====
section
/-! DEFINITION. The die error logs and MSI-X sends (spec 13 R289, R299). -/

namespace Sys2Proof.Machine

/-- Sends an answer to the outside world. -/
def State.emit (s : State) (o : Output) : State := { s with plat.out := s.plat.out ++ [o] }

/-- What a byte of the MSI-X table holds at reset: every vector masked, as PCI Express has it (PRESUMED, log entry 46). -/
def msixReset (o : Nat) : Byte := if o % 16 = 12 then 1 else 0

/-- A byte of the MSI-X table. -/
def State.msixByte (s : State) (o : Nat) : Byte := Sparse.get s.plat.msixTable o ^^^ msixReset o

/-- Whether an MSI-X vector is masked: bit 0 of its vector control word in the table. -/
def State.msixMasked (s : State) (v : Nat) : Bool := (s.msixByte (16 * v + 12)).getLsbD 0

/-- Sends an MSI-X vector, or marks it pending while it is masked (13 R289). -/
def State.msix (s : State) (v : Nat) : State :=
  if s.msixMasked v then
    { s with plat.pba := Sparse.set s.plat.pba (v / 8) (Sparse.get s.plat.pba (v / 8) ||| (1#8 <<< (v % 8))) }
  else s.emit (.msix v)

/-- Writes an entry into a die's error log and sends ERRVEC, or counts it as lost when the log is full (13 R299). -/
def State.logErr (s : State) (die ty ctx : Nat) (addr aux0 aux1 : DWord) : State :=
  let lg := nth ErrLog.blank s.plat.logs die
  if lg.head - lg.tail < 64 then
    let e : LogEntry := ⟨BitVec.ofNat 8 ty, BitVec.ofNat 8 ctx, lg.head, addr, aux0, aux1⟩
    let lg := { lg with head := lg.head + 1, entries := put lg.entries (lg.head.toNat % 64) e }
    State.msix { s with plat.logs := setNth s.plat.logs die lg } (s.plat.errvec.toNat % 2048)
  else { s with plat.logs := setNth s.plat.logs die { lg with lost := lg.lost + 1 } }

/-- An entry whose second auxiliary word the spec does not state: it is free. -/
def State.logOne (s : State) (die ty ctx : Nat) (addr aux0 : DWord) : State :=
  { s with fresh := s.fresh + 1 }.logErr die ty ctx addr aux0 (Config.logAux s.fresh)

/-- An entry whose auxiliary words the spec does not state: both are free. -/
def State.logPlain (s : State) (die ty ctx : Nat) (addr : DWord) : State :=
  { s with fresh := s.fresh + 1 }.logOne die ty ctx addr (Config.logAux s.fresh)

/-- A violation is logged with its address (13 R299). -/
def State.violation (s : State) (die ctx : Nat) (addr : DWord) : State := s.logPlain die 0x06 ctx addr

/-- A fresh number: identifiers and the arguments of free values. -/
def State.next (s : State) : State := { s with fresh := s.fresh + 1 }

end Sys2Proof.Machine
end

