-- ==== Sys2Proof/Machine/Memory.lean ====
section
/-! DEFINITION. Physical memory and the caches above it: home values, DRAM values below dirty L2 lines, poison,
L1 sectors, releases and acquires (spec 05 R108 to R112, 07 R151 to R160), the physical map (06 R138, R139), and
translation (06 R129 to R144). -/

namespace Sys2Proof.Machine

/-! ## The physical map (06 R138, 05 R109) -/

/-- What a physical address reaches. -/
inductive Region where
  | hbm (stack : Nat)
  | ct
  | peer (target : Nat)
  | mmio (off : Nat)
  | hole
  deriving DecidableEq, Repr

/-- First PA of the capacity tier. -/
def ctBase : Nat := 0x1000000000000
/-- First PA of the peer apertures. -/
def peerBase : Nat := 0xFFF0000000000
/-- First PA of the device MMIO range. -/
def mmioBase : Nat := 0xFFF8000000000

/-- The region of a physical address (06 R138; 13 R295 for the aperture targets). -/
def region (pa : Nat) : Region :=
  if pa < 0x8000000000 then .hbm (pa / 2 ^ 36)
  else if ctBase ≤ pa && pa < ctBase + 0x30000000000 then .ct
  else if peerBase ≤ pa && pa < mmioBase then
    (if (pa - peerBase) / 2 ^ 34 < 17 then .peer ((pa - peerBase) / 2 ^ 34) else .hole)
  else if mmioBase ≤ pa && pa < mmioBase + 0x4000000000 then .mmio (pa - mmioBase)
  else .hole

/-- Whether an address is memory of the module, and not a register or a peer's. -/
def ownMemory (pa : Nat) : Bool :=
  match region pa with
  | .hbm _ => true
  | .ct => true
  | _ => false

/-- The die that homes an address (05 R109). -/
def homeDie (pa : Nat) : Nat :=
  match region pa with
  | .hbm k => if k < 4 then 0 else 1
  | .ct => if pa - ctBase < 0x18000000000 then 0 else 1
  | _ => 0

/-- The L2 slice of a line within its home die (06 R139). -/
def l2Slice (pa : Nat) : Nat :=
  (List.range 8).foldl (fun acc i => acc ^^^ bits (pa % 2 ^ 52) (6 * i + 6) 6) 0

/-- The Potluck unit that serves a line (06 R139). -/
def unitOf (pa : Nat) : UnitId := { die := homeDie pa, unit := l2Slice pa / 4 }

/-- The die of a core (12 R271). -/
def coreDie (c : Nat) : Nat := if c < 96 then 0 else 1

/-! ## Home values, DRAM values, poison -/

/-- Byte at the home of a physical address. -/
def State.byte (s : State) (pa : Nat) : Byte := Sparse.get s.mem pa

/-- The n-byte little-endian number at the home of an address. -/
def State.homeRead (s : State) (pa n : Nat) : Nat := ofBytes ((List.range n).map (fun i => s.byte (pa + i)))

/-- Whether the 16-byte sector of an address is poisoned. -/
def State.poisoned (s : State) (pa : Nat) : Bool := s.poison.contains (pa / 16)

/-- Whether a line is under fabric ownership of some run (07 R159). -/
def State.fabOwned (s : State) (pa : Nat) : Bool :=
  s.fabrics.any (fun k => k.runs.any (fun r => r.owned.any (fun o => o.pa ≤ pa && pa < o.pa + o.len)))

/-- Stores one byte at the home, which drops the line from the RDCs (05 R108). Unless the store bypasses the L2 (an MS page, a
fabric-owned line, a bank write), the older DRAM value is kept until the line is written back (07 R158, R160). -/
def State.setByte (s : State) (bypass : Bool) (pa : Nat) (b : Byte) : State :=
  let old := if bypass then del s.old pa
    else if s.old.any (fun kv => kv.1 = pa) then s.old else put s.old pa (s.byte pa)
  { s with mem := Sparse.set s.mem pa b, old := old, rdc := s.rdc.filter (fun e => e.sector / 4 != pa / 64) }

/-- Poison mark of a 16-byte sector. -/
def State.setPoison (s : State) (pa : Nat) (on : Bool) : State :=
  { s with poison := if on then insNat s.poison (pa / 16) else s.poison.filter (fun k => k != pa / 16) }

/-- Writes dirty L2 lines of a range back to DRAM, and drops them from the L2 (07 R158). -/
def State.cleanL2 (s : State) (lo len : Nat) : State :=
  { s with old := s.old.filter (fun kv => !(lo ≤ kv.1 && kv.1 < lo + len)),
           l2strm := s.l2strm.filter (fun k => !(lo < 64 * k + 64 && 64 * k < lo + len)) }

/-- 64-byte lines of one L2 slice (01 R13): 24 MiB. -/
def l2SliceLines : Nat := 393216

/-- Lines that the L2 slice of an address must hold: those with dirty bytes, and those held under STRM. -/
def State.l2Lines (s : State) (pa : Nat) : List Nat :=
  (s.old.map (fun (kv : Nat × Byte) => kv.1 / 64) ++ s.l2strm).foldl
    (fun l k => if homeDie (64 * k) = homeDie pa && l2Slice (64 * k) = l2Slice pa then insNat l k else l) []

/-- A slice with more such lines than it has room for gives one up, dirty bytes written back: one under STRM first (05 R108, R110). -/
def State.l2Fit (s : State) (pa : Nat) : State :=
  if s.old.length + s.l2strm.length ≤ l2SliceLines then s
  else
    let mine := (s.l2Lines pa).filter (fun k => k != pa / 64)
    if mine.length < l2SliceLines then s
    else match (mine.find? (fun k => s.l2strm.contains k)).orElse (fun _ => mine.head?) with
      | some k => s.cleanL2 (64 * k) 64
      | none => s

/-- An access under STRM leaves the line in its home's L2, with first eviction priority (05 R110). -/
def State.l2Mark (s : State) (strm : Bool) (pa : Nat) : State :=
  if strm then ({ s with l2strm := insNat s.l2strm (pa / 64) } : State).l2Fit pa else s

/-- Writes the bytes of a sector that a mask selects; covering all 16 clears poison, fewer leave it (05 R460, 19 R426). -/
def State.writeSector (s : State) (bypass : Bool) (sector : Nat) (data : BitVec 128) (mask : BitVec 16) : State :=
  let s := if mask = 0xFFFF#16 then s.setPoison (16 * sector) false else s
  ((bitList 16 mask.toNat).foldl
    (fun s i => s.setByte (bypass || s.fabOwned (16 * sector)) (16 * sector + i) (data.extractLsb' (8 * i) 8)) s).l2Fit (16 * sector)

/-- Writes n bytes at an address that lie in one sector. -/
def State.homeWrite (s : State) (bypass : Bool) (pa n x : Nat) : State :=
  let o := pa % 16
  s.writeSector bypass (pa / 16) (BitVec.ofNat 128 (x <<< (8 * o))) (BitVec.ofNat 16 ((2 ^ n - 1) <<< o))

/-- Writes a list of bytes from an address on, at the home. -/
def State.homeWriteBytes (s : State) (bypass : Bool) (pa : Nat) (l : List Byte) : State :=
  (l.zip (List.range l.length)).foldl
    (fun s bi => (s.setByte (bypass || s.fabOwned (pa + bi.2)) (pa + bi.2) bi.1).l2Fit (pa + bi.2)) s

/-- The DRAM byte, which may be older than the home value (07 R158). -/
def State.dramByte (s : State) (pa : Nat) : Byte :=
  match look? s.old pa with
  | some b => b
  | none => s.byte pa

/-! ## The RDC of a die (01 R10, R13, 05 R108) -/

/-- 64-byte lines that an RDC has room for: 128 MiB. -/
def rdcCap : Nat := 2097152

/-- Adds a sector to a die's RDC. Where its line is not held and the RDC is full, a line leaves: one brought in under STRM first,
then the oldest (05 R110). -/
def State.rdcPut (s : State) (e : RdcSector) : State :=
  let here := s.rdc.filter (fun x => x.die = e.die)
  let lines := fun (_ : Unit) => here.foldl (fun l x => insNat l (x.sector / 4)) []
  let rest := if here.length < rdcCap || (lines ()).contains (e.sector / 4) || (lines ()).length < rdcCap then s.rdc
    else match (here.find? (fun x => x.strm)).orElse (fun _ => here.head?) with
      | some v => s.rdc.filter (fun x => !(x.die = e.die && x.sector / 4 = v.sector / 4))
      | none => s.rdc
  { s with rdc := rest ++ [e] }

/-- Drops the RDC copies of a range. -/
def State.rdcDrop (s : State) (lo len : Nat) : State :=
  { s with rdc := s.rdc.filter (fun e => !(lo ≤ 16 * e.sector && 16 * e.sector < lo + len)) }

/-- Reads n bytes of one sector for a party of a die: at the home, or from the die's RDC, which takes a copy of a line homed on
the other die (R110); `strm` gives what the access fills first eviction priority. An MS page's lines and those under fabric
ownership are held in no L2 or RDC (R111, 07 R159). -/
def State.homeFor (s : State) (die : Nat) (ms strm : Bool) (pa n : Nat) : State × Nat :=
  if ms || s.fabOwned pa || s.poisoned pa then (s, s.homeRead pa n)
  else if homeDie pa = die then (s.l2Mark strm pa, s.homeRead pa n)
  else match s.rdc.find? (fun e => e.die = die && e.sector = pa / 16) with
    | some e => (s, bits e.data.toNat (8 * (pa % 16)) (8 * n))
    | none => ((s.l2Mark strm pa).rdcPut ⟨die, pa / 16, BitVec.ofNat 128 (s.homeRead (pa / 16 * 16) 16), strm⟩, s.homeRead pa n)

/-! ## The L1 of a core (05 R108) -/

/-- 64-byte lines that the L1 of a core has room for: 512 KiB less SPLIT × 64 KiB. -/
def State.l1Room (s : State) (core : Nat) : Nat := 1024 * (8 - lookD 0 s.sched.splits core)

/-- The L1 sector of a core, if it holds it. -/
def State.l1Find (s : State) (core sector : Nat) : Option L1Sector :=
  s.l1.find? (fun e => e.core = core && e.sector = sector)

/-- Replaces or adds an L1 sector; one without valid bytes leaves. -/
def State.l1Put (s : State) (e : L1Sector) : State :=
  let rest := s.l1.filter (fun x => !(x.core = e.core && x.sector = e.sector))
  { s with l1 := if e.valid = 0 then rest else rest ++ [e] }

/-- Writes a core's dirty bytes of one sector to the home and leaves the sector clean. -/
def State.l1Clean (s : State) (e : L1Sector) : State :=
  if e.dirty = 0 then s
  else (s.writeSector false e.sector e.data e.dirty).l1Put { e with dirty := 0 }

/-- Writes back one sector of a core and drops it (05 R108). -/
def State.l1Evict (s : State) (core sector : Nat) : State :=
  match s.l1Find core sector with
  | none => s
  | some e => 
    let s := s.l1Clean e
    { s with l1 := s.l1.filter (fun x => !(x.core = core && x.sector = sector)) }

/-- Drops the copies of a 64-byte line in one core's L1, dirty bytes written back first. -/
def State.l1DropLine (s : State) (core line : Nat) : State :=
  (List.range 4).foldl (fun s i => s.l1Evict core (4 * line + i)) s

/-- Lines that a core's L1 holds. -/
def State.l1Lines (s : State) (core : Nat) : List Nat :=
  (s.l1.filter (fun e => e.core = core)).foldl (fun l e => insNat l (e.sector / 4)) []

/-- Makes room for a sector in a core's L1: where its line is not held and the L1 is full, a line leaves, one brought in under
STRM first, then the one used least recently (05 R110). -/
def State.l1Make (s : State) (core sector : Nat) : State :=
  let lines := s.l1Lines core
  if lines.contains (sector / 4) || lines.length < s.l1Room core then s
  else
    let mine := s.l1.filter (fun e => e.core = core)
    match (mine.find? (fun e => e.strm)).orElse (fun _ => mine.head?) with
    | some e => s.l1DropLine core (e.sector / 4)
    | none => s

/-- Empties a core's L1, dirty sectors written back: its share of the local memory changes (05 R108). -/
def State.l1Empty (s : State) (core : Nat) : State :=
  (s.l1.filter (fun e => e.core = core)).foldl (fun s e => s.l1Evict core e.sector) s

/-- Writes every dirty sector of a core to the home (07 R153, a release of CLUSTER scope or wider). -/
def State.flushCore (s : State) (core : Nat) : State :=
  (s.l1.filter (fun e => e.core = core && e.dirty != 0)).foldl (fun s e => s.l1Clean e) s

/-- Drops the clean bytes of a core's L1 (07 R153, an acquire of CLUSTER scope or wider). -/
def State.invalCore (s : State) (core : Nat) : State :=
  let l := s.l1.map (fun e => if e.core = core then { e with valid := e.dirty } else e)
  { s with l1 := l.filter (fun e => e.valid != 0) }

/-- Whether a scope goes beyond one core (07 R145). -/
def Scope.wide (c : Scope) : Bool :=
  match c with
  | .group => false
  | .block => false
  | _ => true

/-- The scope of a code (15 R328). -/
def scopeOf (n : Nat) : Scope :=
  match n with
  | 0 => .group
  | 1 => .block
  | 2 => .cluster
  | 3 => .die
  | 4 => .device
  | _ => .system

/-- A release by a party on a core (07 R151, R153); a party without an L1 has nothing to write back. -/
def State.release (s : State) (core : Option Nat) (c : Scope) : State :=
  match core with
  | some k => if c.wide then s.flushCore k else s
  | none => s

/-- An acquire by a party on a core (07 R151, R153). -/
def State.acquire (s : State) (core : Option Nat) (c : Scope) : State :=
  match core with
  | some k => if c.wide then s.invalCore k else s
  | none => s

/-- Promotion by a `.rmt` acquire: the cores of its scope instance write back (07 R154). Writing back every dirty
sector of those cores is among the behaviours that R108 leaves to the caches. -/
def State.promote (s : State) (core : Option Nat) (c : Scope) : State :=
  match core with
  | none => (List.range 192).foldl (fun s k => s.flushCore k) s
  | some k =>
    let cores := match c with
      | .cluster => (List.range 4).map (fun i => k / 4 * 4 + i)
      | .die => (List.range 96).map (fun i => (if k < 96 then 0 else 96) + i)
      | _ => List.range 192
    cores.foldl (fun s k => s.flushCore k) s

/-! ## Translation (06) -/

/-- A translation fault: trap code of 12 R267 and walk level. -/
structure Flt where
  cause : Nat
  level : Nat
  deriving DecidableEq, Repr

/-- What an access needs (06 R133); a fabric stream also needs its own stack. -/
structure Need where
  rd : Bool
  wr : Bool
  ex : Bool
  stack : Option Nat
  deriving DecidableEq, Repr

/-- A load. -/
def needRd : Need := ⟨true, false, false, none⟩
/-- A store. -/
def needWr : Need := ⟨false, true, false, none⟩
/-- An atomic. -/
def needRw : Need := ⟨true, true, false, none⟩
/-- An instruction fetch. -/
def needEx : Need := ⟨false, false, true, none⟩

/-- A translated address: the PA and the leaf's bits (CP [11:10], MS [6]). -/
structure Trans where
  pa : Nat
  leaf : DWord
  deriving DecidableEq, Repr

/-- Cache policy CP of a leaf (05 R110). -/
def leafCp (e : DWord) : Nat := (e.extractLsb' 10 2).toNat
/-- Whether the policy allocates in the L1: bit 0 of CP is clear. -/
def leafL1 (e : DWord) : Bool := !e.getLsbD 10
/-- Whether what an access allocates has first eviction priority (STRM): bit 1 of CP. -/
def leafStrm (e : DWord) : Bool := e.getLsbD 11
/-- Memory-side bit of a leaf (05 R111). -/
def leafMs (e : DWord) : Bool := e.getLsbD 6
/-- FRAME as a physical address. -/
def leafFrame (e : DWord) : Nat := (e.extractLsb' 12 40).toNat * 4096
/-- Size in bits of the page that a leaf of a level maps (06 R130). -/
def leafBits (lvl : Nat) : Nat := 12 + 9 * (5 - lvl)

/-- Whether a leaf has the permissions an access needs (06 R133). -/
def permits (e : DWord) (n : Need) : Bool :=
  (!n.rd || e.getLsbD 2) && (!n.wr || e.getLsbD 3) && (!n.ex || e.getLsbD 4)

/-- Whether a valid leaf is reserved at its level (06 R132). -/
def leafReserved (lvl : Nat) (e : DWord) : Bool :=
  let fr := leafFrame e
  lvl < 3 || fr % 2 ^ leafBits lvl != 0 || leafCp e = 3
    || (leafMs e && !(match region fr with
      | .hbm _ => true
      | _ => false))
    || region fr = .hole

/-- Whether a frame lies in the HBM of a stack. -/
def inStack (fr k : Nat) : Bool := region fr = .hbm k

/-- Address of a context's root table entry in the context table (06 R129). -/
def State.rootAt (s : State) (ctx : Nat) : Nat := s.dev.ctxtab.toNat * 2 ^ 20 + 8 * ctx

/-- Root table entry of a context, from the context table (06 R129). -/
def State.rootEntry (s : State) (ctx : Nat) : DWord := BitVec.ofNat 64 (s.homeRead (s.rootAt ctx) 8)

/-- The table index of a VA at a level (06 R130). -/
def tblIndex (va lvl : Nat) : Nat := bits va (48 - 9 * (lvl - 1)) 9

/-- A walk-cache entry for a level of a VA, on a die (06 R140). -/
def State.walkHit (s : State) (die ctx lvl va : Nat) : Option DWord :=
  (s.walks.find? (fun w => w.die = die && w.ctx = ctx && w.level = lvl && w.prefix_ = va >>> (48 - 9 * (lvl - 1)))).map
    (fun w => w.entry)

/-- Installs a walk-cache entry, dropping the oldest of a full cache: 512 entries of levels 1 to 3 and 1,024 of level 4
per die (06 R140). -/
def State.walkInstall (s : State) (w : WalkEntry) : State :=
  let same := fun (x : WalkEntry) => x.die = w.die && ((x.level = 4) = (w.level = 4))
  let cap := if w.level = 4 then 1024 else 512
  let old := if (s.walks.filter same).length < cap then s.walks
    else match s.walks.findIdx? same with
      | some i => dropNth s.walks i
      | none => s.walks
  { s with walks := old ++ [w] }

/-- The 8-byte word at `a` of cells that are sorted and begin there. -/
def wordOfCells (a : Nat) (l : List Host.Cell) : DWord :=
  (l.take 8).foldl (fun (x : DWord) (c : Host.Cell) => if c.1 < a + 8 then x ||| (c.2.setWidth 64 <<< (8 * (c.1 - a))) else x) 0#64

/-- Whether some 8-byte word of listed memory, where a page-table entry may stand, meets a condition on its address and value. A valid
entry has a nonzero first byte, so that memory lists its address. -/
def anyEntry (f : Nat → DWord → Bool) : List Host.Cell → Bool
  | [] => false
  | c :: rest => (c.1 % 8 = 0 && f c.1 (wordOfCells c.1 (c :: rest))) || anyEntry f rest

/-- Whether a table is reached at a level of some context's walk: the root's frame at level 1, a valid table entry's below. -/
def State.tableReached (s : State) : Nat → Nat → Bool
  | 0, _ => false
  | 1, t =>
    let root := s.dev.ctxtab.toNat * 2 ^ 20
    anyEntry (fun a e => root ≤ a && a < root + 2048 && e.getLsbD 0 && leafFrame e = t) s.mem
  | n + 2, t => anyEntry (fun a e => e.getLsbD 0 && !e.getLsbD 1 && e.extractLsb' 2 10 = 0 && e.extractLsb' 52 7 = 0 && leafFrame e = t
      && s.tableReached (n + 1) (a / 4096 * 4096)) s.mem

/-- Whether a line is one of a memory-side page (05 R111): a leaf with MS maps it, in a page table of some context or in a
translation structure. It serves the accesses by physical address, which have no leaf of their own. -/
def State.msLine (s : State) (pa : Nat) : Bool :=
  s.tlb.any (fun e => leafMs e.leaf && e.frame ≤ pa && pa < e.frame + 2 ^ e.size) ||
  anyEntry (fun a e => e.getLsbD 0 && e.getLsbD 1 && leafMs e && e.extractLsb' 52 7 = 0 && [3, 4, 5].any (fun lvl =>
      !leafReserved lvl e && leafFrame e ≤ pa && pa < leafFrame e + 2 ^ leafBits lvl && s.tableReached lvl (a / 4096 * 4096))) s.mem

/-- The device's own write of n bytes of one sector by physical address: at the base die for a memory-side line (05 R111). -/
def State.putHome (s : State) (pa n x : Nat) : State := s.homeWrite (s.msLine pa) pa n x

/-- What a walk ends in: a fault, or the leaf with its level and the address it stands at. -/
inductive WalkEnd where
  | flt (f : Flt)
  | leaf (e : DWord) (lvl at_ : Nat)
  deriving DecidableEq, Repr

/-- The device's read of a table at an address in the MMIO range, which only Rangers reach: it is logged as VIOLATION (13 R300). -/
def State.lookTable (s : State) (die ctx at_ : Nat) : State :=
  match region at_ with
  | .mmio _ => s.violation die ctx (BitVec.ofNat 64 at_)
  | _ => s

/-- The levels of a walk (06 R137), filling the walk caches with table entries. An entry is the home's bytes, also in a poisoned
sector, or at a table address outside the module's memory, of which the spec does not say what the walk makes (DESIGN CHOICE, log entry
83). -/
def walkFrom (die ctx va : Nat) (need : Need) : List Nat → Nat → State → State × WalkEnd
  | [], _, s => (s, .flt ⟨0x06, 5⟩)
  | lvl :: rest, t, s =>
    let at_ := t + 8 * tblIndex va lvl
    let hit := if lvl ≤ 4 then s.walkHit die ctx lvl va else none
    let e := match hit with
      | some w => w
      | none => BitVec.ofNat 64 (s.homeRead at_ 8)
    let s := if hit.isSome then s else s.lookTable die ctx at_
    if !e.getLsbD 0 then (s, .flt ⟨0x06, lvl⟩)
    else if e.extractLsb' 52 7 != 0 then (s, .flt ⟨0x08, lvl⟩)
    else if !e.getLsbD 1 then
      if lvl = 5 || e.extractLsb' 2 10 != 0 then (s, .flt ⟨0x08, lvl⟩)
      else
        let s := if hit.isSome then s
          else s.walkInstall ⟨die, ctx, lvl, va >>> (48 - 9 * (lvl - 1)), e⟩
        walkFrom die ctx va need rest (leafFrame e) s
    else if leafReserved lvl e then (s, .flt ⟨0x08, lvl⟩)
    else if !permits e need then (s, .flt ⟨0x07, lvl⟩)
    else match need.stack with
      | some k => if inStack (leafFrame e) k then (s, .leaf e lvl at_) else (s, .flt ⟨0x0A, lvl⟩)
      | none => (s, .leaf e lvl at_)

/-- The sixteen entries of the contiguous group of a level-5 entry at an address (06 R136). -/
def State.contig (s : State) (at_ : Nat) : List DWord :=
  (List.range 16).map (fun i => BitVec.ofNat 64 (s.homeRead (at_ / 128 * 128 + 8 * i) 8))

/-- Whether sixteen entries are valid leaves with C that map one aligned 64 KiB frame, whatever their other fields (05 R123). -/
def oneFrame (l : List DWord) : Bool :=
  leafFrame (l.headD 0) % 65536 = 0 &&
    (l.zip (List.range 16)).all (fun p => p.1.getLsbD 0 && p.1.getLsbD 1 && p.1.getLsbD 9 && leafFrame p.1 = leafFrame (l.headD 0) + 4096 * p.2)

/-- Whether the sixteen entries form one 64 KiB page (06 R136): they also agree in every field but FRAME, A and Dy. -/
def contigOk (l : List DWord) : Bool :=
  let strip := fun (e : DWord) => e &&& ~~~(0x000FFFFFFFFFF180#64)
  oneFrame l && l.all (fun e => strip e = strip (l.headD 0))

/-- Entries a translation structure holds (06 R140). -/
def tlbCap (h : TlbHome) : Nat :=
  match h with
  | .core _ => 256
  | .die _ => 32768
  | .stack _ => 4096

/-- Installs an entry, dropping the oldest of a full structure. -/
def State.tlbInstall (s : State) (e : TlbEntry) : State :=
  let n := (s.tlb.filter (fun x => x.at_ = e.at_)).length
  let old := if n < tlbCap e.at_ then s.tlb
    else match s.tlb.findIdx? (fun x => x.at_ = e.at_) with
      | some i => dropNth s.tlb i
      | none => s.tlb
  { s with tlb := old ++ [e] }

/-- A matching entry of a structure: same context, or made from a G leaf (06 R134, R140). -/
def State.tlbFind (s : State) (h : TlbHome) (ctx va : Nat) : Option TlbEntry :=
  s.tlb.find? (fun e => e.at_ = h && (e.ctx = ctx || e.leaf.getLsbD 5) && e.va >>> e.size = va >>> e.size)

/-- The structures an access looks in, nearest first, and the die whose walker it uses. -/
def tlbChain (h : TlbHome) : List TlbHome × Nat :=
  match h with
  | .core c => ([.core c, .die (coreDie c)], coreDie c)
  | .die d => ([.die d], d)
  | .stack k => ([.stack k], if k < 4 then 0 else 1)

/-- A walk with its effects: A and Dy set, entries installed (06 R135 to R137). A context whose root entry has its valid bit clear
answers XNP at level 1: R137 takes the root as it stands, and names no fault for it (DESIGN CHOICE, log entry 83). The entry of a 64 KiB
page holds A and Dy as the walked page's level-5 entry has them, for its other fifteen pages too, so that a later write to one of these walks no more
(DESIGN CHOICE, log entry 88). -/
def State.walk (s : State) (h : TlbHome) (ctx va : Nat) (need : Need) : State × Except Flt Trans :=
  let (chain, die) := tlbChain h
  let root := s.rootEntry ctx
  let s := s.lookTable die ctx (s.rootAt ctx)
  if !root.getLsbD 0 then (s, .error ⟨0x06, 1⟩)
  else
    match walkFrom die ctx va need [1, 2, 3, 4, 5] (leafFrame root) s with
    | (s, .flt f) => (s, .error f)
    | (s, .leaf e lvl at_) =>
      let e' := e ||| (if need.wr then 0x180#64 else 0x80#64)
      let s := if e' = e then s else s.putHome at_ 8 e'.toNat
      let big := lvl = 5 && e.getLsbD 9 && contigOk (s.contig at_)
      let size := if big then 16 else leafBits lvl
      let frame := leafFrame e - (if big then leafFrame e % 65536 else 0)
      let ent := fun (hm : TlbHome) => (⟨hm, ctx, va >>> size <<< size, size, frame, e', lvl⟩ : TlbEntry)
      let s := chain.foldl (fun s hm => s.tlbInstall (ent hm)) s
      (s, .ok ⟨frame + va % 2 ^ size, e'⟩)

/-- Translation of a VA for a context (06 R129, R133, R135, R137). -/
def State.translate (s : State) (h : TlbHome) (ctx : Nat) (va : DWord) (need : Need) : State × Except Flt Trans :=
  if va.extractLsb' 57 7 != 0 then (s, .error ⟨0x07, 0⟩)
  else
    let v := va.toNat
    let (chain, _) := tlbChain h
    match chain.findSome? (fun hm => s.tlbFind hm ctx v) with
    | some e =>
      if !permits e.leaf need then (s, .error ⟨0x07, e.level⟩)
      else if need.wr && !e.leaf.getLsbD 8 then
        let s := { s with tlb := s.tlb.filter (fun x => !(chain.contains x.at_ && x.ctx = e.ctx && x.va = e.va && x.size = e.size)) }
        s.walk h ctx v need
      else
        let s := if e.at_ = h then s else s.tlbInstall { e with at_ := h }
        (s, .ok ⟨e.frame + v % 2 ^ e.size, e.leaf⟩)
    | none => s.walk h ctx v need

/-- Drops translations: those of a context in a VA range (all contexts with ctx none), G entries too under glb, and
walk-cache entries of tables covering the range under walk (06 R143, R144). -/
def State.invalidate (s : State) (ctx : Option Nat) (lo len : Nat) (glb walk : Bool) : State :=
  let hitV := fun (a sz : Nat) => a < lo + len && lo < a + 2 ^ sz
  let hitC := fun (c : Nat) => match ctx with
    | none => true
    | some k => c = k
  { s with
    tlb := s.tlb.filter (fun e => !(hitV e.va e.size && (if e.leaf.getLsbD 5 then glb else hitC e.ctx)))
    walks := if walk then s.walks.filter (fun w =>
        !(hitC w.ctx && hitV (w.prefix_ <<< (48 - 9 * (w.level - 1))) (48 - 9 * (w.level - 1)))) else s.walks }

end Sys2Proof.Machine
end

