-- ==== Sys2Proof/Machine/Table.lean ====
section
/-! DEFINITION. The sorted PC table of a group, its masks and its registers, as operations on one `Group`
(spec 03 R46 to R49, R53, R59 to R64). -/

namespace Sys2Proof.Machine

/-! ## Registers -/

/-- Lane l of vector register n. -/
def Group.vget (g : Group) (n l : Nat) : Word := Sparse.get g.v (32 * n + l)

/-- Scalar register n. -/
def Group.sget (g : Group) (n : Nat) : Word := Sparse.get g.sr n

/-- The pair vn:v(n+1) of a lane as 64 bits. -/
def Group.vpair (g : Group) (n l : Nat) : DWord := g.vget (n + 1) l ++ g.vget n l

/-- The pair sn:s(n+1) as 64 bits. -/
def Group.spair (g : Group) (n : Nat) : DWord := g.sget (n + 1) ++ g.sget n

/-- A write of vector register n clears the faulted mark of its pair (09 R204). -/
def Group.unmark (g : Group) (n : Nat) : Group := { g with marks := g.marks.filter (fun m => m.pair != n / 2) }

/-- Writes one lane of a vector register. -/
def Group.vset (g : Group) (n l : Nat) (x : Word) : Group :=
  { g with v := Sparse.set g.v (32 * n + l) x, marks := g.marks.filter (fun m => m.pair != n / 2) }

/-- Writes a scalar register. -/
def Group.sset (g : Group) (n : Nat) (x : Word) : Group := { g with sr := Sparse.set g.sr n x }

/-- Writes one register or a pair of a lane from 64 bits. -/
def Group.vsetN (g : Group) (n cnt l : Nat) (x : DWord) : Group :=
  let g := g.vset n l (x.setWidth 32)
  if cnt = 2 then g.vset (n + 1) l (x.extractLsb' 32 32) else g

/-- Writes a scalar register or pair from 64 bits. -/
def Group.ssetN (g : Group) (n cnt : Nat) (x : DWord) : Group :=
  let g := g.sset n (x.setWidth 32)
  if cnt = 2 then g.sset (n + 1) (x.extractLsb' 32 32) else g

/-- Lane mask of predicate n; p7 reads true (02 R36). -/
def Group.pget (g : Group) (n : Nat) : LaneMask := if n = 7 then 0xFFFFFFFF#32 else nth 0 g.preds n

/-- Writes the lanes of `m` of predicate n from `x`; a write to p7 is ignored (14 R304). -/
def Group.pset (g : Group) (n : Nat) (m x : LaneMask) : Group :=
  if n = 7 then g else { g with preds := setNth g.preds n ((nth 0 g.preds n &&& ~~~m) ||| (x &&& m)) }

/-- Mask register n. -/
def Group.mget (g : Group) (n : Nat) : LaneMask := nth 0 g.masks n

/-- Writes mask register n: absent and exited lanes stay clear (R59). -/
def Group.mset (g : Group) (n : Nat) (x : LaneMask) : Group := { g with masks := setNth g.masks n (x &&& g.live) }

/-- Marks registers empty: producers do so at issue (R56). -/
def Group.markEmpty (g : Group) (vs ss : List Nat) : Group :=
  { g with vEmpty := vs.foldl insNat g.vEmpty, sEmpty := ss.foldl insNat g.sEmpty
           marks := g.marks.filter (fun m => !vs.any (fun n => n / 2 = m.pair)) }

/-- Marks registers full. -/
def Group.markFull (g : Group) (vs ss : List Nat) : Group :=
  { g with vEmpty := g.vEmpty.filter (fun n => !vs.contains n), sEmpty := g.sEmpty.filter (fun n => !ss.contains n) }

/-- Whether a producer is pending on a vector or a scalar register. -/
def Group.vPending (g : Group) (n : Nat) : Bool := g.pend.any (fun p => p.vregs.contains n)
/-- As `vPending`, for a scalar register; SBRES and SBTAKE are producers while they wait (03 R56). -/
def Group.sPending (g : Group) (n : Nat) : Bool :=
  g.pend.any (fun p => p.sregs.contains n) || g.waits.any (fun w => match w.kind with
    | .sbres _ d => d = n
    | .sbtake _ d => d = n
    | _ => false)

/-! ## The table -/

/-- Whether an entry is parked. -/
def Entry.parked (e : Entry) : Bool := e.st = .join || e.st = .waitm

/-- Inserts an entry in ascending PC order; an unparked entry sorts before a parked one at its PC (R46). -/
def insEntry (e : Entry) : List Entry → List Entry
  | [] => [e]
  | x :: t =>
    if e.pc < x.pc || (e.pc = x.pc && !e.parked) then e :: x :: t else x :: insEntry e t

/-- Inserts READY lanes at a PC, merging with an unparked entry there: masks OR-ed, ST kept, DEF ANDed (R49). -/
def insReady (tab : List Entry) (pc : DWord) (mask : LaneMask) (df : Bool) : List Entry :=
  if tab.any (fun e => e.pc = pc && !e.parked) then
    updFirst (fun e => e.pc = pc && !e.parked) (fun e => { e with mask := e.mask ||| mask, df := e.df && df }) tab
  else insEntry ⟨pc, mask, .ready, 0, df, true⟩ tab

/-- Parks lanes at a PC, joining the parked entry there if any (R49). -/
def insParked (tab : List Entry) (pc : DWord) (mask : LaneMask) (st : EntrySt) (pm : BitVec 4) : List Entry :=
  if tab.any (fun e => e.pc = pc && e.parked) then
    updFirst (fun e => e.pc = pc && e.parked) (fun e => { e with mask := e.mask ||| mask }) tab
  else insEntry ⟨pc, mask, st, pm, false, true⟩ tab

/-- Removes lanes from every entry, and entries left without lanes. -/
def dropLanes (tab : List Entry) (mask : LaneMask) : List Entry :=
  (tab.map (fun e => { e with mask := e.mask &&& ~~~mask })).filter (fun e => e.mask != 0)

/-- A UWAIT entry whose mask is every live lane becomes READY (R64). -/
def wakeUniform (live : LaneMask) (tab : List Entry) : List Entry :=
  tab.map (fun e => if e.st = .uwait && e.mask = live then { e with st := .ready } else e)

/-- Releases the lanes of a mask that are parked with state st on mask register n, each to the word after its
parked entry's PC (R60). -/
def releaseLanes (tab : List Entry) (st : EntrySt) (n : BitVec 4) (lanes : LaneMask) : List Entry :=
  let here := tab.filter (fun e => e.st = st && e.pm = n && (e.mask &&& lanes) != 0)
  let kept := (tab.map (fun e => if e.st = st && e.pm = n then { e with mask := e.mask &&& ~~~lanes } else e)).filter
    (fun e => e.mask != 0)
  here.foldl (fun t e => insReady t (e.pc + 8) (e.mask &&& lanes) false) kept

/-- Lanes parked with state st on mask register n. -/
def parkedOn (tab : List Entry) (st : EntrySt) (n : BitVec 4) : LaneMask :=
  tab.foldl (fun m e => if e.st = st && e.pm = n then m ||| e.mask else m) 0

/-- Re-evaluates one mask register for one kind of park (R60). -/
def reevalOne (live : LaneMask) (masks : List LaneMask) (st : EntrySt) (tab : List Entry) (n : Nat) : List Entry :=
  let k := BitVec.ofNat 4 n
  let p := parkedOn tab st k
  let m := nth 0 masks n &&& live
  if p = 0 then tab
  else if m &&& ~~~p = 0 then releaseLanes tab st k p
  else releaseLanes tab st k (p &&& ~~~m)

/-- Re-evaluates every mask with parked lanes (R60). -/
def Group.reeval (g : Group) : Group :=
  let tab := (List.range 12).foldl (reevalOne g.live g.masks .join) g.tab
  let tab := (List.range 12).foldl (reevalOne g.live g.masks .waitm) tab
  { g with tab := wakeUniform g.live tab }

/-- Lanes exit: they leave the table, every mask and the live set, and parked masks are re-evaluated (R48, R59). -/
def Group.exitLanes (g : Group) (mask : LaneMask) : Group :=
  let live := g.live &&& ~~~mask
  Group.reeval { g with live := live, masks := g.masks.map (fun m => m &&& ~~~mask), tab := dropLanes g.tab mask
                        waits := (g.waits.map (fun w => { w with mask := w.mask &&& ~~~mask, act := w.act &&& ~~~mask })).filter (fun w => w.mask != 0) }

/-- The update of R48 after a word of the entry at `pc` with lanes `mask`, which was chosen with DEF = `df` at the start of
its run: its lanes go to their next PCs, and DEF bits clear as the choice requires; lanes that stay at `pc` (R72) are made from
the entry, so their DEF is 0. Lanes without a target stay removed (they exit elsewhere). -/
def Group.advance (g : Group) (pc : DWord) (mask : LaneMask) (df : Bool) (nxt : List (LaneMask × DWord)) : Group :=
  let tab := g.tab.filter (fun e => !(e.pc = pc && e.st = .ready))
  let rest := (g.tab.filter (fun e => e.pc = pc && e.st = .ready)).foldl (fun m e => m ||| (e.mask &&& ~~~mask)) 0
  let tab := if rest = 0 then tab else insReady tab pc rest false
  let tab := if df then tab else tab.map (fun e => { e with df := false })
  let tab := nxt.foldl (fun t m => if m.1 = 0 then t else insReady t m.2 m.1 false) tab
  { g with tab := wakeUniform g.live tab }

/-- What head selection finds (R47). -/
inductive Head where
  | entry (e : Entry)
  | nonuniform
  | none
  deriving DecidableEq, Repr

/-- The entry of lowest PC. -/
def lowest : List Entry → Option Entry
  | [] => none
  | e :: t => match lowest t with
    | none => some e
    | some x => some (if x.pc < e.pc then x else e)

/-- Whether an entry waits in WAITB and so lets other entries issue (19 R435). -/
def Group.waiting (g : Group) (e : Entry) : Bool :=
  g.waits.any (fun w => w.pc = e.pc && (match w.kind with
    | .waitb _ _ _ _ => true
    | _ => false))

/-- Head selection (R47, R65 case 2). -/
def Group.head (g : Group) : Head :=
  let ready := g.tab.filter (fun e => e.st = .ready)
  if ready.isEmpty then
    if g.tab.any (fun e => e.st = .uwait) then .nonuniform else .none
  else
    let elig := ready.filter (fun e => !g.waiting e)
    let pool := elig.filter (fun e => !e.df)
    match lowest (if pool.isEmpty then elig else pool) with
    | some e => .entry e
    | none => .none

/-- The lowest lane of a mask; 0 for none. -/
def lowLane (m : LaneMask) : Nat := (lanesOf m).head?.getD 0

end Sys2Proof.Machine
end

