-- ==== Sys2Proof/Machine/Ops.lean ====
section
/-! DEFINITION. The operations every lane word shares: reaching a party's registers, taking an exception, returning
from one, the checks before a meaning (spec 14 R313, 03 R57, R58, R64, R65, 09 R204), and the ways a word ends (03 R48,
R50, R71 to R73). -/

namespace Sys2Proof.Machine

/-! ## Reaching groups and blocks -/

/-- Whether a block holds the group of a handle. -/
def Block.holds (b : Block) (h : Handle) : Bool :=
  b.core = h.core && b.groups.any (fun g => g.part = h.part && g.slot = h.slot)

/-- The block that holds the group of a handle. -/
def State.blockOf (s : State) (h : Handle) : Option Block := s.blocks.find? (fun b => b.holds h)

/-- The block of a unique number. -/
def State.blockUid (s : State) (u : Nat) : Option Block := s.blocks.find? (fun b => b.uid = u)

/-- Changes the block of a unique number. -/
def State.updBlock (s : State) (u : Nat) (f : Block → Block) : State :=
  { s with blocks := updFirst (fun b => b.uid = u) f s.blocks }

/-- The launch of an identifier. -/
def State.launchOf (s : State) (id : Nat) : Option Launch := s.launches.find? (fun l => l.id = id)

/-- Changes a launch. -/
def State.updLaunch (s : State) (id : Nat) (f : Launch → Launch) : State :=
  { s with launches := updFirst (fun l => l.id = id) f s.launches }

/-- Product of a list. -/
def prod (l : List Nat) : Nat := l.foldl (fun a b => a * b) 1
/-- Sum of a list. -/
def sum (l : List Nat) : Nat := l.foldl (fun a b => a + b) 0

/-- Extents of the fields within a block, E1 to Ec (02 R21). -/
def Header.extB (h : Header) : List Nat := (h.ext.drop 1).take h.c
/-- Extents that number the blocks of a cluster set. -/
def Header.extK (h : Header) : List Nat := (h.ext.drop (h.c + 1)).take (h.k - h.c)
/-- Extents that number the cluster sets. -/
def Header.extS (h : Header) : List Nat := h.ext.drop (h.k + 1)
/-- Groups of a block. -/
def Header.groups (h : Header) : Nat := prod h.extB
/-- Blocks of a cluster set. -/
def Header.nblocks (h : Header) : Nat := prod h.extK
/-- Cluster sets of the launch. -/
def Header.sets (h : Header) : Nat := prod h.extS
/-- Lanes present in every group (02 R23). -/
def Header.lanes (h : Header) : Nat := nth 1 h.ext 0

/-- The header of a block's launch. -/
def State.hdrOfBlock (s : State) (b : Block) : Header := ((s.launchOf b.launch).map (fun l => l.hdr)).getD default

/-- The block of the issuing group, if a group issues. -/
def State.blockOfParty (s : State) : Party → Option Block
  | .group h => s.blockOf h
  | _ => none

/-- Whether a wave is the one in a wave context of a unit. -/
def Wave.is (w : Wave) (u : UnitId) (k : Nat) : Bool := w.unit = u && w.wslot = k

/-- The registers of a party. -/
def State.grp? (s : State) : Party → Option Group
  | .group h => (s.blockOf h).bind (fun b => b.groups.find? (fun g => g.part = h.part && g.slot = h.slot))
  | .wave u k => (s.potluck.waves.find? (fun w => w.is u k)).map (fun w => w.grp)
  | .ranger n => if n < s.rangers.length then some (nth Ranger.blank s.rangers n).grp else none

/-- Changes one group of a block. -/
def Block.setGroup (b : Block) (part slot : Nat) (g : Group) : Block :=
  { b with groups := updFirst (fun x => x.part = part && x.slot = slot) (fun _ => g) b.groups }

/-- Writes the registers of a party. -/
def State.setGrp (s : State) (p : Party) (g : Group) : State :=
  match p with
  | .group h => { s with blocks := updFirst (fun b => b.holds h) (fun b => b.setGroup h.part h.slot g) s.blocks }
  | .wave u k => { s with potluck.waves := updFirst (fun w => w.is u k) (fun w => { w with grp := g }) s.potluck.waves }
  | .ranger n => { s with rangers := setNth s.rangers n { nth Ranger.blank s.rangers n with grp := g } }

/-- The context table's entry of a context (13 R293). -/
def State.ctxOf (s : State) (c : Nat) : Ctx := lookD Ctx.blank s.ctxs c

/-- Changes the state held per context. -/
def State.updCtx (s : State) (c : Nat) (f : Ctx → Ctx) : State := { s with ctxs := put s.ctxs c (f (s.ctxOf c)) }

/-- The context a party acts in; a Ranger acts in none. -/
def State.ctxOfParty (s : State) : Party → Nat
  | .group h => ((s.blockOf h).map (fun b => (s.hdrOfBlock b).ctx)).getD 0
  | .wave u k => ((s.potluck.waves.find? (fun w => w.is u k)).map (fun w => w.ctx)).getD 0
  | .ranger _ => 0

/-- The core of a party, whose L1 it uses. -/
def partyCore : Party → Option Nat
  | .group h => some h.core
  | _ => none

/-- The die of a party. -/
def partyDie : Party → Nat
  | .group h => coreDie h.core
  | .wave u _ => u.die
  | .ranger n => if 4 ≤ n && n < 8 then 1 else 0

/-- The translation structures of a party (06 R140). -/
def partyTlb (p : Party) : TlbHome :=
  match p with
  | .group h => .core h.core
  | other => .die (partyDie other)

/-- The 16-bit handle word of a group, V set (12 R271). -/
def handleCode (h : Handle) : BitVec 16 := BitVec.ofNat 16 (0x8000 + h.core * 128 + h.slot * 4 + h.part)

/-- The handle a word names (12 R271). -/
def handleOf (w : Word) : Handle := { core := bits w.toNat 7 8, part := bits w.toNat 0 2, slot := bits w.toNat 2 5 }

/-! ## Taking an exception -/

/-- Trap causes by code (12 R267). -/
structure Cause where
  code : Nat
  level : Nat
  addr : DWord
  aux : DWord
  deriving DecidableEq, Repr

/-- A cause with nothing in ADDR and AUX. -/
def causeOf (code : Nat) : Cause := ⟨code, 0, 0, 0⟩

/-- Stops a group with a trap record, a release of its operations, and a place in its die's trap queue (12 R267 to
R269, 07 R166). -/
def State.trapGroup (s : State) (h : Handle) (c : Cause) (lanes : LaneMask) (pc word : DWord) : State :=
  match s.grp? (.group h) with
  | none => s
  | some g =>
    let die := coreDie h.core
    let s := s.release (some h.core) .device
    let rec_ : TrapRec :=
      { cause := BitVec.ofNat 8 c.code, level := BitVec.ofNat 3 c.level, fatal := c.code = 0x14 || c.code = 0x15
        ctx := BitVec.ofNat 8 (s.ctxOfParty (.group h)), lanes := lanes, pc := pc, addr := c.addr, aux := c.aux, word := word
        handle := handleCode h, seq := nth 0 s.plat.recSeq die, wid := nth 0 g.wids (lowLane lanes) }
    let s := s.setGrp (.group h) { g with trap := some rec_, stopped := true, stepping := false, run := none }
    { s with
      plat.recSeq := setNth s.plat.recSeq die (nth 0 s.plat.recSeq die + 1)
      plat.trapq := setNth s.plat.trapq die (nth [] s.plat.trapq die ++ [h]) }

/-- A trap on a Ranger stops it and is logged with its PC (12 R269). -/
def State.trapRanger (s : State) (n : Nat) (_c : Cause) (pc _word : DWord) : State :=
  let r := nth Ranger.blank s.rangers n
  let s := { s with rangers := setNth s.rangers n { r with running := false, grp := { r.grp with run := none } } }
  s.logPlain (partyDie (.ranger n)) 0x05 0 pc

/-- Faults of a method by trap cause (09 R459); 0x100 + c stands for the method cause c itself (09 R203). -/
def methodCause (code : Nat) : Nat :=
  if 0x100 ≤ code then code - 0x100
  else if [0x01, 0x02, 0x04, 0x0C].contains code then 0x02
  else if code = 0x05 then 0x06
  else if [0x06, 0x07, 0x08, 0x1A, 0x12, 0x0E, 0x15].contains code then 0x01
  else if [0x1B, 0x14].contains code then 0x09
  else 0x03

/-- The object of a header line bound at its unit (09 R193). -/
def State.boundAt (s : State) (pa : Nat) : Option Bound := s.potluck.bound.find? (fun o => o.hdrPa = pa)

/-- Changes a bound object. -/
def State.updBound (s : State) (pa : Nat) (f : Bound → Bound) : State :=
  { s with potluck.bound := updFirst (fun o => o.hdrPa = pa) f s.potluck.bound }

/-- Sends replies. -/
def State.reply (s : State) (l : List Reply) : State := { s with potluck.replies := s.potluck.replies ++ l }

/-- The fault replies to requests; a deferred request has no requester (09 R204, R208). -/
def refuse (rs : List Request) (cause : Nat) : List Reply :=
  rs.filterMap (fun r => r.dest.map (fun t => ⟨t, 0, some (BitVec.ofNat 8 cause), r.hdrVa, r.meth⟩))

/-- A fault in a method ends the batch (09 R203): the window is discarded, the header's STATUS, FAULTCOUNT and LASTFAULTPC
are written, the fault is logged, and the batch and the queue are refused. `pc` is 0 for a fault outside the code. -/
def State.methodFault (s : State) (u : UnitId) (k cause : Nat) (pc : DWord) : State :=
  match s.potluck.waves.find? (fun w => w.is u k) with
  | none => s
  | some w =>
    let s := { s with potluck.waves := s.potluck.waves.filter (fun x => !x.is u k) }
    let queue := ((s.boundAt w.hdrPa).map (fun o => o.queue)).getD []
    let s := s.updBound w.hdrPa (fun o => { o with faulted := true, queue := [] })
    let s := s.putHome (w.hdrPa + 0x13) 1 1
    let s := s.putHome (w.hdrPa + 0x14) 4 (s.homeRead (w.hdrPa + 0x14) 4 + 1)
    let s := s.putHome (w.hdrPa + 0x18) 8 pc.toNat
    let s := s.logErr u.die 0x08 w.ctx w.hdrVa (BitVec.ofNat 64 (cause + 256 * w.meth.toNat)) pc
    let s := match w.det with
      | some id => s.updLaunch id (fun l => { l with staged := l.staged.filter (fun e => match e.op with
          | .ocall _ hp _ _ _ => hp != w.hdrPa
          | _ => true) })
      | none => s
    s.reply (refuse w.reqs cause ++ refuse queue 0x10)

/-- Takes an exception for a party: a group's trap, a wave's method fault, or a stopped Ranger. -/
def State.raise (s : State) (p : Party) (c : Cause) (lanes : LaneMask) (pc word : DWord) : State :=
  match p with
  | .group h => s.trapGroup h c lanes pc word
  | .wave u k => s.methodFault u k (methodCause c.code) pc
  | .ranger n => s.trapRanger n c pc word

/-! ## A word being issued -/

/-- A word at issue: the issuing party's facts, its registers before the word, and the lanes that perform it (R333). -/
structure Issue where
  party : Party
  pc : DWord
  /-- Lanes of the issuing entry. -/
  mask : LaneMask
  df : Bool
  word : DWord
  b : Bool
  op : Nat
  g : Group
  active : LaneMask
  ctx : Nat
  deriving Repr

/-- The lanes that perform the word, ascending. -/
def Issue.lanes (x : Issue) : List Nat := lanesOf x.active

/-- Lanes of a party's guard (R302). -/
def guardLanes (g : Group) (code : BitVec 4) (mask : LaneMask) : LaneMask :=
  let p := g.pget (code.extractLsb' 0 3).toNat
  mask &&& (if code.getLsbD 3 then ~~~p else p)

/-- A word whose access waits for an engine, a batch or a result in flight stays where it is, and its run with it: R50 ends a run at no
such wait. `cur` is cleared, which tells `step` that no word was issued. -/
def hold (s : State) : State := { s with cur := none }

/-- Ends a run without issuing the word: the word blocks and is issued again (03 R50, R57). `cur` is cleared, which
tells `step` that no word was issued. -/
def stall (x : Issue) (s : State) : State :=
  { s.setGrp x.party { x.g with run := none } with cur := none }

/-- Whether a word ends its run whatever it did: B, or a control word; a branch that no executing lane takes does not
(03 R50). -/
def Issue.last (x : Issue) : Bool := x.b || (isControl x.op && !(isBranch x.op && x.active = 0))

/-- Ends a word (03 R48, R50): the executing lanes go to their next PCs, and the run goes on unless the word ends it. -/
def endWord (x : Issue) (g : Group) (nxt : List (LaneMask × DWord)) (taken : Bool) (s : State) : State :=
  let words := (x.g.run.map (fun r => r.words)).getD 0 + 1
  let g1 := g.advance x.pc x.mask x.df nxt
  if x.last || decide (24 ≤ words) || taken then s.setGrp x.party { g1 with run := none }
  else s.setGrp x.party { g1 with run := x.g.run.map (fun r => { r with words := words, pc := x.pc + 8 }) }

/-- Every executing lane goes to the next word, with the group as given. -/
def retire (x : Issue) (g : Group) (s : State) : State := endWord x g [(x.mask, x.pc + 8)] false s

/-- A trap of every lane in `lanes`, at the trapping word; the other executing lanes have completed it (03 R71, R72). -/
def trapWord (x : Issue) (c : Cause) (lanes : LaneMask) (s : State) : State :=
  let s := s.setGrp x.party
    { (x.g.advance x.pc (x.mask &&& ~~~lanes) x.df [(x.mask &&& ~~~lanes, x.pc + 8)]) with run := none }
  s.raise x.party c lanes x.pc x.word

/-- A per-lane cause met by one lane. -/
structure LaneFault where
  lane : Nat
  cause : Cause
  deriving DecidableEq, Repr

/-- The cause a record names: the lowest code, and the lowest lane with it (03 R71). Faults come in lane order. -/
def pickFault : List LaneFault → Option LaneFault
  | [] => none
  | f :: t => match pickFault t with
    | none => some f
    | some y => some (if f.cause.code ≤ y.cause.code then f else y)

/-- Ends a word whose lanes met per-lane causes: lanes without one have completed it and advance; the trap names the
others (03 R71 to R73). With no fault the word retires. -/
def finishLanes (x : Issue) (g : Group) (faults : List LaneFault) (s : State) : State :=
  match pickFault faults with
  | none => retire x g s
  | some f =>
    let lanes := maskOf (faults.map (fun y => y.lane))
    let done := x.mask &&& ~~~lanes
    let s := s.setGrp x.party { (g.advance x.pc done x.df [(done, x.pc + 8)]) with run := none }
    s.raise x.party f.cause lanes x.pc x.word

/-- Issues a producer (03 R56): its registers go empty and its values wait for PRODUCER_COMPLETE. -/
def Group.issue (g : Group) (p : Producer) : Group :=
  { g.markEmpty p.vregs p.sregs with pend := g.pend ++ [p] }

/-- A producer with nothing in it. -/
def Producer.mk0 (id : Nat) (kind : ProdKind) : Producer :=
  { id := id, kind := kind, vregs := [], sregs := [], vwrites := [], vmask := [], swrites := [], fp := 0, mx := 0
    fills := true, lanes := 0, header := none, site := none }

/-- A producer completes: its values reach the registers of lanes that still live, its flags are set, and its
registers become full (03 R56, R73, 04 R89). -/
def Group.complete (g : Group) (p : Producer) : Group :=
  let g := p.vmask.foldl (fun g nm => (lanesOf (nm.2 &&& g.live)).foldl
    (fun g l => { g with v := Sparse.set g.v (32 * nm.1 + l) (Sparse.get p.vwrites (32 * nm.1 + l)) }) g) g
  let g := p.swrites.foldl (fun g kv => g.sset kv.1 kv.2) g
  let g := { g with pend := g.pend.filter (fun q => q.id != p.id), fpflags := g.fpflags ||| p.fp, mxflags := g.mxflags ||| p.mx }
  if p.fills then g.markFull p.vregs p.sregs else g

/-! ## The checks before a meaning -/

/-- Registers an operand names. -/
def Opnd.regs (o : Opnd) : List Nat := (List.range o.cnt).map (fun i => o.n + i)

/-- An empty register among an operand's. -/
def Group.emptyReg (g : Group) (o : Opnd) : Option Nat :=
  match o.kind with
  | .vec => o.regs.find? (fun n => g.vEmpty.contains n)
  | .sca => o.regs.find? (fun n => g.sEmpty.contains n)
  | _ => none

/-- What a decode check of the operands raises (R313): REGRANGE. -/
def rangeFault (g : Group) (ops : List Opnd) : Option Cause :=
  ops.findSome? (fun o =>
    match o.kind with
    | .vec => if g.alloc < o.n + o.cnt then
        some ⟨0x02, 0, 0, BitVec.ofNat 64 (if o.n < g.alloc then g.alloc else o.n)⟩ else none
    | .tile => if g.acct ≤ o.n then some ⟨0x02, 0, 0, BitVec.ofNat 64 (o.n + 1024)⟩ else none
    | _ => none)

/-- SBFAULT of a slot-buffer field at or above SBUFS (14 R304, 19 R420): it follows the guard. -/
def bufFault (sbufs : Nat) (ops : List Opnd) : Option Cause :=
  (ops.find? (fun o => o.kind = .sbuf && sbufs ≤ o.n)).map (fun o => ⟨0x11, 0, 0, BitVec.ofNat 64 o.n⟩)

/-- What the full/empty bits say of a word (R57, R58): it goes on, blocks, or raises EMPTYREAD. -/
inductive Ready where
  | go
  | wait
  | trap (c : Cause)
  deriving DecidableEq, Repr

/-- R57, then R58: EMPTYREAD for an empty source with its T bit set, waiting for one with the bit clear, then waiting
for a destination that a pending producer has left empty. -/
def readiness (g : Group) (ops : List Opnd) : Ready :=
  match ops.find? (fun o => o.src && o.t && (g.emptyReg o).isSome) with
  | some o => .trap ⟨0x04, 0, 0, BitVec.ofNat 64 ((g.emptyReg o).getD 0 + (if o.kind = .sca then 512 else 0))⟩
  | none =>
    if ops.any (fun o => o.src && (g.emptyReg o).isSome) then .wait
    else if ops.any (fun o => o.dst && (g.emptyReg o).isSome && (match o.kind with
      | .vec => o.regs.any g.vPending
      | .sca => o.regs.any g.sPending
      | _ => false)) then .wait
    else .go

/-- COMBFAULT of a word that reads one of some vector registers while it is faulted (09 R204). Of several faulted pairs, which one the
record names the spec does not say: the oldest mark (DESIGN CHOICE, log entry 86). -/
def regFault (g : Group) (regs : List Nat) : Option Cause :=
  (g.marks.find? (fun m => regs.any (fun n => n / 2 = m.pair))).map
    (fun m => ⟨0x0D, 0, m.obj, BitVec.ofNat 64 (m.cause.toNat + 256 * m.meth.toNat)⟩)

/-- COMBFAULT of a word that reads a faulted register pair (09 R204). -/
def markFault (g : Group) (ops : List Opnd) : Option Cause :=
  regFault g ((ops.filter (fun o => o.src && o.kind = .vec)).map (fun o => o.regs)).flatten

/-- The role's code (02 R24). -/
def Role.code : Role → Nat
  | .any => 0
  | .copy => 1
  | .matrix => 2
  | .vector => 3

/-- Whether a role may issue an opcode (02 R26). -/
def Role.may (r : Role) (op : Nat) : Bool :=
  if 0x80 ≤ op && op ≤ 0x83 then r = .any || r = .copy
  else if 0x91 ≤ op && op ≤ 0x94 then r = .any || r = .matrix
  else true

/-- Whether a word is an illegal encoding for a party: a wave's word on a group (09 R199), an excluded word or private
address mode on a Ranger (15 R324), the regrouping table's words on a wave (18 R417). -/
def partyIllegal (p : Party) (i : Instr) (op : Nat) : Bool :=
  match p with
  | .group _ => waveOnly op
  | .ranger _ => rangerExcluded op || usesPrivate i
  | .wave _ _ => op = 0x4D || op = 0x4E

/-- Whether a party is a combiner wave that may not perform a word (09 R198, R459). -/
def partyForbids (p : Party) (i : Instr) (op : Nat) : Bool :=
  match p with
  | .wave _ _ => waveForbidden op || waveLacks i op
  | _ => false

/-- The lanes that a trap of the decode checks names (14 R313, 03 R71): the live lanes for a uniform word, the active ones for WAITB and
the words of slot buffers (19 R420, R435), where there are any, and else every lane of the entry. -/
def decodeLanes (g : Group) (op : Nat) (active mask : LaneMask) : LaneMask :=
  if isUniform op then g.live else if 0x61 ≤ op && op ≤ 0x65 && active != 0 then active else mask

/-- Slot buffers of a party's block. -/
def State.sbufsOf (s : State) : Party → Nat
  | .group h => ((s.blockOf h).map (fun b => b.sbufs.length)).getD 0
  | _ => 0

/-- ROLEFAULT of a word (02 R26). -/
def roleFault (x : Issue) : Cause := ⟨0x03, 0, 0, BitVec.ofNat 64 x.g.role.code⟩

/-- Causes of a word that its guard lets perform and that do not look at its registers' contents: ROLEFAULT, and SBFAULT of
a buffer number (02 R26, 14 R304). -/
def entryFault (x : Issue) (ops : List Opnd) (s : State) : Option Cause :=
  if !x.g.role.may x.op then some (roleFault x)
  else bufFault (s.sbufsOf x.party) ops

/-- The checks of a word that performs, then the meaning (R313, R57, R58, R204). -/
def checkedOps (x : Issue) (ops : List Opnd) (body : Issue → State → State) (s : State) : State :=
  match entryFault x ops s with
  | some c => trapWord x c x.active s
  | none => match readiness x.g ops with
  | .trap c => trapWord x c x.active s
  | .wait => stall x s
  | .go => match markFault x.g ops with
    | some c => trapWord x c x.active s
    | none => body x s

/-- Whether the meaning of an opcode looks at its registers itself: a dual word, PREF, OABORT and OCOMMIT. -/
def looksItself (op : Nat) : Bool := op = 0x100 || op = 0x57 || op = 0xB4 || op = 0xB5

/-- A word that waits for lanes of its party that have not arrived: it has not issued, and its entry becomes UWAIT (03 R64, 09 R200). -/
def awaitLanes (x : Issue) (s : State) : State :=
  let g := { x.g with tab := x.g.tab.map (fun (e : Entry) => if e.pc = x.pc && e.st = EntrySt.ready then { e with st := .uwait } else e) }
  { s.setGrp x.party { g with run := none } with cur := s.cur.map (fun c => { c with mask := 0 }) }

/-- Uniform words (R64, R65): all live lanes together, one guard value. The role is looked at before uniformity (08 R175, 16 R337,
16 R346, 19 R429); a word that waits for its lanes has not issued, and one that no lane performs raises neither. R48 clears DEF for a run
whose last word issued; a run that ends at a word which waits before any word of it issued leaves every DEF bit (DESIGN CHOICE, log entry
79). -/
def uniformWord (x : Issue) (ops : List Opnd) (body : Issue → State → State) (s : State) : State :=
  let roleless : Bool := x.active != 0 && !x.g.role.may x.op
  if x.g.live != x.g.present then trapWord x (if roleless then roleFault x else ⟨0x0C, 0, 0, 1⟩) x.g.live s
  else if x.mask != x.g.live then awaitLanes x s
  else if x.active = 0 then retire x x.g s
  else if roleless then trapWord x (roleFault x) x.g.live s
  else if x.active != x.g.live then trapWord x ⟨0x0C, 0, 0, 3⟩ x.g.live s
  else checkedOps x ops body s

/-- Every check before a meaning, in order, then the meaning: ILLOP and REGRANGE whatever the guard (R313; FORBID comes before REGRANGE
where a wave lacks what the word reaches, 09 R459), the uniform
rules (R64, R65), the guard (R302, R333), and what `checkedOps` looks at. PREF never traps beyond R313 (18 R414): it looks at
its lanes' registers itself; so do OCOMMIT and OABORT, once they have waited for every lane (09 R200). -/
def issueWord (i : Instr) (hd : Hdr) (c : Cur) (g : Group) (body : Issue → State → State) (s : State) : State :=
  let sp := specOf i
  let x : Issue :=
    { party := c.party, pc := c.pc, mask := c.mask, df := c.df, word := c.word, b := hd.b, op := hd.op, g := g
      active := if hd.op = 0x100 then c.mask else guardLanes g hd.g c.mask, ctx := s.ctxOfParty c.party }
  let all := decodeLanes g hd.op x.active c.mask
  if !sp.ok || partyIllegal c.party i hd.op then trapWord x (causeOf 0x01) all s
  else if partyForbids c.party i hd.op && waveLacks i hd.op && x.active != 0 then trapWord x (causeOf 0x103) x.active s
  else match rangeFault g sp.ops with
    | some cs => trapWord x cs all s
    | none =>
      if partyForbids c.party i hd.op && x.active != 0 then trapWord x (causeOf 0x103) x.active s
      else if isUniform hd.op then uniformWord x sp.ops body s
      else if x.active = 0 then retire x g s
      else if looksItself hd.op then body x s
      else checkedOps x sp.ops body s

/-- The meaning of a lane word: nothing without an issuing party; otherwise the checks, then `body`. -/
def laneWord (i : Instr) (body : Issue → State → State) (s : State) : Host.Outcome State Fault Refusal :=
  match s.cur, hdrOf i with
  | some c, some hd =>
    match s.grp? c.party with
    | some g => .next (issueWord i hd c g body s)
    | none => .fault .noIssuer
  | _, _ => .fault .noIssuer

/-! ## Exits -/

/-- A group's name in a gang list (08 R178): block number and group index. -/
def gangName (b : Block) (g : Group) : Nat := 128 * b.j + g.index

/-- A role by its code (02 R24). -/
def roleOf (n : Nat) : Role :=
  match n with
  | 0 => .any
  | 1 => .copy
  | 2 => .matrix
  | _ => .vector

/-- Role of group index i. -/
def Header.role (h : Header) (i : Nat) : Role := roleOf (bits h.roles.toNat (2 * i) 2)

/-- The waiting groups of a cluster set that a test selects take GANGFAULT and leave the latch (08 R180). -/
def State.gangFaultBy (s : State) (b : Block) (sel : Block → Group → Bool) (code : Nat) : State :=
  let fam := s.blocks.filter (fun y => y.launch = b.launch && y.cset = b.cset)
  let hit := (fam.map (fun y => (y.groups.filter (fun q => q.latch.isSome && sel y q)).map (fun q => (y, q)))).flatten
  hit.foldl (fun s yq =>
    let h : Handle := { core := yq.1.core, part := yq.2.part, slot := yq.2.slot }
    match s.grp? (.group h), yq.2.latch with
    | some q, some lt =>
      (s.setGrp (.group h) { q with latch := none }).trapGroup h ⟨0x0B, 0, 0, BitVec.ofNat 64 code⟩ q.live lt.pc lt.word
    | _, _ => s) s

/-- GANGFAULT of every waiting member of a gang that names a group (08 R180). -/
def State.gangFault (s : State) (b : Block) (g : Group) (code : Nat) : State :=
  s.gangFaultBy b (fun y q => q.gang.contains (gangName b g) && gangName y q != gangName b g) code

/-- Ends a block whose every lane has exited: its slots, records and scratchpad return (02 R43, 05 R106, 03 R68). -/
def State.endBlock (s : State) (b : Block) : State :=
  let c := (s.hdrOfBlock b).ctx
  let mine := b.privSlots.map (fun p => p.2)
  let s := s.updCtx c (fun k => { k with slotsTaken := k.slotsTaken.filter (fun n => !mine.contains n) })
  let rest := s.blocks.filter (fun y => y.uid != b.uid)
  { s with
    blocks := rest
    sched.records := s.sched.records.filter (fun r => r.2.blk != b.uid)
    sched.splits := if rest.any (fun y => y.core = b.core) then s.sched.splits else del s.sched.splits b.core }

/-- What follows the exit of lanes of a group (02 R29, R43, 17 R364, R365): its last lane returns its allocation,
withdraws its claim and discards its tiles and generators; gang members in the latch fault; a block without live
lanes ends. -/
def State.afterExit (s : State) (h : Handle) : State :=
  match s.blockOf h, s.grp? (.group h) with
  | some b, some g =>
    let s := s.gangFault b g 3
    if g.live != 0 then s
    else
      let s := s.setGrp (.group h) { g with tab := [], tiles := [], gens := List.replicate 8 0, alloc := 0, waits := [], latch := none
                                            stopReq := false, run := none }
      let s := s.updBlock b.uid (fun b => { b with free := b.free + g.alloc, claims := b.claims.filter (fun c => c.gix != g.index) })
      match s.blockUid b.uid with
      | some b => if b.groups.all (fun q => q.live = 0) then s.endBlock b else s
      | none => s
  | _, _ => s

/-! ## Return from an exception (12 R275) -/

/-- Whether some live lane stands in two valid entries. -/
def twice (live : LaneMask) : List Entry → Bool
  | [] => false
  | e :: t => (e.valid && t.any (fun x => x.valid && (x.mask &&& e.mask &&& live) != 0)) || twice live t

/-- The table rebuilt from valid entries: sorted, merged (R49), empty masks dropped. -/
def rebuild (live : LaneMask) (tab : List Entry) : List Entry :=
  (tab.filter (fun e => e.valid && (e.mask &&& live) != 0)).foldl (fun (t : List Entry) (e : Entry) =>
    let m := e.mask &&& live
    match e.st with
    | .join => insParked t e.pc m .join e.pm
    | .waitm => insParked t e.pc m .waitm e.pm
    | .ready => insReady t e.pc m e.df
    | .uwait => if t.any (fun x => x.pc = e.pc && !x.parked) then insReady t e.pc m e.df
        else insEntry { e with mask := m } t) []

/-- Scalar destinations of slot waits, which are full again when the wait is saved or dropped (12 R278). -/
def Group.slotDsts (g : Group) : List Nat :=
  g.waits.filterMap (fun w => match w.kind with
    | .sbres _ d => some d
    | .sbtake _ d => some d
    | _ => none)

/-- Drops every wait: the waiting words are not issued and reissue later (12 R278). A claim stays in its block's queue, also where the
group is resumed past its RCLAIM, of which the spec does not speak (DESIGN CHOICE, log entry 84). -/
def Group.dropWaits (g : Group) : Group := { g.markFull [] g.slotDsts with waits := [] }

/-- The resumption steps of TRAPRET: lanes of a TRAPCODE or BKPT record move to the next word, live lanes in no valid
entry exit, the table is rebuilt, masks are re-evaluated, the record clears (12 R275). -/
def Group.resume (g : Group) : Group :=
  let g := g.dropWaits
  let tab := g.tab.filter (fun e => e.valid)
  let tab := match g.trap with
    | some r => if r.cause = 0x17#8 || r.cause = 0x16#8 then
        (tab.map (fun e => if e.pc = r.pc then
          [{ e with mask := e.mask &&& ~~~r.lanes }, { e with pc := r.pc + 8, mask := e.mask &&& r.lanes }] else [e])).flatten
      else tab
    | none => tab
  let seen := tab.foldl (fun m e => m ||| e.mask) 0
  let gone := g.live &&& ~~~seen
  let live := g.live &&& ~~~gone
  Group.reeval { g with live := live, masks := g.masks.map (fun m => m &&& ~~~gone), tab := wakeUniform live (rebuild live tab)
                        trap := none, stopped := false, stopReq := false, run := none, latch := none }

/-- TRAPRET of a stopped group that passes the checks of R275, with the Ranger's earlier operations acquired (07 R166). -/
def State.resumeGroup (s : State) (h : Handle) : State :=
  match s.grp? (.group h) with
  | none => s
  | some g =>
    let g' := g.resume
    let s := (s.setGrp (.group h) g').acquire (some h.core) .device
    if g'.live = g.live then s else s.afterExit h

end Sys2Proof.Machine
end

