-- ==== Sys2Proof/Machine/Bar0.lean ====
section
/-! DEFINITION. The register space of BAR0, reached by the host and, through the device MMIO range, by Rangers (spec 13
R289, R291 to R293, R299, R300). Accesses are made in naturally aligned words of 4 bytes. -/

namespace Sys2Proof.Machine

/-- A mailbox. -/
def State.mb (s : State) (n : Nat) : Mailbox := lookD Mailbox.blank s.plat.mailboxes n

/-- Replaces a mailbox. -/
def State.setMb (s : State) (n : Nat) (m : Mailbox) : State :=
  { s with plat.mailboxes := put s.plat.mailboxes n m }

/-- State of a mailbox slot. -/
def Mailbox.slot (m : Mailbox) (k : Nat) : MbSlot := lookD .free m.slots k

/-- MBSTAT (13 R291). -/
def Mailbox.stat (m : Mailbox) : Word :=
  let full := (List.range 256).all (fun k => m.slot k != .free)
  BitVec.ofNat 32 (m.dptr + 256 * m.cptr + 65536 * m.rptr + (if full then 2 ^ 24 else 0) + (if m.en then 2 ^ 31 else 0))

/-- A read of RESERVE (13 R292). -/
def State.mbReserveOp (s : State) (n : Nat) : State × Word :=
  let m := s.mb n
  if m.en && m.slot m.rptr = .free then
    (s.setMb n { m with slots := put m.slots m.rptr .reserved, rptr := (m.rptr + 1) % 256 }, BitVec.ofNat 32 m.rptr)
  else (s, 0xFFFFFFFF)

/-- A write of COMMIT (13 R292). -/
def State.mbCommitOp (s : State) (n : Nat) (v : Word) : State :=
  let m := s.mb n
  if bits v.toNat 8 23 = 0 && v.toNat % 256 = m.cptr && m.slot m.cptr = .reserved then
    s.setMb n { m with slots := put m.slots m.cptr (if v.getLsbD 31 then .cancelled else .committed)
                       cptr := (m.cptr + 1) % 256 }
  else s.logPlain 0 0x03 m.ctx (BitVec.ofNat 64 (0x1000 * n + 8))

/-- A host or Ranger write into a launch slot: ignored and logged unless the slot is RESERVED (13 R292). -/
def State.slotWriteOp (s : State) (off : Nat) (data : List Byte) : State :=
  let o := off - 0x400000
  let n := o / 0x8000
  let k := o % 0x8000 / 0x80
  let m := s.mb n
  if m.slot k = .reserved then
    let d := Sparse.setAll m.data (((List.range data.length).zip data).map (fun b => (o % 0x8000 + b.1, b.2)))
    s.setMb n { m with data := d }
  else s.logPlain 0 0x03 m.ctx (BitVec.ofNat 64 off)

/-- A 32-bit word of an error-log entry (13 R299). -/
def LogEntry.word (e : LogEntry) (i : Nat) : Word :=
  match i with
  | 0 => BitVec.ofNat 32 (e.ty.toNat + 256 * e.ctx.toNat)
  | 1 => e.seq
  | 2 => e.addr.setWidth 32
  | 3 => e.addr.extractLsb' 32 32
  | 4 => e.aux0.setWidth 32
  | 5 => e.aux0.extractLsb' 32 32
  | 6 => e.aux1.setWidth 32
  | _ => e.aux1.extractLsb' 32 32

/-- A word of a die's error-log window, by offset in the window; none where it is unpopulated. -/
def ErrLog.word (lg : ErrLog) (o : Nat) : Option Word :=
  if o = 0 then some lg.head
  else if o = 4 then some lg.tail
  else if o = 8 then some lg.lost
  else if o = 0xC then some 0
  else if 0x40 ≤ o && o < 0x40 + 64 * 32 then
    some (match look? lg.entries ((o - 0x40) / 32) with
      | some e => e.word ((o - 0x40) % 32 / 4)
      | none => 0)
  else none

/-- Whether an offset of BAR0 is populated (13 R289, R299), and answers after a failed boot (13 R296). -/
def State.bar0Populated (s : State) (off : Nat) : Bool :=
  let lg := 0x110000 ≤ off && off < 0x120000 && ((nth ErrLog.blank s.plat.logs 0).word (off % 0x8000 / 4 * 4)).isSome
  if s.plat.bootFailed then lg || (0x100058 ≤ off && off < 0x10005C)
  else lg || off < 0x110000 || (0x120000 ≤ off && off < 0x130000) || (0x400000 ≤ off && off < 0xC00000)

/-- A management register's word (13 R293). -/
def State.mgRead (s : State) (o : Nat) : Word :=
  let p := s.plat
  if o = 0 then p.mgcmd
  else if o = 4 then p.mgstat
  else if 0x10 ≤ o && o < 0x30 then (nth 0 p.mgargs ((o - 0x10) / 8)).extractLsb' (if o % 8 = 0 then 0 else 32) 32
  else if o = 0x40 then p.b2win.setWidth 32
  else if o = 0x44 then p.b2win.extractLsb' 32 32
  else if o = 0x48 then p.errvec
  else if o = 0x50 then p.sagcnt.setWidth 32
  else if o = 0x54 then p.sagcnt.extractLsb' 32 32
  else if o = 0x58 then p.bootstat
  else 0

/-- Replaces the low or the high half of a 64-bit register. -/
def setHalf (x : DWord) (high : Bool) (v : Word) : DWord :=
  if high then v ++ x.setWidth 32 else x.extractLsb' 32 32 ++ v

/-- A write of a management register (13 R293): MGCMD starts a command unless one runs. -/
def State.mgWrite (s : State) (o : Nat) (v : Word) : State :=
  let p := s.plat
  if o = 0 then (if p.mgstat = 1 then s else { s with plat.mgcmd := v, plat.mgstat := 1 })
  else if 0x10 ≤ o && o < 0x30 then
    { s with plat.mgargs := setNth p.mgargs ((o - 0x10) / 8) (setHalf (nth 0 p.mgargs ((o - 0x10) / 8)) (o % 8 = 4) v) }
  else if o = 0x40 then { s with plat.b2win := setHalf p.b2win false v }
  else if o = 0x44 then { s with plat.b2win := setHalf p.b2win true v }
  else if o = 0x48 then { s with plat.errvec := v &&& 0x7FF#32 }
  else s

/-- A read of an aligned word of BAR0. -/
def State.reg32Read (s : State) (off : Nat) : State × Word :=
  if off < 0x100000 then
    let n := off / 0x1000
    let o := off % 0x1000
    if o = 0 then s.mbReserveOp n else if o = 0x10 then (s, (s.mb n).stat) else (s, 0)
  else if off < 0x110000 then (s, s.mgRead (off - 0x100000))
  else if off < 0x120000 then
    (s, ((nth ErrLog.blank s.plat.logs (if off < 0x118000 then 0 else 1)).word (off % 0x8000)).getD 0)
  else if off < 0x128000 then
    (s, BitVec.ofNat 32 (ofBytes ((List.range 4).map (fun i => s.msixByte (off - 0x120000 + i)))))
  else if off < 0x130000 then
    (s, BitVec.ofNat 32 (ofBytes ((List.range 4).map (fun i => Sparse.get s.plat.pba (off - 0x128000 + i)))))
  else
    let o := off - 0x400000
    (s, BitVec.ofNat 32 (ofBytes ((List.range 4).map (fun i => Sparse.get (s.mb (o / 0x8000)).data (o % 0x8000 + i)))))

/-- A write of TAIL (13 R299). -/
def State.logTailOp (s : State) (die : Nat) (v : Word) : State :=
  let lg := nth ErrLog.blank s.plat.logs die
  if 64 < (lg.head - v).toNat then s else { s with plat.logs := setNth s.plat.logs die { lg with tail := v } }

/-- A write into the MSI-X table; unmasking a pending vector sends it (13 R289). -/
def State.msixWrite (s : State) (o : Nat) (v : Word) : State :=
  let t := Sparse.setAll s.plat.msixTable (((List.range 4).zip (toBytes 4 v.toNat)).map (fun b => (o + b.1, b.2 ^^^ msixReset (o + b.1))))
  let s := { s with plat.msixTable := t }
  let k := o / 16
  let b := Sparse.get s.plat.pba (k / 8)
  if o % 16 = 12 && !v.getLsbD 0 && b.getLsbD (k % 8) then
    State.emit { s with plat.pba := Sparse.set s.plat.pba (k / 8) (b &&& ~~~(1#8 <<< (k % 8))) } (.msix k)
  else s

/-- A write of an aligned word of BAR0. -/
def State.reg32Write (s : State) (off : Nat) (v : Word) : State :=
  if off < 0x100000 then (if off % 0x1000 = 8 then s.mbCommitOp (off / 0x1000) v else s)
  else if off < 0x110000 then s.mgWrite (off - 0x100000) v
  else if off < 0x120000 then (if off % 0x8000 = 4 then s.logTailOp (if off < 0x118000 then 0 else 1) v else s)
  else if off < 0x128000 then s.msixWrite (off - 0x120000) v
  else if off < 0x130000 then s
  else s.slotWriteOp off (toBytes 4 v.toNat)

/-- A read of 4 or 8 aligned bytes of BAR0; none where it is unpopulated. -/
def State.bar0Read (s : State) (off n : Nat) : Option (State × Nat) :=
  if (n = 4 || n = 8) && off % n = 0 && s.bar0Populated off then
    let (s, lo) := s.reg32Read off
    if n = 4 then some (s, lo.toNat)
    else
      let (s, hi) := s.reg32Read (off + 4)
      some (s, lo.toNat + 2 ^ 32 * hi.toNat)
  else none

/-- A write of 4 or 8 aligned bytes of BAR0; none where it is unpopulated. -/
def State.bar0Write (s : State) (off n x : Nat) : Option State :=
  if (n = 4 || n = 8) && off % n = 0 && s.bar0Populated off then
    if 0x400000 ≤ off then some (s.slotWriteOp off (toBytes n x))
    else
      let s := s.reg32Write off (BitVec.ofNat 32 x)
      some (if n = 8 then s.reg32Write (off + 4) (BitVec.ofNat 32 (x >>> 32)) else s)
  else none

end Sys2Proof.Machine
end

