-- ==== Sys2Proof/Machine/Numbers.lean ====
section
/-! DEFINITION. Numbers (spec 04): formats and their values, rounding, flags, conversions, vector arithmetic, the
K-block rule, reductions, and the constants of FEXP2 and FLOG2. Finite values are exact: a sign, a magnitude and a
power of two, rounded once. -/

namespace Sys2Proof.Machine

/-! ## Flags (R88) -/

/-- Sticky flags of a result, in the layout of SYS.FPFLAGS (R88). -/
abbrev Flags := BitVec 8

/-- Invalid. -/
def fNV : Flags := 1
/-- Division by zero. -/
def fDZ : Flags := 2
/-- Overflow. -/
def fOF : Flags := 4
/-- Underflow. -/
def fUF : Flags := 8
/-- Inexact. -/
def fNX : Flags := 16
/-- Clamp or integer overflow. -/
def fIOV : Flags := 32
/-- Misplaced I4O marker. -/
def fFMT : Flags := 64
/-- A K-block alignment dropped bits. -/
def fALN : Flags := 128

/-- Flags under a condition. -/
def fif (c : Bool) (f : Flags) : Flags := if c then f else 0

/-! ## Formats (R74 to R79) -/

/-- A floating-point format: fraction bits, exponent bits, bias, whether it has infinities and NaNs, its largest
finite code and its canonical NaN. -/
structure Fmt where
  frac : Nat
  exp : Nat
  bias : Int
  inf : Bool
  nan : Bool
  maxFin : Nat
  qnan : Nat
  deriving DecidableEq, Repr

/-- FP32 (R76). -/
def fp32 : Fmt := ⟨23, 8, 127, true, true, 0x7F7FFFFF, 0x7FC00000⟩
/-- FP16 (R76). -/
def fp16 : Fmt := ⟨10, 5, 15, true, true, 0x7BFF, 0x7E00⟩
/-- BF16 (R76). -/
def bf16 : Fmt := ⟨7, 8, 127, true, true, 0x7F7F, 0x7FC0⟩
/-- E4M3 (R77). -/
def e4m3 : Fmt := ⟨3, 4, 7, false, true, 0x7E, 0x7F⟩
/-- E5M2 (R78). -/
def e5m2 : Fmt := ⟨2, 5, 15, true, true, 0x7B, 0x7E⟩
/-- E2M1 (R79). -/
def e2m1 : Fmt := ⟨1, 2, 1, false, false, 7, 0⟩

/-- Width of a format in bits. -/
def Fmt.width (f : Fmt) : Nat := 1 + f.exp + f.frac

/-- A floating-point value: a NaN (signalling or not), an infinity, or (−1)^neg × m × 2^e. -/
inductive FV where
  | nan (signalling : Bool)
  | inf (neg : Bool)
  | fin (neg : Bool) (m : Nat) (e : Int)
  deriving DecidableEq, Repr, Inhabited

/-- The value of a code of a format (R76 to R79, R87). -/
def Fmt.value (f : Fmt) (code : Nat) : FV :=
  let c := code % 2 ^ f.width
  let neg := c.testBit (f.width - 1)
  let ex := bits c f.frac f.exp
  let m := c % 2 ^ f.frac
  let top : Bool := ex = 2 ^ f.exp - 1
  if f.inf && top then (if m = 0 then .inf neg else .nan (10 ≤ f.width && f.width != 8 && !m.testBit (f.frac - 1)))
  else if f.nan && !f.inf && top && m = 2 ^ f.frac - 1 then .nan false
  else if ex = 0 then .fin neg m (1 - f.bias - f.frac)
  else .fin neg (m + 2 ^ f.frac) ((ex : Int) - f.bias - f.frac)

/-- Whether a value is a NaN. -/
def FV.isNan : FV → Bool
  | .nan _ => true
  | _ => false

/-- Whether a value is a signalling NaN. -/
def FV.isSnan : FV → Bool
  | .nan s => s
  | _ => false

/-- Whether a value is infinite. -/
def FV.isInf : FV → Bool
  | .inf _ => true
  | _ => false

/-- Whether a value is a zero. -/
def FV.isZero : FV → Bool
  | .fin _ m _ => m = 0
  | _ => false

/-- The sign of a value. -/
def FV.neg : FV → Bool
  | .nan _ => false
  | .inf n => n
  | .fin n _ _ => n

/-- The value with its sign flipped; a NaN stays. -/
def FV.flip : FV → FV
  | .nan s => .nan s
  | .inf n => .inf (!n)
  | .fin n m e => .fin (!n) m e

/-- Flips the sign under a condition. -/
def FV.flipIf (c : Bool) (x : FV) : FV := if c then x.flip else x

/-! ## Rounding (R84 to R86) -/

/-- Floor of the binary logarithm of m × 2^e, for m > 0. -/
def log2of (m : Nat) (e : Int) : Int := (Nat.log2 m : Int) + e

/-- m × 2^e floored, with the dropped part: the quotient, the remainder and its unit (0: exact). -/
def shiftTo (m : Nat) (d : Int) : Nat × Nat × Nat :=
  if 0 ≤ d then (m * 2 ^ d.toNat, 0, 0)
  else (m / 2 ^ (-d).toNat, m % 2 ^ (-d).toNat, 2 ^ (-d).toNat)

/-- Whether rounding mode rm increases the magnitude, given the quotient, remainder and unit (R84). -/
def roundsUp (rm : Nat) (neg : Bool) (q r unit : Nat) : Bool :=
  if r = 0 then false
  else if rm = 0 then unit < 2 * r || (unit = 2 * r && q % 2 = 1)
  else if rm = 1 then false
  else if rm = 2 then !neg
  else neg

/-- What becomes of a finite result past the largest finite value (R91, R95). -/
inductive Ovf where
  | ieee | saturate | nsat
  deriving DecidableEq, Repr

/-- The sign bit of a format. -/
def Fmt.sign (f : Fmt) (neg : Bool) : Nat := if neg then 2 ^ (f.width - 1) else 0

/-- The infinity of a format; the largest finite or the NaN where it has none (R91). -/
def Fmt.infCode (f : Fmt) (o : Ovf) (neg : Bool) : Nat :=
  match o with
  | .saturate => f.maxFin + f.sign neg
  | _ => if f.inf then (2 ^ f.exp - 1) * 2 ^ f.frac + f.sign neg else if f.nan then f.qnan else f.maxFin + f.sign neg

/-- A finite value rounded to a format under a mode (R84, R86, R91): the code and OF, UF, NX. UF, 'tiny
after rounding and inexact' (R88): the delivered result is inexact and below the smallest normal (DEDUCED, log entry 30). -/
def Fmt.round (f : Fmt) (rm : Nat) (o : Ovf) (neg : Bool) (m : Nat) (e : Int) : Nat × Flags :=
  if m = 0 then (f.sign neg, 0)
  else
    let emin := 1 - f.bias
    let l := log2of m e
    let ulp := (if l < emin then emin else l) - (f.frac : Int)
    let (q, r, unit) := shiftTo m (e - ulp)
    let q' := if roundsUp rm neg q r unit then q + 1 else q
    let base : Int := (ulp + (f.frac : Int) - emin) * ((2 ^ f.frac : Nat) : Int)
    let code := (base + (q' : Int)).toNat
    if f.maxFin < code then
      let away := rm = 0 || (rm = 2 && !neg) || (rm = 3 && neg)
      let c := match o with
        | .saturate => f.maxFin + f.sign neg
        | .ieee => if away then f.infCode .ieee neg else f.maxFin + f.sign neg
        | .nsat => if f.inf then (if away then f.infCode .nsat neg else f.maxFin + f.sign neg) else f.infCode .nsat neg
      (c, fOF ||| fNX)
    else (code + f.sign neg, fif (r != 0) fNX ||| fif (r != 0 && code < 2 ^ f.frac) fUF)

/-- A value delivered in a format: NaN canonical, infinities by the overflow rule, finite rounded (R87, R91). -/
def Fmt.deliver (f : Fmt) (rm : Nat) (o : Ovf) (x : FV) : Nat × Flags :=
  match x with
  | .nan s => if f.nan then (f.qnan, fif s fNV) else (0, fNV)
  | .inf n => (f.infCode o n, 0)
  | .fin n m e => f.round rm o n m e

/-- FP32 result of an arithmetic operation (R87, R95). -/
def toF32 (rm : Nat) (x : FV) : Nat × Flags := fp32.deliver rm .ieee x

/-! ## Exact arithmetic -/

/-- Signed integer of a finite value at an exponent not above its own. -/
def scaled (neg : Bool) (m : Nat) (e lo : Int) : Int :=
  let v : Int := (m * 2 ^ (e - lo).toNat : Nat)
  if neg then -v else v

/-- The exact sum of two finite values; the sign of an exact zero sum by R95. -/
def addFin (rm : Nat) (n1 : Bool) (m1 : Nat) (e1 : Int) (n2 : Bool) (m2 : Nat) (e2 : Int) : FV :=
  let lo := if e1 ≤ e2 then e1 else e2
  let v := scaled n1 m1 e1 lo + scaled n2 m2 e2 lo
  if v = 0 then .fin (if m1 = 0 && m2 = 0 && n1 = n2 then n1 else rm = 3) 0 0
  else .fin (decide (v < 0)) v.natAbs lo

/-- An exact sum with its invalid flag (R88, R95). -/
def fvAdd (rm : Nat) (a b : FV) : FV × Flags :=
  let sig := fif (a.isSnan || b.isSnan) fNV
  match a, b with
  | .nan _, _ => (.nan false, sig)
  | _, .nan _ => (.nan false, sig)
  | .inf n1, .inf n2 => if n1 = n2 then (.inf n1, 0) else (.nan false, fNV)
  | .inf n, _ => (.inf n, 0)
  | _, .inf n => (.inf n, 0)
  | .fin n1 m1 e1, .fin n2 m2 e2 => (addFin rm n1 m1 e1 n2 m2 e2, 0)

/-- An exact product with its invalid flag. -/
def fvMul (a b : FV) : FV × Flags :=
  let sig := fif (a.isSnan || b.isSnan) fNV
  match a, b with
  | .nan _, _ => (.nan false, sig)
  | _, .nan _ => (.nan false, sig)
  | .inf n1, y => if y.isZero then (.nan false, fNV) else (.inf (n1 != y.neg), 0)
  | x, .inf n2 => if x.isZero then (.nan false, fNV) else (.inf (x.neg != n2), 0)
  | .fin n1 m1 e1, .fin n2 m2 e2 => (.fin (n1 != n2) (m1 * m2) (e1 + e2), 0)

/-- FADD of FP32 codes (R95). -/
def fadd32 (rm : Nat) (a b : FV) : Nat × Flags :=
  let (x, f1) := fvAdd rm a b
  let (c, f2) := toF32 rm x
  (c, f1 ||| f2)

/-- FMUL (R95). -/
def fmul32 (rm : Nat) (a b : FV) : Nat × Flags :=
  let (x, f1) := fvMul a b
  let (c, f2) := toF32 rm x
  (c, f1 ||| f2)

/-- FFMA: the product negated under np, the addend under nc, one rounding (R366, R95). -/
def ffma32 (rm : Nat) (np : Bool) (a b c : FV) : Nat × Flags :=
  let (p, f1) := fvMul a b
  let (x, f2) := fvAdd rm (p.flipIf np) c
  let (r, f3) := toF32 rm x
  (r, f1 ||| f2 ||| f3)

/-- Whether a is below b for values that are not NaN, with −0 below +0 when `zeros`. -/
def fvLt (zeros : Bool) (a b : FV) : Bool :=
  match a, b with
  | .nan _, _ => false
  | _, .nan _ => false
  | .inf n1, .inf n2 => n1 && !n2
  | .inf n1, _ => n1
  | _, .inf n2 => !n2
  | .fin n1 m1 e1, .fin n2 m2 e2 =>
    let lo := if e1 ≤ e2 then e1 else e2
    let x := scaled n1 m1 e1 lo
    let y := scaled n2 m2 e2 lo
    decide (x < y) || (zeros && m1 = 0 && m2 = 0 && n1 && !n2)

/-- FMIN or FMAX of codes of a format (R367, R205). -/
def fmm (f : Fmt) (max : Bool) (x y : Nat) : Nat × Flags :=
  let a := f.value x
  let b := f.value y
  let fl := fif (a.isSnan || b.isSnan) fNV
  if a.isNan && b.isNan then (f.qnan, fl)
  else if a.isNan then (y, fl)
  else if b.isNan then (x, fl)
  else ((if max then (if fvLt true a b then y else x) else (if fvLt true b a then y else x)), fl)

/-- Comparison codes on FP32 values (R373): the truth value and NV for a signalling NaN. -/
def fcmp (code : Nat) (a b : FV) : Bool × Flags :=
  let un := a.isNan || b.isNan
  let lt := fvLt false a b
  let gt := fvLt false b a
  let eq := !un && !lt && !gt
  let r := match code with
    | 0 => eq
    | 1 => !eq
    | 2 => lt
    | 3 => !un && !gt
    | 4 => gt
    | 5 => !un && !lt
    | 6 => !un
    | _ => un
  (r, fif (a.isSnan || b.isSnan) fNV)

/-! ## Reciprocals (R95) -/

/-- Integer square root, by bits from b − 1 down. -/
def isqrtFrom : Nat → Nat → Nat → Nat
  | 0, _, acc => acc
  | b + 1, n, acc => let t := acc + 2 ^ b; if t * t ≤ n then isqrtFrom b n t else isqrtFrom b n acc

/-- FRCP of an FP32 value (R95). -/
def frcp32 (rm : Nat) (x : FV) : Nat × Flags :=
  match x with
  | .nan s => (fp32.qnan, fif s fNV)
  | .inf n => (fp32.sign n, 0)
  | .fin n m e =>
    if m = 0 then (fp32.infCode .ieee n, fDZ)
    else
      let k := Nat.log2 m + 40
      let q := 2 ^ k / m
      let st := if 2 ^ k % m = 0 then 0 else 1
      fp32.round rm .ieee n (2 * q + st) (-(k : Int) - e - 1)

/-- FRSQ of an FP32 value (R95). -/
def frsq32 (rm : Nat) (x : FV) : Nat × Flags :=
  match x with
  | .nan s => (fp32.qnan, fif s fNV)
  | .inf n => if n then (fp32.qnan, fNV) else (0, 0)
  | .fin n m e =>
    if m = 0 then (fp32.infCode .ieee n, fDZ)
    else if n then (fp32.qnan, fNV)
    else
      let (m, e) := if e % 2 = 0 then (m, e) else (2 * m, e - 1)
      let s := isqrtFrom 46 (2 ^ 90 / m) 0
      let st := if s * s * m = 2 ^ 90 then 0 else 1
      fp32.round rm .ieee false (2 * s + st) (-(45 : Int) - e / 2 - 1)

/-! ## FEXP2 and FLOG2 (R96, R97) -/

/-- E[i] of R96: RNE(2^(i/64) × 2^62), entries 0 to 15. -/
def exp2E0 : List Int :=
  [4611686018427387904, 4661903986662671290, 4712668792719003884, 4763986391269842979,
   4815862801830788490, 4868304109465667592, 4921316465500308116, 4974906088244084429,
   5029079263719320435, 5083842346398635251, 5139201759950318048, 5195163997991819502,
   5251735624851448219, 5308923276338361494, 5366733660520940721, 5425173558513642752]

/-- E[i] of R96: RNE(2^(i/64) × 2^62), entries 16 to 31. -/
def exp2E1 : List Int :=
  [5484249825272419512, 5543969390398799154, 5604339258952723100, 5665366512274234280,
   5727058308814112983, 5789421884973557729, 5852464555953009676, 5916193716610220111,
   5980616842327661685, 6045741489889385141, 6111575298367424380, 6178125990017853852,
   6245401371186603363, 6313409333225136570, 6382157853416100552, 6451654995909055045]

/-- E[i] of R96: RNE(2^(i/64) × 2^62), entries 32 to 47. -/
def exp2E2 : List Int :=
  [6521908912666391106, 6592927844419550153, 6664720121635655541, 6737294165494670078,
   6810658488877194079, 6884821697363019841, 6959792490240559659, 7035579661527265796,
   7112192101001162095, 7189638795243608238, 7267928828693418961, 7347071384712461870,
   7427075746662858866, 7507951298995917514, 7589707528352920109, 7672354024677899536]

/-- E[i] of R96: RNE(2^(i/64) × 2^62), entries 48 to 63. -/
def exp2E3 : List Int :=
  [7755900482342532474, 7840356701283281883, 7925732588150922155, 8012038157472581778,
   8099283532826439817, 8187478948029213993, 8276634748336579668, 8366761391656660532,
   8457869449776733335, 8549969609603290562, 8643072674415606502, 8737189565132953757,
   8832331321595618838, 8928509103859867100, 9025734193507008925, 9124017994966720698]

/-- E[i] of R96: RNE(2^(i/64) × 2^62). -/
def exp2E : List Int := exp2E0 ++ exp2E1 ++ exp2E2 ++ exp2E3

/-- C1 to C4 of R96, entries 0 to 3. -/
def exp2C0 : List Int :=
  [3196577161300663915, 1107849223398934356, 255967521894832113, 44355791529079737]

/-- C1 to C4 of R96. -/
def exp2C : List Int := exp2C0

/-- T[i] of R97, entries 0 to 15. -/
def log2T0 : List Int :=
  [1099511627776, 1082596064272, 1066193093601, 1050279763846,
   1034834473201, 1019836872140, 1005267773967, 991109072925,
   977343669134, 963955399694, 950928975374, 938249922369,
   925904528653, 913879794515, 902163386893, 890743597186]

/-- T[i] of R97, entries 16 to 31. -/
def log2T1 : List Int :=
  [879609302221, 868749928119, 858155416801, 847816194912,
   837723144972, 827867578561, 818241211368, 808836139973,
   799644820201, 790660046940, 781874935307, 773282903051,
   764877654105, 756653163201, 748603661465, 740723622923]

/-- T[i] of R97, entries 32 to 47. -/
def log2T2 : List Int :=
  [733007751851, 725450970904, 718048409976, 710795395734,
   703687441777, 696720239383, 689889648801, 683191691045,
   676622540170, 670178515978, 663856077148, 657651814745,
   651562446089, 645584808969, 639715856161, 633952650249]

/-- T[i] of R97, entries 48 to 63. -/
def log2T3 : List Int :=
  [628292358729, 622732249360, 617269685769, 611902123284,
   606627104980, 601442257929, 596345289641, 591333984686,
   586406201481, 581559869237, 576792985063, 572103611201,
   567489872401, 562949953421, 558482096648, 554084599824]

/-- T[i] of R97. -/
def log2T : List Int := log2T0 ++ log2T1 ++ log2T2 ++ log2T3

/-- L[i] of R97: RNE(log2(2^40 / T[i]) × 2^62), entries 0 to 15. -/
def log2L0 : List Int :=
  [0, 103153330604608849, 204731739545587261, 304782595601591997,
   403351162125746253, 500480719981687787, 596212681662754615, 690586697318477423,
   783640753334278423, 875411264141311016, 965933157782452738, 1055239955713677635,
   1143363847334655218, 1230335759628136899, 1316185422356129487, 1400941429032920308]

/-- L[i] of R97: RNE(log2(2^40 / T[i]) × 2^62), entries 16 to 31. -/
def log2L1 : List Int :=
  [1484631294129501623, 1567281506667895007, 1648917580556199527, 1729564101898545572,
   1809244773415788028, 1887982456255153328, 1965799209409557995, 2042716326760159177,
   2118754372090818323, 2193933212086605662, 2268272047466994694, 2341789442438868222,
   2414503352528998915, 2486431150896099499, 2557589653253111450, 2627995141460280354]

/-- L[i] of R97: RNE(log2(2^40 / T[i]) × 2^62), entries 32 to 47. -/
def log2L2 : List Int :=
  [2697663385877051225, 2766609666587143590, 2834848793497297633, 2902395125425664037,
   2969262588258625052, 3035464692173015159, 3101014548002608382, 3165924882856621059,
   3230208054900982355, 3293876067542831391, 3356940582834145187, 3419412934306837568,
   3481304139217758944, 3542624910152900529, 3603385666219752655, 3663596543666027807]

/-- L[i] of R97: RNE(log2(2^40 / T[i]) × 2^62), entries 48 to 63. -/
def log2L3 : List Int :=
  [3723267405963099156, 3782407853576890458, 3841027233211139153, 3899134646660013313,
   3956738959304728399, 4013848808232518873, 4070472610006576379, 4126618568090547282,
   4182294680005796460, 4237508744184945842, 4292268366465014651, 4346580966432399816,
   4400453783440479625, 4453893882396730585, 4506908159295864804, 4559503346621971469]

/-- L[i] of R97: RNE(log2(2^40 / T[i]) × 2^62). -/
def log2L : List Int := log2L0 ++ log2L1 ++ log2L2 ++ log2L3

/-- D1 to D6 of R97, entries 0 to 5. -/
def log2D0 : List Int :=
  [6653256548922161246, -3326628274461080623, 2217752182974053749, -1663314137230540311,
   1330651309784432249, -1108876091487026874]

/-- D1 to D6 of R97. -/
def log2D : List Int := log2D0

/-- floor(a × b / 2^62). -/
def mul62 (a b : Int) : Int := (a * b) / (2 ^ 62 : Nat)

/-- floor of m × 2^e × 2^62 with a sign. -/
def floor62 (neg : Bool) (m : Nat) (e : Int) : Int :=
  let d := e + 62
  if 0 ≤ d then scaled neg m d 0 else (if neg then -(m : Int) else (m : Int)) / ((2 ^ (-d).toNat : Nat) : Int)

/-- FEXP2 (R96). -/
def fexp2 (x : FV) : Nat × Flags :=
  match x with
  | .nan s => (fp32.qnan, fif s fNV)
  | .inf n => if n then (0, 0) else (fp32.infCode .ieee false, 0)
  | .fin neg m e =>
    if !neg && !fvLt false x (.fin false 1 7) then (fp32.infCode .ieee false, fOF ||| fNX)
    else if fvLt false x (.fin true 150 0) then (0, fUF ||| fNX)
    else
      let y := floor62 neg m e
      let n := y / ((2 ^ 62 : Nat) : Int)
      let f := y - n * ((2 ^ 62 : Nat) : Int)
      let i := (f / ((2 ^ 56 : Nat) : Int)).toNat
      let u := f - (i : Int) * ((2 ^ 56 : Nat) : Int)
      let p := nth 0 exp2C 3
      let p := nth 0 exp2C 2 + mul62 p u
      let p := nth 0 exp2C 1 + mul62 p u
      let p := nth 0 exp2C 0 + mul62 p u
      let p := ((2 ^ 62 : Nat) : Int) + mul62 p u
      let mm := mul62 (nth 0 exp2E i) p
      let (c, _) := fp32.round 0 .ieee false mm.toNat (n - 62)
      let whole := decide (0 ≤ e) || m % 2 ^ (-e).toNat = 0
      let nx := !(whole && decide (-149 ≤ n))
      (c, fif nx fNX ||| fif (nx && c < 2 ^ 23) fUF)

/-- FLOG2 (R97). -/
def flog2 (x : FV) : Nat × Flags :=
  match x with
  | .nan s => (fp32.qnan, fif s fNV)
  | .inf n => if n then (fp32.qnan, fNV) else (fp32.infCode .ieee false, 0)
  | .fin neg m e =>
    if m = 0 then (fp32.infCode .ieee true, fDZ)
    else if neg then (fp32.qnan, fNV)
    else
      let k := Nat.log2 m
      let ex := (k : Int) + e
      let i := (m - 2 ^ k) * 64 / 2 ^ k
      let tt := nth 0 log2T i
      let num := (m : Int) * tt - ((2 ^ (k + 40) : Nat) : Int)
      let z := num * ((2 ^ 62 : Nat) : Int) / ((2 ^ (k + 40) : Nat) : Int)
      let p := nth 0 log2D 5
      let p := nth 0 log2D 4 + mul62 p z
      let p := nth 0 log2D 3 + mul62 p z
      let p := nth 0 log2D 2 + mul62 p z
      let p := nth 0 log2D 1 + mul62 p z
      let p := nth 0 log2D 0 + mul62 p z
      let p := mul62 p z
      let v := ex * ((2 ^ 62 : Nat) : Int) + nth 0 log2L i + p
      let (c, _) := fp32.round 0 .ieee (decide (v < 0)) v.natAbs (-62)
      (c, fif (m != 2 ^ k) fNX)

/-! ## The K-block rule (R98, R99) -/

/-- A product of two elements with their E8M0 scales (R93); scale 0xFF makes it a NaN. -/
def kprod (a b : FV) (xa xb : Nat) : FV :=
  if xa = 255 || xb = 255 then .nan false
  else match (fvMul a b).1 with
    | .fin n m e => .fin n m (e + (xa : Int) + (xb : Int) - 254)
    | other => other

/-- One K-block: the accumulator c of format f after a block of products, given whether any input was a NaN and
whether any was signalling (R98). -/
def kblock (f : Fmt) (c : FV) (ps : List FV) (inNan inSnan : Bool) : Nat × Flags :=
  let pinf := ps.contains (.inf false)
  let ninf := ps.contains (.inf true)
  if c.isNan || ps.any FV.isNan || (pinf && ninf) then
    (f.qnan, fif (inSnan || c.isSnan || !(inNan || c.isNan)) fNV)
  else if pinf || ninf then
    let (x, f1) := fvAdd 0 c (.inf ninf)
    let (r, f2) := f.deliver 0 .ieee x
    (r, f1 ||| f2 ||| fif inSnan fNV)
  else
    let nz := ps.filterMap (fun p => match p with
      | .fin n m e => if m = 0 then none else some (n, m, e)
      | _ => none)
    match nz with
    | [] =>
      let (x, f1) := fvAdd 0 c (.fin false 0 0)
      let (r, f2) := f.deliver 0 .ieee x
      (r, f1 ||| f2)
    | (_, m0, e0) :: t =>
      let top := t.foldl (fun acc p => if acc < log2of p.2.1 p.2.2 then log2of p.2.1 p.2.2 else acc) (log2of m0 e0)
      let qs := nz.map (fun p => let s := shiftTo p.2.1 (p.2.2 - (top - 30)); (p.1, s.1, s.2.1))
      let n := qs.foldl (fun acc q => if q.1 then acc - (q.2.1 : Int) else acc + (q.2.1 : Int)) (0 : Int)
      let dropped := qs.any (fun q => q.2.2 != 0)
      let sv : FV := .fin (decide (n < 0)) n.natAbs (top - 30)
      let (x, f1) := fvAdd 0 c (if n = 0 then .fin false 0 0 else sv)
      let (r, f2) := f.deliver 0 .ieee x
      (r, f1 ||| f2 ||| fif dropped (fALN ||| fNX))

/-- A block of element pairs under the K-block rule. -/
def kblockPairs (f : Fmt) (c : FV) (l : List (FV × FV)) (xa xb : Nat) : Nat × Flags :=
  let nan := l.any (fun p => p.1.isNan || p.2.isNan) || xa = 255 || xb = 255
  let snan := l.any (fun p => p.1.isSnan || p.2.isSnan)
  kblock f c (l.map (fun p => kprod p.1 p.2 xa xb)) nan snan

/-! ## Conversions (R91, R92) -/

/-- The format of a floating-point type code (14 R306). -/
def tyFmt (ty : Nat) : Fmt :=
  match ty with
  | 9 => fp16
  | 10 => bf16
  | 11 => e4m3
  | 12 => e5m2
  | 13 => e2m1
  | _ => fp32

/-- Width of a type code (14 R306). -/
def tyWidth (ty : Nat) : Nat :=
  match ty with
  | 0 => 32
  | 1 => 32
  | 2 => 64
  | 3 => 64
  | 4 => 16
  | 5 => 16
  | 6 => 8
  | 7 => 8
  | 14 => 4
  | 15 => 4
  | n => (tyFmt n).width

/-- Whether an integer type code is signed. -/
def tySigned (ty : Nat) : Bool := ty % 2 = 0

/-- The integer a code of an integer type stands for. -/
def intOf (ty x : Nat) : Int := if tySigned ty then toSigned (tyWidth ty) x else ((x % 2 ^ tyWidth ty : Nat) : Int)

/-- Least value of an integer type. -/
def tyMin (ty : Nat) : Int := if tySigned ty then -((2 ^ (tyWidth ty - 1) : Nat) : Int) else 0
/-- Largest value of an integer type. -/
def tyMax (ty : Nat) : Int :=
  if tySigned ty then ((2 ^ (tyWidth ty - 1) : Nat) : Int) - 1 else ((2 ^ tyWidth ty : Nat) : Int) - 1

/-- A value clamped to an integer type, and whether it was. -/
def clampTy (ty : Nat) (v : Int) : Int × Bool :=
  if v < tyMin ty then (tyMin ty, true) else if tyMax ty < v then (tyMax ty, true) else (v, false)

/-- An integer rounded from m × 2^e under a mode, and whether it is inexact. -/
def roundInt (rm : Nat) (neg : Bool) (m : Nat) (e : Int) : Int × Bool :=
  let (q, r, unit) := shiftTo m e
  let q' : Int := if roundsUp rm neg q r unit then q + 1 else q
  (if neg then -q' else q', r != 0)

/-- A floating-point value converted to an integer type (R92). -/
def fvToInt (ty rm : Nat) (x : FV) : Int × Flags :=
  match x with
  | .nan _ => (0, fNV)
  | .inf n => (if n then tyMin ty else tyMax ty, fNV ||| fIOV)
  | .fin n m e =>
    let (v, nx) := roundInt rm n m e
    let (c, cl) := clampTy ty v
    (c, fif nx fNX ||| fif cl (fNV ||| fIOV))

/-- An exact integer as a value. -/
def fvInt (v : Int) : FV := .fin (decide (v < 0)) v.natAbs 0

/-- Whether every value of format a is a value of format b (R91). -/
def widens (a b : Fmt) : Bool :=
  a = b || (a = fp16 && b = fp32) || (a = bf16 && b = fp32) || ((a = e4m3 || a = e5m2) && (b = fp16 || b = bf16 || b = fp32))
    || a = e2m1

/-- A conversion between floating-point formats (R91). -/
def fcvt (dst : Fmt) (rm : Nat) (nsat : Bool) (src : Fmt) (code : Nat) : Nat × Flags :=
  let x := src.value code
  dst.deliver rm (if widens src dst || nsat then .nsat else .saturate) x

/-- A conversion by type codes (R361): the result in the destination's own width and the flags. -/
def convert (dty sty rm : Nat) (opt : Bool) (x : Nat) : Nat × Flags :=
  if tyFloat' dty then
    if tyFloat' sty then fcvt (tyFmt dty) rm opt (tyFmt sty) x
    else (tyFmt dty).deliver rm (if opt then .nsat else .saturate) (fvInt (intOf sty x))
  else if tyFloat' sty then
    let (v, fl) := fvToInt dty rm ((tyFmt sty).value x)
    (ofInt (tyWidth dty) v, fl)
  else
    let v := intOf sty x
    if opt then let (c, cl) := clampTy dty v; (ofInt (tyWidth dty) c, fif cl fIOV)
    else (ofInt (tyWidth dty) v, 0)
where
  tyFloat' (ty : Nat) : Bool := 8 ≤ ty && ty ≤ 13

/-- A result of a type placed in 64 bits: integers extended by their sign, other types zero-extended (R361). -/
def placeTy (ty x : Nat) : Nat :=
  if ty < 8 || ty = 14 then ofInt (if ty = 2 || ty = 3 then 64 else 32) (intOf ty x) else x % 2 ^ tyWidth ty

/-! ## I4O blocks (R83) -/

/-- A nibble as −7 to 7; 0b1000 reads as zero with FMT (R83). -/
def nib (n : Nat) : Int × Flags := if n = 8 then (0, fFMT) else (toSigned 4 n, 0)

/-- The elements of a block of bytes, from byte index j (R83). -/
def i4oFrom : Nat → Nat → List Nat → List FV × Flags
  | 0, _, _ => ([], 0)
  | _ + 1, _, [] => ([], 0)
  | fuel + 1, j, q :: t =>
    let lo := q % 16
    let hi := q / 16 % 16
    let (h, fh) := nib hi
    match t with
    | q2 :: t2 =>
      if lo = 8 && j % 2 = 0 then
        let (r, fr) := i4oFrom fuel (j + 2) t2
        (e4m3.value q2 :: fvInt h :: fvInt 0 :: fvInt 0 :: r, fh ||| fr)
      else
        let (l, fl) := nib lo
        let (r, fr) := i4oFrom fuel (j + 1) t
        (fvInt l :: fvInt h :: r, fl ||| fh ||| fr)
    | [] =>
      let (l, fl) := nib lo
      ([fvInt l, fvInt h], fl ||| fh)

/-- An I4O block decoded (R83). -/
def i4o (bytes : List Nat) : List FV × Flags := i4oFrom 17 0 bytes

/-! ## Block scales (R94) -/

/-- floor(log2 |x|) of a nonzero finite value. -/
def fvLog2 (x : FV) : Option Int :=
  match x with
  | .fin _ m e => if m = 0 then none else some (log2of m e)
  | _ => none

/-- The scale code of a block of FP32 values for an element format with the given emax (R94). -/
def scaleCode (emax : Int) (l : List FV) : Nat :=
  if l.any (fun x => x.isNan || x.isInf) then 255
  else match (l.filterMap fvLog2) with
    | [] => 127
    | a :: t =>
      let top := t.foldl (fun m x => if m < x then x else m) a
      let x := top - emax + 127
      if x < 0 then 0 else if 254 < x then 254 else x.toNat

/-! ## Reduction and scan orders (R101, R102) -/

/-- One level of the pairwise tree (R101). -/
def treeLevel {α : Type} (op : α → α → α) : List α → List α
  | a :: b :: t => op a b :: treeLevel op t
  | l => l

/-- The fixed pairwise tree over 32 values (R101). -/
def tree {α : Type} (op : α → α → α) (l : List α) : List α :=
  treeLevel op (treeLevel op (treeLevel op (treeLevel op (treeLevel op l))))

/-- One step of the Hillis–Steele scan at distance d (R102). -/
def scanStep {α : Type} [Inhabited α] (op : α → α → α) (d : Nat) (y : List α) : List α :=
  (List.range y.length).map (fun i => if d ≤ i then op (nth default y (i - d)) (nth default y i) else nth default y i)

/-- The inclusive scan (R102). -/
def scan {α : Type} [Inhabited α] (op : α → α → α) (y : List α) : List α :=
  [1, 2, 4, 8, 16].foldl (fun y d => scanStep op d y) y

end Sys2Proof.Machine
end

