-- ==== Sys2Proof/Machine/Flags.lean ====
section
/-! DEFINITION. Flag computations of integer results (spec 04 R82, R88) and the sticky flag registers of a group
(04 R88, R89). Floating-point flags are computed with their results in Numbers.lean. -/

namespace Sys2Proof.Machine

/-- Sets sticky bits of SYS.FPFLAGS (R88). -/
def Group.addFp (g : Group) (f : Flags) : Group := { g with fpflags := g.fpflags ||| f }

/-- Sets sticky bits of SYS.MXFLAGS (R88). -/
def Group.addMx (g : Group) (f : Flags) : Group := { g with mxflags := g.mxflags ||| f }

/-- An exact integer result of a type: wrapped without SAT, clamped with IOV under SAT (17 R388). -/
def intResult (ty : Nat) (sat : Bool) (v : Int) : Nat × Flags :=
  if sat then
    let c := clampTy ty v
    (ofInt (tyWidth ty) c.1, fif c.2 fIOV)
  else (ofInt (tyWidth ty) v, 0)

/-- An exact total added to an INT32 addend: wrapped, IOV when outside the range (R100, 17 R384). -/
def dotResult (v : Int) : Nat × Flags := (ofInt 32 v, fif (clampTy 0 v).2 fIOV)

/-- The OR of the flags of a list of results. -/
def orFlags (l : List Flags) : Flags := l.foldl (fun a b => a ||| b) 0

end Sys2Proof.Machine
end

