-- ==== Sys2Proof/Machine/Operands.lean ====
section
/-! DEFINITION. Operand forms: scalar and vector registers and pairs, the SK and BC forms of the ALU layout
(spec 14 R303, R306), immediates, and the ways a result is written (17 R363). -/

namespace Sys2Proof.Machine

/-- The value of `cnt` registers from n in lane l, or of scalar registers. -/
def opRead (g : Group) (sk : Bool) (n cnt l : Nat) : Nat :=
  if cnt = 2 then (if sk then (g.spair n).toNat else (g.vpair n l).toNat)
  else (if sk then (g.sget n).toNat else (g.vget n l).toNat)

/-- Source A of a format V word in lane l, over `cnt` registers (SK makes it scalar). -/
def srcA (f : FmtV) (x : Issue) (cnt l : Nat) : Nat := opRead x.g (fnSk f.fn) f.sa.toNat cnt l
/-- Source B: scalar under SK or BC. -/
def srcB (f : FmtV) (x : Issue) (cnt l : Nat) : Nat := opRead x.g (fnSk f.fn || fnBc f.fn) f.sb.toNat cnt l
/-- Source C. -/
def srcC (f : FmtV) (x : Issue) (cnt l : Nat) : Nat := opRead x.g (fnSk f.fn) f.sc.toNat cnt l
/-- Source A of a format I word. -/
def srcI (f : FmtI) (x : Issue) (cnt l : Nat) : Nat := opRead x.g (fnSk f.fn) f.sa.toNat cnt l

/-- IMM20 sign-extended to the type's width and read as the type (17 R388). -/
def immTy (ty : Nat) (imm : BitVec 20) : Int := intOf ty (ofInt 64 (toSigned 20 imm.toNat))
/-- IMM20 sign-extended to 64 bits. -/
def immBits (imm : BitVec 20) : Nat := ofInt 64 (toSigned 20 imm.toNat)

/-- Writes a result to a register or pair in one lane or as a scalar. -/
def putResult (g : Group) (sk : Bool) (dst cnt l v : Nat) : Group :=
  if sk then g.ssetN dst cnt (BitVec.ofNat 64 v) else g.vsetN dst cnt l (BitVec.ofNat 64 v)

/-- Computes a result per active lane, or once in the scalar form, writes them after all reads, sets flags in
SYS.FPFLAGS and retires (R363). -/
def aluOut (x : Issue) (sk : Bool) (dst cnt : Nat) (val : Nat → Nat × Flags) (s : State) : State :=
  let res := (if sk then [lowLane x.active] else x.lanes).map (fun l => (l, val l))
  let g := res.foldl (fun g r => putResult g sk dst cnt r.1 r.2.1) x.g
  retire x (g.addFp (orFlags (res.map (fun r => r.2.2)))) s

/-- As `aluOut` for a result of the word's type in a format V word. -/
def aluV (f : FmtV) (cnt : Nat) (val : Issue → Nat → Nat × Flags) (x : Issue) (s : State) : State :=
  aluOut x (fnSk f.fn) f.dst.toNat cnt (val x) s

/-- An integer word with up to three typed sources (17 R388). -/
def intV (f : FmtV) (op : Int → Int → Int → Nat × Flags) (x : Issue) (s : State) : State :=
  let ty := fnTy f.fn
  let n := tyRegs ty
  aluV f n (fun x l => op (intOf ty (srcA f x n l)) (intOf ty (srcB f x n l)) (intOf ty (srcC f x n l))) x s

/-- A bitwise word on 64-bit values whose low register or pair is kept. -/
def bitV (f : FmtV) (op : DWord → DWord → DWord) (x : Issue) (s : State) : State :=
  let n := tyRegs (fnTy f.fn)
  aluV f n (fun x l => ((op (BitVec.ofNat 64 (srcA f x n l)) (BitVec.ofNat 64 (srcB f x n l))).toNat, 0)) x s

/-- A bitwise immediate word. -/
def bitI (f : FmtI) (op : DWord → DWord → DWord) (x : Issue) (s : State) : State :=
  let n := tyRegs (fnTy f.fn)
  aluOut x (fnSk f.fn) f.dst.toNat n
    (fun l => ((op (BitVec.ofNat 64 (srcI f x n l)) (BitVec.ofNat 64 (immBits f.imm))).toNat, 0)) s

/-- Writes a predicate in the active lanes from a truth value and flags per lane, and retires. -/
def predOut (x : Issue) (dst : Nat) (val : Nat → Bool × Flags) (s : State) : State :=
  let res := x.lanes.map (fun l => (l, val l))
  let m := maskOf ((res.filter (fun r => r.2.1)).map (fun r => r.1))
  retire x ((x.g.pset dst x.active m).addFp (orFlags (res.map (fun r => r.2.2)))) s

/-- Whether predicate n is true in lane l. -/
def predAt (g : Group) (n l : Nat) : Bool := hasLane (g.pget n) l

/-- Issues a producer that writes `cnt` vector registers from dst in lanes that have completed. -/
def vecProducer (id : Nat) (kind : ProdKind) (dst cnt : Nat) (vals : List (Nat × Nat)) (fp : Flags) : Producer :=
  { Producer.mk0 id kind with
    vregs := (List.range cnt).map (fun i => dst + i)
    vwrites := Sparse.setAll [] ((vals.map (fun lv => (List.range cnt).map (fun i =>
      (32 * (dst + i) + lv.1, BitVec.ofNat 32 (lv.2 >>> (32 * i)))))).flatten)
    vmask := (List.range cnt).map (fun i => (dst + i, maskOf (vals.map (fun lv => lv.1))))
    fp := fp }

/-- Issues a producer that writes one scalar register. -/
def scaProducer (id : Nat) (kind : ProdKind) (dst : Nat) (v : Word) : Producer :=
  { Producer.mk0 id kind with sregs := [dst], swrites := [(dst, v)] }

end Sys2Proof.Machine
end

