-- ==== Sys2Proof/Machine/Access.lean ====
section
/-! DEFINITION. One lane's memory access: where a party's address leads, what it waits for, and the bytes it reads or
writes (spec 05 R105 to R112, R460; 07 R153, R156, R159; 12 R285; 13 R295, R299, R300; 15 R324). -/

namespace Sys2Proof.Machine

/-! ## Addresses -/

/-- Translates or checks a party's global address for an access; a fault comes as cause and level (06 R137, 15 R324). -/
def State.resolve (s : State) (p : Party) (va : DWord) (need : Need) : State × Except Flt Trans :=
  match p with
  | .ranger _ =>
    if va.extractLsb' 52 12 != 0 then (s, .error ⟨0x07, 0⟩)
    else if region va.toNat = .hole then (s, .error ⟨0x08, 0⟩)
    else (s, .ok ⟨va.toNat, if s.msLine va.toNat then 0x440#64 else 0x400#64⟩)
  | _ => s.translate (partyTlb p) (s.ctxOfParty p) va need

/-- AUX of a translation fault: bit 0 for a write (12 R267). -/
def fltCause (f : Flt) (va : DWord) (write : Bool) : Cause := ⟨f.cause, f.level, va, if write then 1 else 0⟩

/-- Whether a wave's access meets its state window (09 R198). -/
def State.waveWindow (s : State) (p : Party) (pa : Nat) : Bool :=
  match p with
  | .wave u k => s.potluck.waves.any (fun w => w.is u k && w.lines.contains (pa / 64))
  | _ => false

/-- Whether an engine or a batch owns the line of a physical address (07 R156, R458, 09 R200). -/
def State.lineOwned (s : State) (pa : Nat) : Bool :=
  s.copies.any (fun c => c.owned.contains (0, pa / 64)) || s.potluck.waves.any (fun w => w.lines.contains (pa / 64))

/-- Whether an engine owns a scratchpad line of a block. -/
def State.scratchOwned (s : State) (uid off : Nat) : Bool := s.copies.any (fun c => c.owned.contains (uid + 1, off / 64))

/-- Whether an access of a party is served in its core's L1 (05 R108, R110, R111, 07 R159). -/
def State.usesL1 (s : State) (p : Party) (t : Trans) : Bool :=
  ((partyCore p).map (fun k => decide (0 < s.l1Room k))).getD false && leafL1 t.leaf && !leafMs t.leaf && !s.fabOwned t.pa && !s.poisoned t.pa &&
    ownMemory t.pa

/-- Bytes [o, o + n) of a sector as a mask. -/
def byteMask (o n : Nat) : BitVec 16 := BitVec.ofNat 16 ((2 ^ n - 1) <<< o)

/-- Whether a load would be served from the party's own L1 without reaching the home. -/
def State.l1Serves (s : State) (p : Party) (t : Trans) (n : Nat) : Bool :=
  s.usesL1 p t && (match (partyCore p).bind (fun k => s.l1Find k (t.pa / 16)) with
    | some e => byteMask (t.pa % 16) n &&& ~~~e.valid = 0
    | none => false)

/-- Whether an access must wait for an engine or a batch (07 R156, 09 R200). -/
def State.mustWait (s : State) (p : Party) (t : Trans) (n : Nat) (load : Bool) : Bool :=
  s.lineOwned t.pa && !(load && s.l1Serves p t n)

/-! ## Reads and writes of one lane -/

/-- Drops the party's own L1 copy of a sector, writing dirty bytes back. -/
def State.dropOwn (s : State) (p : Party) (pa : Nat) : State :=
  match partyCore p with
  | some k => s.l1Evict k (pa / 16)
  | none => s

/-- A load's answer: the bytes as a number, or poison. -/
abbrev Got := Option Nat

/-- The remote address of an aperture access, if its segment is valid and its link is up (13 R295). -/
def State.remote (s : State) (tgt pa : Nat) : Option DWord :=
  let o := (pa - peerBase) % 2 ^ 34
  let seg := lookD ⟨false, 0⟩ s.plat.segments (256 * tgt + o / 2 ^ 26)
  if seg.v && !s.plat.linksDown.contains tgt then some (BitVec.ofNat 64 (seg.remote.toNat / 2 ^ 26 * 2 ^ 26 + o % 2 ^ 26)) else none

/-- Bytes that a peer or the host answers: free values. -/
def State.peerAnswer (s : State) (n : Nat) : State × Nat :=
  ({ s with fresh := s.fresh + n }, ofBytes ((List.range n).map (fun i => Config.peerByte (s.fresh + i))))

/-- A request through aperture target `tgt` at a physical address: the violation response, where its segment is not valid, the link is
down, or the other side refuses it; else the answer, n bytes (13 R294, R295). -/
def State.peerAsk (s : State) (die ctx tgt pa : Nat) (o : DWord → Output) (n : Nat) : State × Got :=
  match s.remote tgt pa with
  | none => (s.violation die ctx (BitVec.ofNat 64 pa), none)
  | some a =>
    let u := (s.emit (o a)).next
    if Config.peerRefuses s.fresh then (u.violation die ctx (BitVec.ofNat 64 pa), none)
    else
      let r := u.peerAnswer n
      (r.1, some r.2)

/-- A mask of bytes as a mask of bits. -/
def wideMask (m : BitVec 16) : BitVec 128 := (bitList 16 m.toNat).foldl (fun w i => w ||| (0xFF#128 <<< (8 * i))) 0

/-- Fills an L1 sector from the home or the RDC, keeping only its dirty bytes, so that every other byte is of one time (07 R148). -/
def State.l1Fill (s : State) (k sector : Nat) (strm : Bool) : State × L1Sector :=
  let s := s.l1Make k sector
  let (s, v) := s.homeFor (coreDie k) false strm (16 * sector) 16
  let e := (s.l1Find k sector).getD ⟨k, sector, 0, 0, 0, strm⟩
  let keep := wideMask e.dirty
  let e := { e with data := (e.data &&& keep) ||| (BitVec.ofNat 128 v &&& ~~~keep), valid := 0xFFFF#16, strm := strm }
  (s.l1Put e, e)

/-- The translation of an access that goes past the L1: as of its page, but that it allocates there under no policy. Bit 1 of CP, first
eviction priority in the L2 or the RDC, stays as the page has it (05 R110). -/
def Trans.pastL1 (t : Trans) : Trans := { t with leaf := t.leaf ||| 0x400#64 }

/-- What an access at its home leaves there under STRM (05 R110); a line of an MS page and one under fabric ownership are in no L2. -/
def State.markHome (s : State) (t : Trans) : State :=
  s.l2Mark (leafStrm t.leaf && !leafMs t.leaf && !s.fabOwned t.pa) t.pa

/-- A translation with the cache policy that CH gives one access (14 R307): `.nl1` allocates no L1, `.strm` is as STRM unless
the page is NL1. -/
def Trans.withCh (t : Trans) (ch : Nat) : Trans :=
  if ch = 1 then t.pastL1 else if ch = 2 && leafL1 t.leaf then { t with leaf := t.leaf ||| 0x800#64 } else t

/-- Reads n bytes for a party (18 R395): from its L1, the home, a register or a peer. -/
def State.loadBytes (s : State) (p : Party) (t : Trans) (n : Nat) : State × Got :=
  match region t.pa with
  | .mmio o =>
    match p with
    | .ranger _ => match (if o < 0x4000000 then s.bar0Read o n else none) with
      | some r => (r.1, some r.2)
      | none => (s.violation (partyDie p) 0 (BitVec.ofNat 64 t.pa), none)
    | _ => (s.violation (partyDie p) (s.ctxOfParty p) (BitVec.ofNat 64 t.pa), none)
  | .peer tgt =>
    s.peerAsk (partyDie p) (s.ctxOfParty p) tgt t.pa (fun a => .peerRequest tgt a false []) n
  | _ =>
    if s.usesL1 p t then
      match partyCore p with
      | some k =>
        let r := if s.l1Serves p t n then (s, (s.l1Find k (t.pa / 16)).getD default) else s.l1Fill k (t.pa / 16) (leafStrm t.leaf)
        (r.1, some (bits r.2.data.toNat (8 * (t.pa % 16)) (8 * n)))
      | none => (s, none)
    else
      let s := s.dropOwn p t.pa
      if s.poisoned t.pa then (s, none)
      else
        let r := s.homeFor (partyDie p) (leafMs t.leaf) (leafStrm t.leaf) t.pa n
        (r.1, some r.2)

/-- Writes n bytes for a party (19 R425); `home` makes the write go past the L1. -/
def State.storeBytes (s : State) (p : Party) (t : Trans) (n x : Nat) (home : Bool) : State :=
  match region t.pa with
  | .mmio o =>
    match p with
    | .ranger _ => match (if o < 0x4000000 then s.bar0Write o n x else none) with
      | some r => r
      | none => s.violation (partyDie p) 0 (BitVec.ofNat 64 t.pa)
    | _ => s.violation (partyDie p) (s.ctxOfParty p) (BitVec.ofNat 64 t.pa)
  | .peer tgt =>
    (s.peerAsk (partyDie p) (s.ctxOfParty p) tgt t.pa (fun a => .peerRequest tgt a true (toBytes n x)) 0).1
  | _ =>
    if s.usesL1 p t && leafCp t.leaf = 0 && !home then
      match partyCore p with
      | some k =>
        let s := s.l1Make k (t.pa / 16)
        let e := (s.l1Find k (t.pa / 16)).getD ⟨k, t.pa / 16, 0, 0, 0, false⟩
        let m := byteMask (t.pa % 16) n
        let wide := wideMask m
        let d := (e.data &&& ~~~wide) ||| ((BitVec.ofNat 128 x <<< (8 * (t.pa % 16))) &&& wide)
        s.l1Put { e with data := d, valid := e.valid ||| m, dirty := e.dirty ||| m }
      | none => s
    else ((s.dropOwn p t.pa).homeWrite (leafMs t.leaf) t.pa n x).markHome t

/-- New memory value of an atomic operation (16 R342, 09 R205). -/
def atomNew (aop m d : Nat) : Nat :=
  let w := 8 * atomBytes aop
  let lt := fun (sg : Bool) => if sg then decide (toSigned w d < toSigned w m) else decide (d < m)
  let half := fun (op : Nat → Nat → Nat) => op (m % 65536) (d % 65536) + 65536 * op (m / 65536) (d / 65536 % 65536)
  let bfadd := fun (a b : Nat) => (bf16.deliver 0 .ieee (fvAdd 0 (bf16.value a) (bf16.value b)).1).1
  match aop with
  | 0x00 => (m + d) % 2 ^ w
  | 0x01 => (m + d) % 2 ^ w
  | 0x02 => if lt true then d else m
  | 0x03 => if lt false then d else m
  | 0x04 => if lt true then m else d
  | 0x05 => if lt false then m else d
  | 0x06 => if lt true then d else m
  | 0x07 => if lt false then d else m
  | 0x08 => if lt true then m else d
  | 0x09 => if lt false then m else d
  | 0x0A => m &&& d
  | 0x0B => m &&& d
  | 0x0C => m ||| d
  | 0x0D => m ||| d
  | 0x0E => m ^^^ d
  | 0x0F => m ^^^ d
  | 0x10 => d
  | 0x11 => d
  | 0x12 => if m = d % 2 ^ 32 then d / 2 ^ 32 % 2 ^ 32 else m
  | 0x13 => if m = d % 2 ^ 64 then d / 2 ^ 64 % 2 ^ 64 else m
  | 0x14 => (fadd32 0 (fp32.value m) (fp32.value d)).1
  | 0x15 => (fmm fp32 false m d).1
  | 0x16 => (fmm fp32 true m d).1
  | 0x17 => half bfadd
  | 0x18 => half (fun a b => (fmm bf16 false a b).1)
  | _ => half (fun a b => (fmm bf16 true a b).1)

/-- An atomic at its home (05 R112): the old value, or poison with the location unchanged. -/
def State.atomBytes (s : State) (p : Party) (t : Trans) (aop d : Nat) : State × Got :=
  let n := Sys2Proof.Machine.atomBytes aop
  match region t.pa with
  | .mmio _ => (s.violation (partyDie p) (s.ctxOfParty p) (BitVec.ofNat 64 t.pa), none)
  | .peer tgt =>
    s.peerAsk (partyDie p) (s.ctxOfParty p) tgt t.pa (fun a => .peerAtomic tgt a aop (BitVec.ofNat 128 d)) n
  | _ =>
    let s := s.dropOwn p t.pa
    if s.poisoned t.pa then (s, none)
    else
      let m := s.homeRead t.pa n
      ((s.homeWrite (leafMs t.leaf) t.pa n (atomNew aop m (if n = 4 && aop != 0x12 then d % 2 ^ 32 else d))).markHome t, some m)

/-! ## Scratchpad (05 R105, R460) -/

/-- The block and offset a scratchpad address reaches, or none where R105 is broken. A block of the set that has exited is no block that
the set has (DESIGN CHOICE, log entry 88). -/
def State.scratchAt (s : State) (b : Block) (a n : Nat) : Option (Block × Nat) :=
  if a / 2 ^ 24 != 0 || a.testBit 20 then none
  else
    let tgt := if a.testBit 23 then
        s.blocks.find? (fun y => y.launch = b.launch && y.cset = b.cset && y.j = bits a 21 2)
      else some b
    let off := a % 2 ^ 20
    match tgt with
    | some y => if off + n ≤ (s.hdrOfBlock y).scratch then some (y, off) else none
    | none => none

/-- Bytes of a block's scratchpad as a number. -/
def Block.scRead (b : Block) (off n : Nat) : Nat := ofBytes ((List.range n).map (fun i => Sparse.get b.scratch (off + i)))

/-- Whether bytes of a block's scratchpad lie in a poisoned sector. -/
def Block.scPoisoned (b : Block) (off n : Nat) : Bool := b.scPoison.any (fun k => off / 16 ≤ k && k ≤ (off + n - 1) / 16)

/-- Writes bytes that lie in one sector; a whole sector clears its poison (05 R460). -/
def Block.scWrite (b : Block) (off n x : Nat) : Block :=
  { b with
    scratch := Sparse.setAll b.scratch (((List.range n).zip (toBytes n x)).map (fun v => (off + v.1, v.2)))
    scPoison := if n = 16 && off % 16 = 0 then b.scPoison.filter (fun k => k != off / 16) else b.scPoison }

/-! ## Private windows (05 R106, R107) -/

/-- Where a private offset of a lane leads: a VA, or a cause; a wave has no private window (09 R459). -/
def State.privAddr (s : State) (p : Party) (g : Group) (l x n : Nat) (write : Bool) : Except Cause DWord :=
  match p with
  | .group h =>
    match s.blockOf h with
    | none => .error (causeOf 0x07)
    | some b =>
      let hd := s.hdrOfBlock b
      let c := s.ctxOf hd.ctx
      let slot := lookD 0 b.privSlots (32 * g.index + l)
      let va := c.privBase + BitVec.ofNat 64 (slot * c.privStride.toNat + x)
      if hd.privMax < x + n then .error ⟨0x07, 0, va, if write then 1 else 0⟩
      else if g.phwm.toNat < x + n then .error ⟨0x09, 0, va, BitVec.ofNat 64 (x + n)⟩
      else .ok va
  | .wave _ _ => .error (causeOf 0x103)
  | .ranger _ => .error (causeOf 0x01)

/-! ## Breakpoints (12 R285) -/

/-- Whether an access matches a breakpoint entry: kind 1 load, 2 store, 3 atomic. -/
def bkptHits (e : DWord × DWord) (kind : Nat) (va : DWord) (n : Nat) : Bool :=
  let k := (e.2.extractLsb' 1 2).toNat
  let ln := (e.2.extractLsb' 3 6).toNat
  let lo := e.1.toNat / 2 ^ ln * 2 ^ ln
  e.2.getLsbD 0 && ((kind = 3 && k = 3) || (kind = 1 && k % 2 = 1) || (kind = 2 && 2 ≤ k)) && va.toNat < lo + 2 ^ ln && lo < va.toNat + n

/-- The BKPT cause of accesses that completed: the lowest matching lane's VA, the lowest matching entry plus 1. -/
def State.bkptOf (s : State) (p : Party) (kind n : Nat) (l : List (Nat × DWord)) : Option Cause :=
  match s.blockOfParty p with
  | none => none
  | some b =>
    let ix := (List.range b.bkpts.length).zip b.bkpts
    match l.find? (fun lv => b.bkpts.any (fun e => bkptHits e kind lv.2 n)),
        ix.find? (fun ie => l.any (fun lv => bkptHits ie.2 kind lv.2 n)) with
    | some lv, some ie => some ⟨0x16, 0, lv.2, BitVec.ofNat 64 (ie.1 + 1)⟩
    | _, _ => none

/-- A trap after the word has completed in every lane: the lanes stay at the word until TRAPRET (R72). -/
def trapDone (x : Issue) (g : Group) (c : Cause) (s : State) : State :=
  let rest := x.mask &&& ~~~x.active
  let s := s.setGrp x.party { (g.advance x.pc rest x.df [(rest, x.pc + 8)]) with run := none }
  s.raise x.party c x.active x.pc x.word

/-- Ends a memory word: per-lane faults, a breakpoint match, or retirement. -/
def finishAccess (x : Issue) (g : Group) (faults : List LaneFault) (kind n : Nat) (done : List (Nat × DWord)) (s : State) : State :=
  if faults = [] then
    match s.bkptOf x.party kind n done with
    | some c => trapDone x g c s
    | none => retire x g s
  else finishLanes x g faults s

end Sys2Proof.Machine
end

