-- ==== Sys2Proof/Machine/Issue.lean ====
section
/-! DEFINITION. From a party's turn to a word: head selection and runs (spec 03 R47, R50), instruction fetch (03 R69,
15 R324), and what follows a word (12 R286). -/

namespace Sys2Proof.Machine

/-- What a turn comes to: a state, or an instruction to execute for a party (none for an event). -/
inductive Prep where
  | idle (s : State)
  | exec (i : Instr) (s : State) (p : Option Party)

/-! ## Fetch -/

/-- The frame a PC leads to for a party's fetch (15 R324 for a Ranger). -/
def State.fetchPa (s : State) (p : Party) (pc : DWord) : State × Except Cause Trans :=
  if pc.extractLsb' 0 3 != 0 then (s, .error ⟨0x05, 0, pc, 8⟩)
  else match s.resolve p pc needEx with
    | (s, .error f) => (s, .error ⟨f.cause, f.level, pc, 2⟩)
    | (s, .ok t) => (s, .ok t)

/-- The word at a translated PC (03 R69): from the core's instruction cache, or the home; a register or a peer answers a load
of eight bytes (13 R295, R300). Poison is a cause. -/
def State.fetchWord (s : State) (p : Party) (pc : DWord) (t : Trans) : State × Except Cause DWord :=
  if !ownMemory t.pa then match s.loadBytes p t 8 with
    | (s, none) => (s, .error ⟨0x1B, 0, pc, 0⟩)
    | (s, some v) => (s, .ok (BitVec.ofNat 64 v))
  else
    let cached := (partyCore p).bind (fun k =>
      s.code.find? (fun c => c.core = k && c.ctx = s.ctxOfParty p && c.va = pc && c.pa = t.pa))
    match cached with
    | some c => (s, .ok c.word)
    | none =>
      if s.poisoned t.pa then (s, .error ⟨0x1B, 0, pc, 0⟩)
      else
        let r := s.homeFor (partyDie p) (leafMs t.leaf) (leafStrm t.leaf) t.pa 8
        let w := BitVec.ofNat 64 r.2
        match partyCore p with
        | some k => ({ r.1 with code := r.1.code ++ [⟨k, s.ctxOfParty p, pc, t.pa, w⟩] }, .ok w)
        | none => (r.1, .ok w)

/-- The word at a PC for a party: a cause, or the word (03 R69, 16 R352, 15 R324). -/
def State.fetch (s : State) (p : Party) (pc : DWord) : State × Except Cause DWord :=
  match s.fetchPa p pc with
  | (s, .error c) => (s, .error c)
  | (s, .ok t) => s.fetchWord p pc t

/-- The word that the instruction cache or memory holds for a PC, if it can be had. -/
def State.peekWord (s : State) (p : Party) (pc : DWord) : Option DWord :=
  match s.fetchPa p pc with
  | (_, .error _) => none
  | (s, .ok t) =>
    if ownMemory t.pa then (match (s.fetchWord p pc t).2 with
      | .ok w => some w
      | .error _ => none) else none

/-- The copy of the code that a run takes at its start (03 R69): the words from a PC on, up to one with B or one that cannot be
had. -/
def State.codeFrom (s : State) (p : Party) : Nat → DWord → List DWord
  | 0, _ => []
  | n + 1, pc =>
    match s.peekWord p pc with
    | none => []
    | some w => if w.getLsbD 63 then [w] else w :: s.codeFrom p n (pc + 8)

/-- The loop buffer's copy of a run that starts at a PC (03 R69). -/
def State.loopCopy (s : State) (p : Party) (pc : DWord) : Option (List DWord) :=
  match p with
  | .group h => (s.loops.find? (fun l => l.core = h.core && l.part = h.part && l.ctx = s.ctxOfParty p && l.start = pc)).map
      (fun l => l.words)
  | _ => none

/-- Records a run that starts in its partition's loop buffer, which keeps the eight most recently started (03 R69). A run some of whose
words cannot be had when it starts stays out of it, so that no later run mixes copies. -/
def State.noteRun (s : State) (p : Party) (pc : DWord) (code : List DWord) : State :=
  match p with
  | .group h =>
    if code.length < 24 && !(code.getLast?.any (fun w => w.getLsbD 63)) then s
    else
      let ctx := s.ctxOfParty p
      let same := fun (l : LoopRun) => l.core = h.core && l.part = h.part
      let rest := s.loops.filter (fun l => !(same l && l.ctx = ctx && l.start = pc))
      let here := rest.filter same
      let rest := if here.length < 8 then rest else rest.filter (fun l => some l != here.head?)
      { s with loops := rest ++ [⟨h.core, h.part, ctx, pc, code⟩] }
  | _ => s

/-- The lanes that the ILLOP of a word that does not decode names (R71). -/
def illegalLanes (g : Group) (w : DWord) (mask : LaneMask) : LaneMask :=
  decodeLanes g (if w.getLsbD 62 then 0x100 else (w.extractLsb' 54 8).toNat) (guardLanes g (w.extractLsb' 50 4) mask) mask

/-- Takes the next word of a run from the run's copy of the code, or fetches one that could not be had when the run began, decodes it,
and sets up its execution. A run that its loop buffer does not hold passes through the instruction cache as it goes. -/
def prepareWord (p : Party) (g : Group) (e : Entry) (r : Run) (s : State) : Prep :=
  let sw : State × Except Cause DWord := match r.code.drop r.words with
    | w :: _ => (if r.hit then s else (s.fetch p e.pc).1, Except.ok w)
    | [] => s.fetch p e.pc
  let stop := { g.advance e.pc 0 r.df [] with run := none }
  match sw.2 with
  | .error c => .idle ((sw.1.setGrp p stop).raise p c e.mask e.pc 0)
  | .ok w =>
    match decode w with
    | some i => .exec i { sw.1.setGrp p { g with run := some r } with cur := some ⟨p, e.pc, e.mask, r.df, w⟩ } (some p)
    | none =>
      let lanes := illegalLanes g w e.mask
      let rest := e.mask &&& ~~~lanes
      .idle ((sw.1.setGrp p { g.advance e.pc rest r.df [(rest, e.pc + 8)] with run := none }).raise p (causeOf 0x01) lanes e.pc w)

/-- Starts a run at a head entry: it takes its copy of the code and enters the loop buffer (03 R50, R69). -/
def prepareHead (p : Party) (g : Group) (e : Entry) (s : State) : Prep :=
  let s := s.next
  let hit := s.loopCopy p e.pc
  let code := hit.getD (s.codeFrom p 24 e.pc)
  prepareWord p { g with lastIssue := s.fresh } e ⟨0, e.pc, e.df, hit.isSome, code⟩ (s.noteRun p e.pc code)

/-! ## Runs -/

/-- Loads a context's breakpoint table (12 R285). -/
def State.loadBkpts (s : State) (ctx : Nat) : List (DWord × DWord) :=
  let base := s.dev.dbtab.toNat * 2 ^ 20 + 128 * ctx
  (List.range 8).map (fun i => (BitVec.ofNat 64 (s.homeRead (base + 16 * i) 8), BitVec.ofNat 64 (s.homeRead (base + 16 * i + 8) 8)))

/-- What happens at a run boundary: a pending stop, and a reload of the breakpoint table (12 R274, R285). -/
def State.boundary (s : State) (p : Party) : State :=
  match p with
  | .group h =>
    match s.blockOf h with
    | some b => if b.bkReload then
        s.updBlock b.uid (fun b => { b with bkpts := s.loadBkpts (s.hdrOfBlock b).ctx, bkReload := false }) else s
    | none => s
  | _ => s

/-- Whether a party may issue at all: it is not stopped, is past no run boundary while its cluster set is saved (12 R278), waits in no latch, has no waiting word under STEP (12 R286), and is no wave at its limit (09 R198). -/
def State.mayIssue (s : State) (p : Party) (g : Group) : Bool :=
  !g.stopped && !(g.saving && g.run.isNone) && g.latch.isNone && !(g.stepping && g.waits != []) && (match p with
    | .group _ => true
    | .wave u k => s.potluck.waves.any (fun w => w.is u k && w.words < 4096)
    | .ranger n => (nth Ranger.blank s.rangers n).running)

/-- Whether an entry waits in SBRES, SBTAKE or RCLAIM. -/
def Group.held (g : Group) (e : Entry) : Bool := g.waits.any (fun w => w.pc = e.pc)

/-- NONUNIFORM of R65 case 2, at the lowest UWAIT entry. -/
def State.trapUwait (s : State) (p : Party) (g : Group) : State :=
  match lowest (g.tab.filter (fun e => e.st = .uwait)) with
  | none => s
  | some e =>
    let w := match s.fetch p e.pc with
      | (_, .ok w) => w
      | (_, .error _) => 0
    s.raise p ⟨0x0C, 0, 0, 2⟩ g.live e.pc w

/-- The next word of a party: it continues its run, or starts one at its head (R47, R50). -/
def prepareParty (p : Party) (s : State) : Prep :=
  match s.grp? p with
  | none => .idle s
  | some g =>
    if !s.mayIssue p g then .idle s
    else match g.run with
    | some r =>
      match g.tab.find? (fun e => e.pc = r.pc && e.st = .ready) with
      | none => .idle (s.setGrp p { g with run := none })
      | some e =>
        prepareWord p g e r s
    | none =>
      let s := s.boundary p
      if g.stopReq then .idle (s.setGrp p { g with stopped := true, stopReq := false })
      else match g.head with
      | .nonuniform => .idle (s.trapUwait p g)
      | .none => if g.stepping then .idle (s.raise p (causeOf 0x18) 0 ((lowest g.tab).map (fun e => e.pc) |>.getD 0) 0) else .idle s
      | .entry e => if g.held e then .idle s else prepareHead p g e s

/-! ## After a word -/

/-- Counts a wave's issued word (09 R198). -/
def State.countWord (s : State) (p : Party) : State :=
  match p with
  | .wave u k => { s with potluck.waves := updFirst (fun w => w.is u k) (fun w => { w with words := w.words + 1 }) s.potluck.waves }
  | _ => s

/-- What follows a word of a party: a wave's word is counted, and a stepped group stops with cause STEP unless the word
blocked or trapped (12 R286). -/
def finishWord (s : State) : State :=
  match s.cur with
  | none => s
  | some c =>
    let s := if c.mask = 0 then s else s.countWord c.party
    let s := match c.party, s.grp? c.party with
      | .group h, some g => if g.stepping then s.trapGroup h (causeOf 0x18) c.mask c.pc c.word else s
      | _, _ => s
    { s with cur := none }

end Sys2Proof.Machine
end

