-- ==== Sys2Proof/Machine/Place.lean ====
section
/-! DEFINITION. The load of a one-word program from outside the machine: a resident group, its translation and the
word in memory, as bring-up, CTXCREATE and a launch would have left them. -/

namespace Sys2Proof.Machine

/-- Physical and virtual address of the placed word. -/
def placeAddr : Nat := 0x1000

/-- The header of the launch that holds the placed group. -/
def placeHdr : Header :=
  { (default : Header) with
    entry := BitVec.ofNat 64 placeAddr, widths := [0, 0, 0, 0, 0], c := 1, k := 1, ext := [32, 1, 1, 1, 1, 1], ctx := 1
    regq := [64, 0, 0, 0], rmaxq := 64, acct := 16, sbufs := 16, split := 1, scratch := 0x10000 }

/-- A slot buffer that is not configured (05 R113). -/
def SlotBuf.blank : SlotBuf := { cfg := 0, slots := [], pix := 0, pph := false, cix := 0, cph := false }

/-- The placed group: 32 live lanes at the placed word, 512 registers. -/
def placeGroup : Group :=
  { Group.blank with
    alloc := 512, acct := 16, present := 0xFFFFFFFF#32, live := 0xFFFFFFFF#32
    tab := [⟨BitVec.ofNat 64 placeAddr, 0xFFFFFFFF#32, .ready, 0, false, true⟩] }

/-- The placed block. -/
def placeBlock : Block :=
  { uid := 1, launch := 1, cset := 0, j := 0, core := 0, base := 0, scratch := [], scPoison := [], privSlots := []
    free := 0, claims := [], sbufs := List.replicate 16 SlotBuf.blank, groups := [placeGroup], bkpts := []
    bkReload := false, regRes := [512, 0, 0, 0] }

/-- A 1 GiB leaf at VA 0 onto HBM 0 with every permission, accessed and dirty. -/
def placeLeaf : DWord := 0x19F#64

/-- Replaces the machine's work by the placed group and puts the word's bytes in memory. -/
def placeWord (s : State) (nbits w : Nat) : State :=
  { s with
    mem := Sparse.setAll s.mem (((List.range 8).zip (toBytes 8 (w % 2 ^ nbits))).map (fun b => (placeAddr + b.1, b.2)))
    poison := s.poison.filter (fun k => k != placeAddr / 16)
    tlb := [⟨.core 0, 1, 0, 30, 0, placeLeaf, 3⟩]
    code := [], loops := [], frozen := false, cur := none
    ctxs := put s.ctxs 1 { Ctx.blank with valid := true, ceiling := 63 }
    launches := [{ id := 1, hdr := placeHdr, origin := .pool, next := 1, age := 0, reserved := none, stage := .running, staged := [], spilled := 0 }]
    blocks := [placeBlock]
    sched.splits := [(0, 1)]
    agenda := [.issue 0 0] }

end Sys2Proof.Machine
end

