-- ==== Sys2Proof/Machine/Integer.lean ====
section
/-! DEFINITION. Moves, integer arithmetic, bits, shifts, compares, conversions and packing (spec 15 R322; 16 R340, R349,
R355, R360, R361; 17 R388, R391; 18 R397, R401 to R403, R406, R407, R410, R411; 19 R419, R422, R438). -/

namespace Sys2Proof.Machine

/-- A step's answer. -/
abbrev Out := Host.Outcome State Fault Refusal

/-- NOP (18 R403). -/
def execNop (f : FmtV) (s : State) : Out := laneWord (.nop f) (fun x s => retire x x.g s) s

/-- MOV (18 R401): copy, broadcast, or one lane to a scalar. -/
def execMov (f : FmtV) (s : State) : Out :=
  laneWord (.mov f) (fun x s =>
    let n := tyRegs (fnTy f.fn)
    if fnSub f.fn = 0 then aluV f n (fun x l => (srcA f x n l, 0)) x s
    else if fnSub f.fn = 1 then aluOut x false f.dst.toNat 1 (fun _ => ((x.g.sget f.sa.toNat).toNat, 0)) s
    else
      let j := (x.g.sget f.sb.toNat).toNat % 32
      let v := if hasLane x.g.present j then x.g.vget f.sa.toNat j else 0
      retire x (x.g.sset f.dst.toNat v) s) s

/-- MOVL (18 R401). -/
def execMovl (f : FmtL) (s : State) : Out :=
  laneWord (.movl f) (fun x s => aluOut x false f.dst.toNat 1 (fun _ => (f.imm.toNat, 0)) s) s

/-- IADD (17 R388). -/
def execIadd (f : FmtV) (s : State) : Out :=
  laneWord (.iadd f) (intV f (fun a b _ => intResult (fnTy f.fn) (f.fn.getLsbD 0) (a + b))) s

/-- IADDI (17 R388). -/
def execIaddi (f : FmtI) (s : State) : Out :=
  laneWord (.iaddi f) (fun x s =>
    let ty := fnTy f.fn
    aluOut x (fnSk f.fn) f.dst.toNat (tyRegs ty)
      (fun l => intResult ty (f.fn.getLsbD 0) (intOf ty (srcI f x (tyRegs ty) l) + immTy ty f.imm)) s) s

/-- ISUB (17 R388). -/
def execIsub (f : FmtV) (s : State) : Out :=
  laneWord (.isub f) (intV f (fun a b _ => intResult (fnTy f.fn) (f.fn.getLsbD 0) (a - b))) s

/-- IMUL (17 R388). -/
def execImul (f : FmtV) (s : State) : Out :=
  laneWord (.imul f) (intV f (fun a b _ => intResult (fnTy f.fn) (f.fn.getLsbD 0) (a * b))) s

/-- IMULH (17 R388): the high half of the exact product. -/
def execImulh (f : FmtV) (s : State) : Out :=
  laneWord (.imulh f) (intV f (fun a b _ => intResult (fnTy f.fn) false (a * b / ((2 ^ tyWidth (fnTy f.fn) : Nat) : Int)))) s

/-- IMAD (17 R388). -/
def execImad (f : FmtV) (s : State) : Out :=
  laneWord (.imad f) (intV f (fun a b c => intResult (fnTy f.fn) (f.fn.getLsbD 0) (a * b + c))) s

/-- IMIN (17 R388). -/
def execImin (f : FmtV) (s : State) : Out :=
  laneWord (.imin f) (intV f (fun a b _ => intResult (fnTy f.fn) false (if a ≤ b then a else b))) s

/-- IMAX (17 R388). -/
def execImax (f : FmtV) (s : State) : Out :=
  laneWord (.imax f) (intV f (fun a b _ => intResult (fnTy f.fn) false (if a ≤ b then b else a))) s

/-- IABS (17 R388). -/
def execIabs (f : FmtV) (s : State) : Out :=
  laneWord (.iabs f) (intV f (fun a _ _ => intResult (fnTy f.fn) (f.fn.getLsbD 0) a.natAbs)) s

/-- AND (16 R340). -/
def execAnd (f : FmtV) (s : State) : Out := laneWord (.and f) (bitV f (fun a b => a &&& b)) s

/-- ANDI (16 R340). -/
def execAndi (f : FmtI) (s : State) : Out := laneWord (.andi f) (bitI f (fun a b => a &&& b)) s

/-- ANDN (16 R340). -/
def execAndn (f : FmtV) (s : State) : Out := laneWord (.andn f) (bitV f (fun a b => a &&& ~~~b)) s

/-- OR (18 R406). -/
def execOr (f : FmtV) (s : State) : Out := laneWord (.or f) (bitV f (fun a b => a ||| b)) s

/-- ORI (18 R406). -/
def execOri (f : FmtI) (s : State) : Out := laneWord (.ori f) (bitI f (fun a b => a ||| b)) s

/-- XOR (19 R438). -/
def execXor (f : FmtV) (s : State) : Out := laneWord (.xor f) (bitV f (fun a b => a ^^^ b)) s

/-- XORI (19 R438). -/
def execXori (f : FmtI) (s : State) : Out := laneWord (.xori f) (bitI f (fun a b => a ^^^ b)) s

/-- Left shift within the type's width (19 R419). -/
def shlVal (w a c : Nat) : Nat := if w ≤ c then 0 else (a <<< c) % 2 ^ w
/-- Logical right shift (19 R419). -/
def shrVal (w a c : Nat) : Nat := if w ≤ c then 0 else (a % 2 ^ w) >>> c
/-- Arithmetic right shift (19 R419). -/
def sarVal (w a c : Nat) : Nat :=
  let v := toSigned w a
  ofInt w (if w ≤ c then (if v < 0 then -1 else 0) else v / ((2 ^ c : Nat) : Int))

/-- A shift by a register count. -/
def shiftV (f : FmtV) (op : Nat → Nat → Nat → Nat) (x : Issue) (s : State) : State :=
  let n := tyRegs (fnTy f.fn)
  aluV f n (fun x l => (op (tyWidth (fnTy f.fn)) (srcA f x n l) (srcB f x 1 l), 0)) x s

/-- A shift by an immediate count. -/
def shiftI (f : FmtI) (op : Nat → Nat → Nat → Nat) (x : Issue) (s : State) : State :=
  let n := tyRegs (fnTy f.fn)
  aluOut x (fnSk f.fn) f.dst.toNat n (fun l => (op (tyWidth (fnTy f.fn)) (srcI f x n l) f.imm.toNat, 0)) s

/-- SHL (19 R419). -/
def execShl (f : FmtV) (s : State) : Out := laneWord (.shl f) (shiftV f shlVal) s
/-- SHLI (19 R419). -/
def execShli (f : FmtI) (s : State) : Out := laneWord (.shli f) (shiftI f shlVal) s
/-- SHR (19 R419). -/
def execShr (f : FmtV) (s : State) : Out := laneWord (.shr f) (shiftV f shrVal) s
/-- SHRI (19 R419). -/
def execShri (f : FmtI) (s : State) : Out := laneWord (.shri f) (shiftI f shrVal) s
/-- SAR (19 R419). -/
def execSar (f : FmtV) (s : State) : Out := laneWord (.sar f) (shiftV f sarVal) s
/-- SARI (19 R419). -/
def execSari (f : FmtI) (s : State) : Out := laneWord (.sari f) (shiftI f sarVal) s

/-- Width of the field of BFX and BFI (16 R349). -/
def bfWidth (w ctl : Nat) : Nat :=
  let pos := ctl % 128
  if pos < w then (if ctl / 256 % 128 ≤ w - pos then ctl / 256 % 128 else w - pos) else 0

/-- BFX (16 R349). -/
def execBfx (f : FmtV) (s : State) : Out :=
  laneWord (.bfx f) (fun x s =>
    let ty := fnTy f.fn
    let n := tyRegs ty
    aluV f n (fun x l =>
      let ctl := srcB f x 1 l
      let w := bfWidth (tyWidth ty) ctl
      if w = 0 then (0, 0)
      else
        let v := (srcA f x n l >>> (ctl % 128)) % 2 ^ w
        (if tySigned ty then ofInt (tyWidth ty) (toSigned w v) else v, 0)) x s) s

/-- BFI (16 R349). -/
def execBfi (f : FmtV) (s : State) : Out :=
  laneWord (.bfi f) (fun x s =>
    let ty := fnTy f.fn
    let n := tyRegs ty
    aluV f n (fun x l =>
      let ctl := srcC f x 1 l
      let w := bfWidth (tyWidth ty) ctl
      let pos := ctl % 128
      let base := srcB f x n l
      if w = 0 then (base, 0)
      else
        let field := (2 ^ w - 1) <<< pos
        ((base &&& ((2 ^ 64 - 1) ^^^ field)) ||| ((srcA f x n l % 2 ^ w) <<< pos), 0)) x s) s

/-- POPC (18 R411). -/
def execPopc (f : FmtV) (s : State) : Out :=
  laneWord (.popc f) (fun x s =>
    aluV f 1 (fun x l => (popcount 64 (srcA f x (tyRegs (fnTy f.fn)) l), 0)) x s) s

/-- CLZ (16 R355). -/
def execClz (f : FmtV) (s : State) : Out :=
  laneWord (.clz f) (fun x s =>
    let w := tyWidth (fnTy f.fn)
    aluV f 1 (fun x l =>
      let a := srcA f x (tyRegs (fnTy f.fn)) l
      (if a = 0 then w else w - 1 - Nat.log2 a, 0)) x s) s

/-- PERMB (18 R410). -/
def execPermb (f : FmtV) (s : State) : Out :=
  laneWord (.permb f) (aluV f 1 (fun x l =>
    let q := srcB f x 1 l * 2 ^ 32 + srcA f x 1 l
    let c := srcC f x 1 l
    let byte := fun i => if bits c (4 * i + 3) 1 = 1 then 0 else bits q (8 * bits c (4 * i) 3) 8
    (byte 0 + 256 * byte 1 + 65536 * byte 2 + 16777216 * byte 3, 0))) s

/-- LEA (18 R397). -/
def execLea (f : FmtV) (s : State) : Out :=
  laneWord (.lea f) (aluV f 2 (fun x l =>
    let b := srcB f x 1 l
    let e := if fnTy f.fn = 2 then ofInt 64 (toSigned 32 b) else b
    ((srcA f x 2 l + e <<< fnSub f.fn) % 2 ^ 64, 0))) s

/-- The integer comparisons of 17 R373. -/
def icmp (code ty : Nat) (a b : Int) : Bool :=
  match code with
  | 0 => a = b
  | 1 => a ≠ b
  | 2 => a < b
  | 3 => a ≤ b
  | 4 => b < a
  | 5 => b ≤ a
  | _ => ofInt (tyWidth ty) a &&& ofInt (tyWidth ty) b ≠ 0

/-- ISETP (17 R391). -/
def execIsetp (f : FmtV) (s : State) : Out :=
  laneWord (.isetp f) (fun x s =>
    let ty := fnTy f.fn
    let n := tyRegs ty
    predOut x f.dst.toNat (fun l =>
      (icmp (fnSub f.fn) ty (intOf ty (srcA f x n l)) (intOf ty (srcB f x n l)) && predAt x.g f.sc.toNat l, 0)) s) s

/-- ISETPI (17 R391). -/
def execIsetpi (f : FmtI) (s : State) : Out :=
  laneWord (.isetpi f) (fun x s =>
    let ty := fnTy f.fn
    predOut x f.dst.toNat
      (fun l => (icmp (fnSub f.fn) ty (intOf ty (srcI f x (tyRegs ty) l)) (immTy ty f.imm), 0)) s) s

/-- SEL (19 R422). -/
def execSel (f : FmtV) (s : State) : Out :=
  laneWord (.sel f) (fun x s =>
    let n := tyRegs (fnTy f.fn)
    aluV f n (fun x l => (if predAt x.g f.sc.toNat l then srcA f x n l else srcB f x n l, 0)) x s) s

/-- A conversion by type codes, placed in the destination register or pair (16 R361). -/
def cvtV (f : FmtV) (x : Issue) (s : State) : State :=
  let dty := fnTy f.fn
  let sty := f.sc.toNat
  aluV f (tyRegs dty) (fun x l =>
    let r := convert dty sty (fnRm f.fn) (f.fn.getLsbD 0) (srcA f x (tyRegs sty) l)
    (placeTy dty r.1, r.2)) x s

/-- CVTI (16 R361). -/
def execCvti (f : FmtV) (s : State) : Out := laneWord (.cvti f) (cvtV f) s
/-- CVTF (16 R361). -/
def execCvtf (f : FmtV) (s : State) : Out := laneWord (.cvtf f) (cvtV f) s

/-- PACK's element of a value, with its flags (18 R407). -/
def packElem (dty rm x : Nat) : Nat × Flags :=
  if tyFloat dty then convert dty 8 rm false x else convert dty 0 0 true x

/-- UNPACK's value of an element, with its flags (18 R407). -/
def unpackElem (sty e : Nat) : Nat × Flags :=
  if tyFloat sty then convert 8 sty 0 false e else (placeTy sty e % 2 ^ 32, 0)

/-- PACK (18 R407). -/
def execPack (f : FmtV) (s : State) : Out :=
  laneWord (.pack f) (fun x s =>
    let w := packWidth (fnTy f.fn)
    let pos := w * fnSub f.fn
    aluV f 1 (fun x l =>
      let e := packElem (fnTy f.fn) (fnRm f.fn) (srcA f x 1 l)
      ((srcB f x 1 l &&& ((2 ^ 32 - 1) ^^^ ((2 ^ w - 1) <<< pos))) ||| ((e.1 % 2 ^ w) <<< pos), e.2)) x s) s

/-- UNPACK (18 R407). -/
def execUnpack (f : FmtV) (s : State) : Out :=
  laneWord (.unpack f) (fun x s =>
    let w := packWidth (fnTy f.fn)
    aluV f 1 (fun x l => unpackElem (fnTy f.fn) (bits (srcA f x 1 l) (w * fnSub f.fn) w)) x s) s

/-- MSK (18 R402): writes a mask or reads one, then re-evaluates parked masks. -/
def execMsk (f : FmtV) (s : State) : Out :=
  laneWord (.msk f) (fun x s =>
    let d := f.dst.toNat
    let a := f.sa.toNat
    let b := f.sb.toNat
    let g := match fnSub f.fn with
      | 0 => x.g.mset d (x.g.pget a &&& x.active)
      | 1 => x.g.mset d ((x.g.mget d &&& ~~~x.active) ||| (x.g.pget a &&& x.active))
      | 2 => x.g.mset d (x.g.sget a)
      | 3 => x.g.mset d (x.g.mget a &&& x.g.mget b)
      | 4 => x.g.mset d (x.g.mget a ||| x.g.mget b)
      | 5 => x.g.mset d (x.g.mget a &&& ~~~x.g.mget b)
      | 6 => x.g.mset d (x.g.mget a ^^^ x.g.mget b)
      | _ => x.g.sset d (x.g.mget a)
    retire x g.reeval s) s

end Sys2Proof.Machine
end

