-- ==== Sys2Proof/Machine/Float.lean ====
section
/-! DEFINITION. Vector floating point, dot products and dual words (spec 04 R95 to R100; 17 R366 to R373, R384 to R387;
14 R310, R311; 15 R325). -/

namespace Sys2Proof.Machine

/-- The FP32 value of a register's bits. -/
def f32 (x : Nat) : FV := fp32.value x

/-- FADD (17 R366). -/
def execFadd (f : FmtV) (s : State) : Out :=
  laneWord (.fadd f) (aluV f 1 (fun x l =>
    fadd32 (fnRm f.fn) ((f32 (srcA f x 1 l)).flipIf (f.fn.getLsbD 1)) ((f32 (srcB f x 1 l)).flipIf (f.fn.getLsbD 0)))) s

/-- FMUL (17 R366). -/
def execFmul (f : FmtV) (s : State) : Out :=
  laneWord (.fmul f) (aluV f 1 (fun x l =>
    fmul32 (fnRm f.fn) (f32 (srcA f x 1 l)) ((f32 (srcB f x 1 l)).flipIf (f.fn.getLsbD 0)))) s

/-- FFMA (17 R366). -/
def execFfma (f : FmtV) (s : State) : Out :=
  laneWord (.ffma f) (aluV f 1 (fun x l =>
    ffma32 (fnRm f.fn) (f.fn.getLsbD 0) (f32 (srcA f x 1 l)) (f32 (srcB f x 1 l))
      ((f32 (srcC f x 1 l)).flipIf (f.fn.getLsbD 1)))) s

/-- FMIN (17 R367). -/
def execFmin (f : FmtV) (s : State) : Out :=
  laneWord (.fmin f) (aluV f 1 (fun x l => fmm fp32 false (srcA f x 1 l) (srcB f x 1 l))) s

/-- FMAX (17 R367). -/
def execFmax (f : FmtV) (s : State) : Out :=
  laneWord (.fmax f) (aluV f 1 (fun x l => fmm fp32 true (srcA f x 1 l) (srcB f x 1 l))) s

/-- FSETP (17 R373). -/
def execFsetp (f : FmtV) (s : State) : Out :=
  laneWord (.fsetp f) (fun x s =>
    predOut x f.dst.toNat (fun l =>
      let r := fcmp (fnSub f.fn) (f32 (srcA f x 1 l)) (f32 (srcB f x 1 l))
      (r.1 && predAt x.g f.sc.toNat l, r.2)) s) s

/-- A transcendental producer (17 R371): computed at issue, written and flagged at completion. -/
def transV (f : FmtV) (op : FV → Nat × Flags) (x : Issue) (s : State) : State :=
  if fnSk f.fn then
    let r := op (f32 (srcA f x 1 0))
    let p := { scaProducer s.fresh .transcendental f.dst.toNat (BitVec.ofNat 32 r.1) with fp := r.2 }
    retire x (x.g.issue p) s.next
  else
    let res := x.lanes.map (fun l => (l, op (f32 (srcA f x 1 l))))
    let p := vecProducer s.fresh .transcendental f.dst.toNat 1 (res.map (fun r => (r.1, r.2.1)))
      (orFlags (res.map (fun r => r.2.2)))
    retire x (x.g.issue p) s.next

/-- FRCP (17 R371, R95). -/
def execFrcp (f : FmtV) (s : State) : Out := laneWord (.frcp f) (transV f (frcp32 (fnRm f.fn))) s
/-- FRSQ (17 R371, R95). -/
def execFrsq (f : FmtV) (s : State) : Out := laneWord (.frsq f) (transV f (frsq32 (fnRm f.fn))) s
/-- FEXP2 (17 R371, R96). -/
def execFexp2 (f : FmtV) (s : State) : Out := laneWord (.fexp2 f) (transV f fexp2) s
/-- FLOG2 (17 R371, R97). -/
def execFlog2 (f : FmtV) (s : State) : Out := laneWord (.flog2 f) (transV f flog2) s

/-- Elements of w bits of a 32-bit register, lowest first. -/
def elems (w n x : Nat) : List Nat := (List.range n).map (fun i => bits x (w * i) w)

/-- A floating-point dot product as one K-block (17 R369). -/
def fdotVal (fa fb : Fmt) (n a b c : Nat) : Nat × Flags :=
  kblockPairs fp32 (f32 c) (((elems fa.width n a).map fa.value).zip ((elems fb.width n b).map fb.value)) 127 127

/-- FDOT2 (17 R369). -/
def execFdot2 (f : FmtV) (s : State) : Out :=
  laneWord (.fdot2 f) (aluV f 1 (fun x l =>
    fdotVal (tyFmt (fnTy f.fn)) (tyFmt (fnTy f.fn)) 2 (srcA f x 1 l) (srcB f x 1 l) (srcC f x 1 l))) s

/-- FDOT4 (17 R369). -/
def execFdot4 (f : FmtV) (s : State) : Out :=
  laneWord (.fdot4 f) (aluV f 1 (fun x l =>
    let other := if fnTy f.fn = 11 then e5m2 else e4m3
    fdotVal (tyFmt (fnTy f.fn)) (if f.fn.getLsbD 0 then other else tyFmt (fnTy f.fn)) 4
      (srcA f x 1 l) (srcB f x 1 l) (srcC f x 1 l))) s

/-- One half of HFMA2: the block of one product added to c in the type's format (17 R387). -/
def hfmaHalf (ft : Fmt) (a b c : Nat) : Nat × Flags := kblockPairs ft (ft.value c) [(ft.value a, ft.value b)] 127 127

/-- HFMA2 (17 R387). -/
def execHfma2 (f : FmtV) (s : State) : Out :=
  laneWord (.hfma2 f) (aluV f 1 (fun x l =>
    let ft := tyFmt (fnTy f.fn)
    let h := fun i => hfmaHalf ft (bits (srcA f x 1 l) (16 * i) 16) (bits (srcB f x 1 l) (16 * i) 16)
      (bits (srcC f x 1 l) (16 * i) 16)
    ((h 0).1 + 65536 * (h 1).1, (h 0).2 ||| (h 1).2))) s

/-- Exact sum of a list of integers. -/
def isum (l : List Int) : Int := l.foldl (fun a b => a + b) 0

/-- The four bytes of a register, signed or unsigned. -/
def bytesOf (unsigned : Bool) (x : Nat) : List Int := (elems 8 4 x).map (fun e => intOf (if unsigned then 7 else 6) e)

/-- IDP4's exact sum (17 R384). -/
def idp4Sum (ua ub : Bool) (a b : Nat) : Int :=
  isum (((bytesOf ua a).zip (bytesOf ub b)).map (fun p => p.1 * p.2))

/-- IDP4 (17 R384). -/
def execIdp4 (f : FmtV) (s : State) : Out :=
  laneWord (.idp4 f) (aluV f 1 (fun x l =>
    dotResult (idp4Sum (f.fn.getLsbD 0) (f.fn.getLsbD 1) (srcA f x 1 l) (srcB f x 1 l) + toSigned 32 (srcC f x 1 l)))) s

/-- The eight I4 elements of a register as values. -/
def i4Values (x : Nat) : List FV := (elems 4 8 x).map (fun e => fvInt (toSigned 4 e))

/-- The I4O elements of a register's four bytes as values, with FMT (R83). -/
def i4oValues (x : Nat) : List FV × Flags := i4o (elems 8 4 x)

/-- IDP8's result (17 R385). -/
def idp8Val (o ob : Bool) (a b c : Nat) : Nat × Flags :=
  if o then
    let va := i4oValues a
    let vb := if ob then i4oValues b else (i4Values b, 0)
    let r := kblockPairs fp32 (f32 c) (va.1.zip vb.1) 127 127
    (r.1, r.2 ||| va.2 ||| vb.2)
  else
    dotResult (isum (((elems 4 8 a).zip (elems 4 8 b)).map (fun p => toSigned 4 p.1 * toSigned 4 p.2)) + toSigned 32 c)

/-- IDP8 (17 R385). -/
def execIdp8 (f : FmtV) (s : State) : Out :=
  laneWord (.idp8 f) (aluV f 1 (fun x l =>
    idp8Val (fnTy f.fn = 15) (f.fn.getLsbD 0) (srcA f x 1 l) (srcB f x 1 l) (srcC f x 1 l))) s

/-- ISQD4's exact sum (17 R384). -/
def isqd4Sum (u : Bool) (a b : Nat) : Int :=
  isum (((bytesOf u a).zip (bytesOf u b)).map (fun p => (p.1 - p.2) * (p.1 - p.2)))

/-- ISQD4 (17 R384). -/
def execIsqd4 (f : FmtV) (s : State) : Out :=
  laneWord (.isqd4 f) (aluV f 1 (fun x l =>
    dotResult (isqd4Sum (f.fn.getLsbD 0) (srcA f x 1 l) (srcB f x 1 l) + toSigned 32 (srcC f x 1 l)))) s

/-- HAMD (17 R384). -/
def execHamd (f : FmtV) (s : State) : Out :=
  laneWord (.hamd f) (fun x s =>
    let n := tyRegs (fnTy f.fn)
    aluV f 1 (fun x l => dotResult ((popcount 64 (srcA f x n l ^^^ srcB f x n l) : Int) + toSigned 32 (srcC f x 1 l))) x s) s

/-! ## Dual words (14 R310, R311) -/

/-- A half's result on 32-bit operands (14 R311). -/
def halfVal (hop : Nat) (u : Bool) (d h : Nat) : Nat × Flags :=
  let a := toSigned 32 d
  let b := toSigned 32 h
  let lt : Bool := if u then d < h else a < b
  match hop with
  | 0x01 => (ofInt 32 (a + b), 0)
  | 0x02 => (ofInt 32 (a - b), 0)
  | 0x03 => (ofInt 32 (a * b), 0)
  | 0x04 => (if lt then d else h, 0)
  | 0x05 => (if lt then h else d, 0)
  | 0x06 => (d &&& h, 0)
  | 0x07 => (d ||| h, 0)
  | 0x08 => (d ^^^ h, 0)
  | 0x09 => (shlVal 32 d h, 0)
  | 0x0A => (shrVal 32 d h, 0)
  | 0x0B => (sarVal 32 d h, 0)
  | 0x0C => (h, 0)
  | 0x0D => fadd32 0 (f32 d) (f32 h)
  | 0x0E => fmul32 0 (f32 d) (f32 h)
  | 0x0F => fmm fp32 false d h
  | 0x10 => fmm fp32 true d h
  | 0x11 => dotResult (idp4Sum false false d h)
  | 0x12 => (popcount 32 (d ^^^ h), 0)
  | _ => (popcount 32 h, 0)

/-- Lanes in which a half acts: its guard predicate in the executing lanes. -/
def halfLanes (x : Issue) (h : Half) : LaneMask := x.g.pget h.hg.toNat &&& x.mask

/-- A half's results by lane. -/
def halfResults (x : Issue) (h : Half) : List (Nat × Nat × Flags) :=
  (lanesOf (halfLanes x h)).map (fun l =>
    (l, halfVal h.hop.toNat h.u (x.g.vget h.hd.toNat l).toNat
      (if h.imm then h.hs.toNat else (x.g.vget h.hs.toNat l).toNat)))

/-- Both halves read, then both write (03 R55). -/
def dualBody (d : Dual) (x : Issue) (s : State) : State :=
  let r0 := halfResults x d.h0
  let r1 := halfResults x d.h1
  let g := r0.foldl (fun g r => g.vset d.h0.hd.toNat r.1 (BitVec.ofNat 32 r.2.1)) x.g
  let g := r1.foldl (fun g r => g.vset d.h1.hd.toNat r.1 (BitVec.ofNat 32 r.2.1)) g
  retire x (g.addFp (orFlags ((r0 ++ r1).map (fun r => r.2.2)))) s

/-- DUAL_WORD (14 R310, R311, 03 R55). Its active lanes are those in which a half acts; a word in which no half acts in any
lane performs nothing (16 R333). Both halves read HD and, without an immediate, HS, whatever their operation and their guards:
an empty one blocks the word or raises EMPTYREAD (R55). -/
def execDualWord (d : Dual) (s : State) : Out :=
  laneWord (.dualWord d) (fun x s =>
    let act := halfLanes x d.h0 ||| halfLanes x d.h1
    if act = 0 then retire x x.g s
    else checkedOps { x with active := act } (specDual d).ops (dualBody d) s) s

end Sys2Proof.Machine
end

