-- ==== Sys2Proof/Machine/Lanes.lean ====
section
/-! DEFINITION. Exchange among the lanes of a group (spec 03 R66 to R68; 04 R101, R102; 16 R356; 17 R379, R381 to R383;
18 R398, R417; 19 R423, R434). -/

namespace Sys2Proof.Machine

/-- Writes 64-bit values to a register or pair of listed lanes. -/
def putLanes (g : Group) (dst cnt : Nat) (l : List (Nat × Nat)) : Group :=
  l.foldl (fun g lv => g.vsetN dst cnt lv.1 (BitVec.ofNat 64 lv.2)) g

/-- Source lane of SHFL (19 R423). -/
def shflSrc (mode l b : Nat) : Nat :=
  match mode with
  | 0 => b % 32
  | 1 => if b ≤ l then l - b else l
  | 2 => if l + b ≤ 31 then l + b else l
  | _ => l ^^^ (b % 32)

/-- SHFL (19 R423). -/
def execShfl (f : FmtV) (s : State) : Out :=
  laneWord (.shfl f) (fun x s =>
    let n := tyRegs (fnTy f.fn)
    let vals := x.lanes.map (fun l =>
      let j := shflSrc (fnSub f.fn) l (srcB f x 1 l)
      (l, srcA f x n (if hasLane x.active j then j else l)))
    retire x (putLanes x.g f.dst.toNat n vals) s) s

/-- The identity of a reduction (04 R101). -/
def redId (ty op : Nat) : Nat :=
  if ty = 8 then (match op with
    | 0 => 0x80000000
    | 1 => 0x7F800000
    | _ => 0xFF800000)
  else match op with
    | 1 => ofInt (tyWidth ty) (tyMax ty)
    | 2 => ofInt (tyWidth ty) (tyMin ty)
    | 3 => 2 ^ tyWidth ty - 1
    | _ => 0

/-- One combination of a reduction or scan, with sticky flags (04 R101, R102). -/
def redOp (ty op : Nat) (a b : Nat × Flags) : Nat × Flags :=
  let fl := a.2 ||| b.2
  if ty = 8 then
    let r := match op with
      | 0 => fadd32 0 (f32 a.1) (f32 b.1)
      | 1 => fmm fp32 false a.1 b.1
      | _ => fmm fp32 true a.1 b.1
    (r.1, r.2 ||| fl)
  else
    let i := intOf ty a.1
    let j := intOf ty b.1
    (match op with
      | 0 => ofInt (tyWidth ty) (i + j)
      | 1 => if i ≤ j then a.1 else b.1
      | 2 => if i ≤ j then b.1 else a.1
      | 3 => a.1 &&& b.1
      | 4 => a.1 ||| b.1
      | _ => a.1 ^^^ b.1, fl)

/-- The 32 values of a reduction: active lanes' sources, identities elsewhere. -/
def redIn (f : FmtV) (x : Issue) (ty op : Nat) : List (Nat × Flags) :=
  (List.range 32).map (fun l => (if hasLane x.active l then srcA f x (tyRegs ty) l else redId ty op, 0))

/-- GRED (17 R381). -/
def execGred (f : FmtV) (s : State) : Out :=
  laneWord (.gred f) (fun x s =>
    let ty := fnTy f.fn
    let r := (tree (redOp ty (fnSub f.fn)) (redIn f x ty (fnSub f.fn))).headD (0, 0)
    retire x ((putLanes x.g f.dst.toNat (tyRegs ty) (x.lanes.map (fun l => (l, r.1)))).addFp r.2) s) s

/-- A floating-point result as delivered: a NaN is the canonical one (04 R87). -/
def canonOf (ty v : Nat) : Nat := if ty = 8 && (fp32.value v).isNan then 0x7FC00000 else v

/-- One combination of a scan at a position, which keeps the flags of its own combinations only (04 R88, R102). -/
def scanOp (ty op : Nat) (a b : Nat × Flags) : Nat × Flags := redOp ty op (a.1, 0) b

/-- The 32 values of a scan: a signalling NaN is invalid in the lane that holds it (04 R87). -/
def scanIn (f : FmtV) (x : Issue) (ty op : Nat) : List (Nat × Flags) :=
  (redIn f x ty op).map (fun v => (v.1, fif (ty = 8 && (fp32.value v.1).isSnan) fNV))

/-- The value that GSCAN delivers to a lane (04 R102). -/
def scanAt (ty op : Nat) (excl : Bool) (y : List (Nat × Flags)) (l : Nat) : Nat :=
  canonOf ty (if excl then (if l = 0 then redId ty op else (nth (0, 0) y (l - 1)).1) else (nth (0, 0) y l).1)

/-- GSCAN (17 R382). Lanes that do not execute set no flag (04 R88). -/
def execGscan (f : FmtV) (s : State) : Out :=
  laneWord (.gscan f) (fun x s =>
    let ty := fnTy f.fn
    let op := fnSub f.fn % 4
    let y := scan (scanOp ty op) (scanIn f x ty op)
    retire x ((putLanes x.g f.dst.toNat 1 (x.lanes.map (fun l => (l, scanAt ty op (f.fn.getLsbD 2) y l)))).addFp
      (orFlags (x.lanes.map (fun l => (nth (0, 0) y l).2)))) s) s

/-- Lanes of `active` in which a predicate is true. -/
def voteSet (x : Issue) (p : Nat) : LaneMask := x.g.pget p &&& x.active

/-- VOTE (19 R434). -/
def execVote (f : FmtV) (s : State) : Out :=
  laneWord (.vote f) (fun x s =>
    let q := voteSet x f.sa.toNat
    let d := f.dst.toNat
    let all := fun (b : Bool) => if b then x.active else 0
    let g := match fnSub f.fn with
      | 0 => x.g.sset d q
      | 1 => putLanes x.g d 1 (x.lanes.map (fun l => (l, q.toNat)))
      | 2 => x.g.pset d x.active (all (q != 0))
      | 3 => x.g.pset d x.active (all (q = x.active))
      | _ => x.g.pset d x.active (all (q = 0 || q = x.active))
    retire x g s) s

/-- MATCH (18 R398). -/
def execMatchL (f : FmtV) (s : State) : Out :=
  laneWord (.matchL f) (fun x s =>
    let n := tyRegs (fnTy f.fn)
    let vals := x.lanes.map (fun l => (l, (maskOf (x.lanes.filter (fun j => srcA f x n j = srcA f x n l))).toNat))
    retire x (putLanes x.g f.dst.toNat 1 vals) s) s

/-- COMPACT (16 R356). -/
def execCompact (f : FmtV) (s : State) : Out :=
  laneWord (.compact f) (fun x s =>
    let n := tyRegs (fnTy f.fn)
    let p := x.lanes.filter (fun l => predAt x.g f.sb.toNat l)
    let src := p.map (fun l => srcA f x n l)
    let vals := (x.lanes.zip (List.range x.lanes.length)).map (fun lj => (lj.1, nth 0 src lj.2))
    retire x ((putLanes x.g f.dst.toNat n vals).sset f.sc.toNat (BitVec.ofNat 32 p.length)) s) s

/-! ## Sorting (17 R379, R383) -/

/-- A key and payload pair. -/
structure KeyPair where
  key : Nat
  pay : Nat
  deriving DecidableEq, Repr, Inhabited

/-- Whether a key is a NaN of the key type. -/
def keyNan (ty key : Nat) : Bool := ty = 8 && (f32 key).isNan

/-- Strict order of keys of a type; −0 equals +0. -/
def keyLt (ty a b : Nat) : Bool := if ty = 8 then fvLt false (f32 a) (f32 b) else intOf ty a < intOf ty b

/-- Order of pairs: key (descending under desc), then payload; NaN keys last. -/
def pairLe (ty : Nat) (desc : Bool) (a b : KeyPair) : Bool :=
  let na := keyNan ty a.key
  let nb := keyNan ty b.key
  if na || nb then (if na && nb then a.pay ≤ b.pay else nb)
  else
    let lt := if desc then keyLt ty b.key a.key else keyLt ty a.key b.key
    let gt := if desc then keyLt ty a.key b.key else keyLt ty b.key a.key
    lt || (!gt && a.pay ≤ b.pay)

/-- GSORT (17 R383): a stable sort of all present lanes' pairs. -/
def execGsort (f : FmtV) (s : State) : Out :=
  laneWord (.gsort f) (fun x s =>
    let lanes := lanesOf x.g.present
    let ps := lanes.map (fun l => (⟨srcA f x 1 l, srcB f x 1 l⟩ : KeyPair))
    let out := sortBy (pairLe (fnTy f.fn) (f.fn.getLsbD 0)) ps
    let g := (lanes.zip out).foldl (fun g lp =>
      (g.vset f.dst.toNat lp.1 (BitVec.ofNat 32 lp.2.key)).vset (f.dst.toNat + 1) lp.1 (BitVec.ofNat 32 lp.2.pay)) x.g
    retire x g s) s

/-- The pair that stands for no entry (17 R379). -/
def emptyPair (ty : Nat) : KeyPair := ⟨if ty = 8 then 0x7F800000 else if ty = 0 then 0x7FFFFFFF else 0xFFFFFFFF, 0xFFFFFFFF⟩

/-- GMERGEK (17 R379). -/
def execGmergek (f : FmtV) (s : State) : Out :=
  laneWord (.gmergek f) (fun x s =>
    let ty := fnTy f.fn
    let pick := fun (r : Nat) => x.lanes.map (fun l => (⟨(x.g.vget r l).toNat, (x.g.vget (r + 1) l).toNat⟩ : KeyPair))
    let l := sortBy (pairLe ty false) ((pick f.sa.toNat ++ pick f.sb.toNat).filter (fun p => !keyNan ty p.key))
    let n := x.lanes.length
    let k := (x.g.sget f.sc.toNat).toNat
    let k := if k ≤ n then k else n
    let vals := (x.lanes.zip (List.range n)).map (fun lj =>
      let p := if lj.2 < k then nth (emptyPair ty) l lj.2 else emptyPair ty
      (lj.1, p.key + 2 ^ 32 * p.pay))
    retire x (putLanes x.g f.dst.toNat 2 vals) s) s

/-! ## Regrouping (03 R67, R68, 18 R417) -/

/-- RGPUT (18 R417): all records or none, within the core's 256. -/
def execRgput (f : FmtV) (s : State) : Out :=
  laneWord (.rgput f) (fun x s =>
    match s.blockOfParty x.party with
    | none => trapWord x (causeOf 0x01) x.active s
    | some b =>
      let p := x.lanes.filter (fun l => predAt x.g f.sb.toNat l)
      let used := (s.sched.records.filter (fun r => r.1 = b.core)).length
      if 256 < used + p.length then
        retire x (x.g.sset f.dst.toNat (BitVec.ofNat 32 (0x80000000 + p.length))) s
      else
        let recs := p.map (fun l => (b.core, (⟨(List.range (rgWin f.fn)).map (fun i => x.g.vget (f.sa.toNat + i) l),
          nth 0 x.g.wids l, if (s.hdrOfBlock b).det then nth 0 x.g.seqs l else 0, b.uid⟩ : RgRec)))
        retire x (x.g.sset f.dst.toNat (BitVec.ofNat 32 p.length)) { s with sched.records := s.sched.records ++ recs }) s

/-- RGTAKE (18 R417, 03 R68). -/
def execRgtake (f : FmtV) (s : State) : Out :=
  laneWord (.rgtake f) (fun x s =>
    match s.blockOfParty x.party with
    | none => trapWord x (causeOf 0x01) x.active s
    | some b =>
      let det := (s.hdrOfBlock b).det
      let mine := (s.sched.records.filter (fun r => r.1 = b.core && r.2.blk = b.uid)).map (fun r => r.2)
      let m := if mine.length ≤ x.lanes.length then mine.length else x.lanes.length
      let g := (x.lanes.zip (mine.take m)).foldl (fun (g : Group) lr =>
        let g := (List.range (rgWin f.fn)).foldl (fun g i => g.vset (f.sa.toNat + i) lr.1 (nth 0 lr.2.regs i)) g
        { g with wids := setNth g.wids lr.1 lr.2.wid, seqs := if det then setNth g.seqs lr.1 lr.2.seq else g.seqs }) x.g
      let rest := (s.sched.records.foldl (fun (acc : List (Nat × RgRec) × Nat) r =>
        if acc.2 < m && r.1 = b.core && r.2.blk = b.uid then (acc.1, acc.2 + 1) else (acc.1 ++ [r], acc.2)) ([], 0)).1
      retire x (g.sset f.dst.toNat (BitVec.ofNat 32 m)) { s with sched.records := rest }) s

end Sys2Proof.Machine
end

