-- ==== Sys2Proof/Machine/Generators.lean ====
section
/-! DEFINITION. Operand generators: register fields, checks, keys, values and conversion (spec 08 R181 to R190; 17 R377,
R378). -/

namespace Sys2Proof.Machine

/-! ## Register fields (R181) -/

/-- A generator register. -/
abbrev Gen := BitVec 256

/-- KIND. -/
def genKind (g : Gen) : Nat := (g.extractLsb' 0 4).toNat
/-- FMT. -/
def genFmt (g : Gen) : Nat := (g.extractLsb' 4 4).toNat
/-- SCOPE. -/
def genScope (g : Gen) : Nat := (g.extractLsb' 8 6).toNat
/-- ADDITIVE. -/
def genAdditive (g : Gen) : Bool := g.getLsbD 14
/-- ADV. -/
def genAdv (g : Gen) : Bool := g.getLsbD 15
/-- SALT. -/
def genSalt (g : Gen) : Nat := (g.extractLsb' 16 16).toNat
/-- SEED. -/
def genSeed (g : Gen) : DWord := g.extractLsb' 32 64
/-- ROW0. -/
def genRow0 (g : Gen) : Word := g.extractLsb' 96 32
/-- COL0. -/
def genCol0 (g : Gen) : Word := g.extractLsb' 128 32
/-- SCALE, an FP32 code. -/
def genScale (g : Gen) : Nat := (g.extractLsb' 160 32).toNat
/-- PARAM. -/
def genParam (g : Gen) : Nat := (g.extractLsb' 192 32).toNat
/-- DIM. -/
def genDim (g : Gen) : Nat := (g.extractLsb' 224 16).toNat

/-- The 256-bit value of eight words, word 0 lowest. -/
def genOfWords (ws : List Word) : Gen :=
  BitVec.ofNat 256 ((ws.zip (List.range 8)).foldl (fun a w => a + w.1.toNat * 2 ^ (32 * w.2)) 0)

/-- A register with ROW0 or COL0 replaced. -/
def genSetWord (g : Gen) (w : Nat) (v : Word) : Gen :=
  (g &&& ~~~(0xFFFFFFFF#256 <<< (32 * w))) ||| (v.setWidth 256 <<< (32 * w))

/-- The advance of a register after a use over K (R189). -/
def genAdvance (g : Gen) (t : Bool) (k : Nat) : Gen :=
  if !genAdv g then g
  else if t then genSetWord g 4 (genCol0 g + BitVec.ofNat 32 k) else genSetWord g 3 (genRow0 g + BitVec.ofNat 32 k)

/-- The content checks of R182. -/
def genValid (g : Gen) : Bool :=
  genKind g < 8 && genFmt g < 7 && (g.extractLsb' 240 16) = 0 &&
    (genKind g != 4 || (genDim g % 2 = 0 && genDim g != 0 && genDim g ≤ 512 &&
      fvLt false (.fin false 1 0) (fp32.value (genParam g)) && !(fp32.value (genParam g)).isInf))

/-! ## Keys and hashes (R184, R185) -/

/-- The mixing function (R184). -/
def gmix (x : DWord) : DWord :=
  let x := (x ^^^ (x >>> 31)) * 0x7FB5D329728EA185#64
  let x := (x ^^^ (x >>> 27)) * 0x81DADEF4BC2DD44D#64
  x ^^^ (x >>> 33)

/-- First bit of field n of a work identifier under the widths W1 to W5 (02 R20). -/
def widLo (widths : List Nat) (n : Nat) : Nat := ((5 :: widths).take n).foldl (fun a b => a + b) 0

/-- The bits of the fields in SCOPE. -/
def scopeMask (widths : List Nat) (scope : Nat) : DWord :=
  (bitList 6 scope).foldl (fun m n => m ||| BitVec.ofNat 64 ((2 ^ (nth 0 (5 :: widths) n) - 1) <<< widLo widths n)) 0

/-- The scoped key (R185). -/
def genKey (g : Gen) (widths : List Nat) (wid : DWord) : DWord :=
  gmix (genSeed g ^^^ (BitVec.ofNat 64 (genSalt g) <<< 48) ^^^ (wid &&& scopeMask widths (genScope g)))

/-- The element hash at coordinates (R185). -/
def genHash (key : DWord) (i j : Word) : DWord := gmix (key ^^^ gmix (i ++ j))

/-- Sum of the low n bytes of a word. -/
def byteSum (n : Nat) (x : DWord) : Nat := ((toBytes n x.toNat).map (fun b => b.toNat)).foldl (fun a b => a + b) 0

/-! ## ROTARY (R187) -/

/-- floor(π × 2^256). -/
def pi256 : Nat := 363771576891766324280234942777729862653393377328392429958772151117938894466185

/-- Whether (2n − 1) / 2 ≤ 2^32 × BASE^(−2q / DIM) / (2π), for BASE = m × 2^e: both sides to the power DIM, in integers. -/
def freqGe (m : Nat) (e : Int) (dim q n : Nat) : Bool :=
  let up : Nat := (2 * q) * e.toNat
  let dn : Nat := (2 * q) * (-e).toNat
  decide (((2 * n - 1) * pi256) ^ dim * m ^ (2 * q) * 2 ^ up ≤ 2 ^ ((32 + 256) * dim + dn))

/-- The largest n below 2^b more than acc for which `freqGe` holds. -/
def freqFrom (m : Nat) (e : Int) (dim q : Nat) : Nat → Nat → Nat
  | 0, acc => acc
  | b + 1, acc => freqFrom m e dim q b (if freqGe m e dim q (acc + 2 ^ b) then acc + 2 ^ b else acc)

/-- FREQ(q) (R187). -/
def genFreq (g : Gen) (q : Nat) : Nat :=
  match fp32.value (genParam g) with
  | .fin _ m e => freqFrom m e (genDim g) q 31 0
  | _ => 0

/-- Terms of the sine series in units of 2^−192: the sum of ± term × x² / ... from term n on. -/
def sinTerms (x2 : Nat) : Nat → Nat → Nat → Int
  | 0, _, _ => 0
  | fuel + 1, n, term =>
    (term : Int) - sinTerms x2 fuel (n + 2) (term * x2 / 2 ^ 192 / ((n + 1) * (n + 2)))

/-- T[k] of R187: sin(πk / 8,192) × 2^30 rounded to nearest. -/
def sinTab (k : Nat) : Int :=
  let k := if k ≤ 4096 then k else 4096
  let x := pi256 / 2 ^ 64 * k / 8192
  (sinTerms (x * x / 2 ^ 192) 40 1 x + (2 ^ 161 : Nat)) / ((2 ^ 162 : Nat) : Int)

/-- s(p) of R187. -/
def sinS (p : Nat) : Int :=
  let x := p / 2 ^ 18
  sinTab x + ((sinTab (x + 1) - sinTab x) * (p % 2 ^ 18 : Nat)) / ((2 ^ 18 : Nat) : Int)

/-- sine(a) of R187, a in units of 2^−32 turn. -/
def genSine (a : Nat) : Int :=
  let p := a % 2 ^ 30
  match a / 2 ^ 30 with
  | 0 => sinS p
  | 1 => sinS (2 ^ 30 - p)
  | 2 => -sinS p
  | _ => -sinS (2 ^ 30 - p)

/-- The ROTARY value (R187). -/
def genRotary (g : Gen) (i j : Word) : FV :=
  if genDim g ≤ j.toNat then .fin false 0 0
  else
    let a := i.toNat * genFreq g (j.toNat / 2) % 2 ^ 32
    let v := if j.toNat % 2 = 0 then genSine ((a + 2 ^ 30) % 2 ^ 32) else genSine a
    fp32.value (fp32.round 0 .ieee (decide (v < 0)) v.natAbs (-30)).1

/-! ## Values and delivery (R186, R188) -/

/-- The value before SCALE (R186). -/
def genValue (g : Gen) (key : DWord) (i j : Word) : FV :=
  let h := genHash key i j
  let flag := fun (b : Bool) => fvInt (if b then 1 else 0)
  match genKind g with
  | 0 => fvInt (if h.getLsbD 63 then -1 else 1)
  | 1 =>
    let n : Int := (byteSum 8 h + byteSum 4 (gmix (h + 1)) : Nat) - 1530
    .fin (decide (n < 0)) n.natAbs (-8)
  | 2 =>
    let n : Int := ((h >>> 40).toNat : Int) - (2 ^ 23 : Nat)
    .fin (decide (n < 0)) n.natAbs (-23)
  | 3 => fvInt (if popcount 32 (i &&& j).toNat % 2 = 1 then -1 else 1)
  | 4 => genRotary g i j
  | 5 => flag (decide ((j.toNat : Int) ≤ (i.toNat : Int) + toSigned 32 (genParam g)))
  | 6 => flag (decide (((i.toNat : Int) - (j.toNat : Int)).natAbs ≤ genParam g))
  | _ => flag (decide (h.toNat / 2 ^ 32 < genParam g))

/-- −∞ as a masked element of a type code: the largest negative value where the format has no infinity (R188). -/
def maskedOut (ty : Nat) : Nat :=
  match ty with
  | 6 => 0x80
  | 11 => 0xFE
  | 13 => 0xF
  | n => (tyFmt n).infCode .ieee true

/-- An element in a type of R306: its bits in the type's width and its flags (R188). -/
def genElem (g : Gen) (ty : Nat) (key : DWord) (i j : Word) : Nat × Flags :=
  let v := genValue g key i j
  if genAdditive g && 5 ≤ genKind g then (if v.isZero then maskedOut ty else 0, 0)
  else
    let u := fmul32 0 v (fp32.value (genScale g))
    if ty = 8 then u
    else
      let r := convert ty 8 0 false u.1
      (r.1, u.2 ||| r.2)

/-- The type code of an FMT code (R183). -/
def genTy (fmt : Nat) : Nat :=
  match fmt with
  | 0 => 8
  | 1 => 9
  | 2 => 10
  | 3 => 11
  | 4 => 12
  | 5 => 13
  | _ => 6

/-- O(k, x) as a coordinate (R189). -/
def genCoord (g : Gen) (t : Bool) (k x : Nat) : Word × Word :=
  if t then (genRow0 g + BitVec.ofNat 32 x, genCol0 g + BitVec.ofNat 32 k)
  else (genRow0 g + BitVec.ofNat 32 k, genCol0 g + BitVec.ofNat 32 x)

/-! ## Keys of a party's lanes -/

/-- The field widths that apply to a lane of a party (R185). -/
def State.widthsOf (s : State) (p : Party) (l : Nat) : List Nat :=
  match p with
  | .group h => ((s.blockOf h).map (fun b => (s.hdrOfBlock b).widths)).getD []
  | .wave u k => match s.potluck.waves.find? (fun w => w.is u k) with
    | some w => ((w.reqs[l]?).map (fun r => r.widths)).getD []
    | none => []
  | .ranger _ => []

/-- GENRD (17 R377). -/
def execGenrd (f : FmtV) (s : State) : Out :=
  laneWord (.genrd f) (fun x s =>
    let gn := nth 0 x.g.gens f.sa.toNat
    if !genValid gn then trapWord x (causeOf 0x01) x.active s
    else
      let ty := genTy (genFmt gn)
      let res := x.lanes.map (fun l =>
        let r := genElem gn ty (genKey gn (s.widthsOf x.party l) (nth 0 x.g.wids l))
          (genRow0 gn + x.g.vget f.sb.toNat l) (genCol0 gn + x.g.vget f.sc.toNat l)
        (l, placeTy ty r.1, r.2))
      let p := vecProducer s.fresh .genrd f.dst.toNat 1 (res.map (fun r => (r.1, r.2.1))) 0
      retire x (x.g.issue { p with mx := orFlags (res.map (fun r => r.2.2)) }) s.next) s

/-- GENSET (17 R378, 08 R182). -/
def execGenset (f : FmtV) (s : State) : Out :=
  laneWord (.genset f) (fun x s =>
    let gn := genOfWords ((List.range 8).map (fun i => x.g.sget (f.sa.toNat + i)))
    if !genValid gn then trapWord x (causeOf 0x01) x.g.live s
    else retire x { x.g with gens := setNth x.g.gens f.dst.toNat gn } s) s

end Sys2Proof.Machine
end

