-- ==== Sys2Proof/Machine/LoadStore.lean ====
section
/-! DEFINITION. Loads, stores, atomics, fences, prefetch, CSTORE and ICINV (spec 16 R342 to R344, R359; 17 R370, R390;
18 R395, R396, R414; 19 R425, R426; 07 R150 to R154; 09 R206, R207). -/

namespace Sys2Proof.Machine

/-! ## Addresses of a word -/

/-- A lane's resolved access. -/
structure Acc where
  lane : Nat
  va : DWord
  t : Trans
  deriving DecidableEq, Repr

/-- Natural alignment of a lane's address (ALIGN, AUX the size). -/
def aligned (n : Nat) (va : DWord) : Except Cause DWord :=
  if va.toNat % n != 0 then .error ⟨0x05, 0, va, BitVec.ofNat 64 n⟩ else .ok va

/-- The global or private address of each active lane (18 R395, 16 R343), `off` sign-extended to 64 bits. -/
def laneAddrs (fn : BitVec 11) (av : Nat) (off : DWord) (n : Nat) (write : Bool) (x : Issue) (s : State) : List (Nat × Except Cause DWord) :=
  x.lanes.map (fun l =>
    (l, match fnAm fn with
      | 0 => aligned n (x.g.spair av + off)
      | 1 => aligned n (x.g.vpair av l + off)
      | _ => match s.privAddr x.party x.g l (((x.g.vget av l).toNat + off.toNat) % 2 ^ 32) n write with
        | .ok va => aligned n va
        | .error c => .error c))

/-- The scratchpad address of each active lane (18 R395). -/
def scratchAddrs (fn : BitVec 11) (av : Nat) (off : DWord) (n : Nat) (x : Issue) : List (Nat × Except Cause DWord) :=
  x.lanes.map (fun l =>
    let b := if fnAm fn = 0 then x.g.sget av else x.g.vget av l
    (l, aligned n (BitVec.ofNat 64 ((b.toNat + off.toNat) % 2 ^ 32))))

/-- Translates every lane's address; a wave may not reach its state window (09 R198). -/
def resolveAll (x : Issue) (need : Need) : List (Nat × Except Cause DWord) → State → State × List Acc × List LaneFault
  | [], s => (s, [], [])
  | (l, .error c) :: t, s =>
    let r := resolveAll x need t s
    (r.1, r.2.1, ⟨l, c⟩ :: r.2.2)
  | (l, .ok va) :: t, s =>
    match s.resolve x.party va need with
    | (s, .error f) =>
      let r := resolveAll x need t s
      (r.1, r.2.1, ⟨l, fltCause f va need.wr⟩ :: r.2.2)
    | (s, .ok tr) =>
      let r := resolveAll x need t s
      if s.waveWindow x.party tr.pa then (r.1, r.2.1, ⟨l, ⟨0x107, 0, va, 0⟩⟩ :: r.2.2)
      else (r.1, ⟨l, va, tr⟩ :: r.2.1, r.2.2)

/-- An access in a peer window. -/
def Acc.peer (a : Acc) : Bool :=
  match region a.t.pa with
  | .peer _ => true
  | _ => false

/-- Scopes that `.rmt` may carry (07 R153). -/
def rmtBad (sc : Scope) : Bool := sc = .group || sc = .block || sc = .system

/-- The first address a word forms, for a SCOPEFAULT record. -/
def firstVa (l : List (Nat × Except Cause DWord)) : DWord :=
  (l.findSome? (fun p => match p.2 with
    | .ok va => some va
    | .error _ => none)).getD 0

/-- SCOPEFAULT of a peer access below SYSTEM scope (07 R153), or none. -/
def peerScope (sc : Scope) (l : List Acc) : Option Cause :=
  if sc = .system then none else (l.find? (fun a => a.peer)).map (fun a => ⟨0x1A, 0, a.va, 0⟩)

/-- The accesses of a load or store with CH, which only relaxed forms have (14 R307). -/
def accessCh (fn : BitVec 11) (l : List Acc) : List Acc :=
  if fnOrd fn = 0 then l.map (fun a => { a with t := a.t.withCh (fnCh fn) }) else l

/-- Bytes of a size code (14 R307). -/
def szBytes (sz : Nat) : Nat := 2 ^ sz

/-- A loaded datum extended to its registers (18 R395). -/
def loadExt (fn : BitVec 11) (n v : Nat) : Nat :=
  if fnOrd fn = 0 && fnSx fn && n < 4 then ofInt 32 (toSigned (8 * n) v) else v

/-- Reads every resolved access in lane order; a poisoned sector is a POISON fault. -/
def readAll (x : Issue) (n : Nat) : List Acc → State → State × List (Nat × Nat) × List LaneFault
  | [], s => (s, [], [])
  | a :: t, s =>
    match s.loadBytes x.party a.t n with
    | (s, some v) =>
      let r := readAll x n t s
      (r.1, (a.lane, v) :: r.2.1, r.2.2)
    | (s, none) =>
      let r := readAll x n t s
      (r.1, r.2.1, ⟨a.lane, ⟨0x1B, 0, a.va, 0⟩⟩ :: r.2.2)

/-- Faults in lane order. -/
def sortFaults (l : List LaneFault) : List LaneFault := sortBy (fun a b => a.lane ≤ b.lane) l

/-- A release before a store, a release or a fence's (07 R151, R152). -/
def relBefore (x : Issue) (rel : Bool) (sc : Scope) (s : State) : State :=
  let pend := x.g.fenceRel.filter (fun p => p.1 &&& x.active != 0)
  let s := if rel then s.release (partyCore x.party) sc else s
  pend.foldl (fun s p => s.release (partyCore x.party) p.2) s

/-- Whether a store is performed at the home because it is a release beyond its core. -/
def relWide (x : Issue) (rel : Bool) (sc : Scope) : Bool :=
  (rel && sc.wide) || x.g.fenceRel.any (fun p => p.1 &&& x.active != 0 && p.2.wide)

/-- A store or atomic uses up the fences of its lanes. -/
def useFence (x : Issue) (g : Group) : Group :=
  { g with fenceRel := (g.fenceRel.map (fun p => (p.1 &&& ~~~x.active, p.2))).filter (fun p => p.1 != 0) }

/-- An acquire, with promotion under `.rmt` (07 R151, R153, R154). -/
def acquireAt (x : Issue) (rmt : Bool) (sc : Scope) (s : State) : State :=
  let s := if rmt then s.promote (partyCore x.party) sc else s
  s.acquire (partyCore x.party) sc

/-- The site of a word that accesses memory at these lanes' VAs (12 R267); none for a scratchpad access. -/
def siteOf (x : Issue) (done : List (Nat × DWord)) : Option Site :=
  if done = [] then none else some ⟨x.pc, x.word, x.mask, done.map (fun d => d.2)⟩

/-! ## LD and LDS (18 R395) -/

/-- Issues the load's producer and ends the word. -/
def finishLoad (f : FmtM) (x : Issue) (n : Nat) (vals : List (Nat × Nat)) (faults : List LaneFault)
    (done : List (Nat × DWord)) (s : State) : State :=
  let p := vecProducer s.fresh .load f.dv.toNat (szRegs (fnSz f.fn)) (vals.map (fun v => (v.1, loadExt f.fn n v.2))) 0
  finishAccess x (x.g.issue { p with fills := faults.isEmpty, site := siteOf x done }) (sortFaults faults) 1 n done s.next

/-- LD (18 R395, R396). -/
def execLd (f : FmtM) (s : State) : Out :=
  laneWord (.ld f) (fun x s =>
    let n := szBytes (fnSz f.fn)
    let acq : Bool := fnOrd f.fn = 1
    let sc := scopeOf (fnScope f.fn)
    let rmt := acq && fnRmt f.fn
    let addrs := laneAddrs f.fn f.av.toNat (sext64 f.off) n false x s
    if rmt && rmtBad sc then trapWord x ⟨0x1A, 0, firstVa addrs, 0⟩ x.active s
    else
      let (s, accs, faults) := resolveAll x needRd addrs s
      let accs := accessCh f.fn accs
      match (if acq then peerScope sc accs else none) with
      | some c => trapWord x c x.active s
      | none =>
        if accs.any (fun a => s.mustWait x.party a.t n true) then hold s
        else
          let s := if acq then acquireAt x rmt sc s else s
          let (s, vals, bad) := readAll x n accs s
          finishLoad f x n vals (faults ++ bad) (accs.map (fun a => (a.lane, a.va))) s) s

/-- A scratchpad access of a lane: the block and offset, or a cause (05 R105). -/
def scratchLane (s : State) (b : Block) (n : Nat) (la : Nat × Except Cause DWord) : Nat × Except Cause (Block × Nat × DWord) :=
  (la.1, match la.2 with
    | .error c => .error c
    | .ok va => match s.scratchAt b va.toNat n with
      | some y => .ok (y.1, y.2, va)
      | none => .error ⟨0x07, 0, va, 0⟩)

/-- Splits lane results into successes and faults. -/
def splitLanes {α : Type} : List (Nat × Except Cause α) → List (Nat × α) × List LaneFault
  | [] => ([], [])
  | (l, .ok a) :: t => let r := splitLanes t; ((l, a) :: r.1, r.2)
  | (l, .error c) :: t => let r := splitLanes t; (r.1, ⟨l, c⟩ :: r.2)

/-- The causes of a scratchpad write carry bit 0 (12 R267). -/
def asWrite (l : List LaneFault) : List LaneFault :=
  l.map (fun f => if f.cause.code = 0x07 then { f with cause := { f.cause with aux := 1 } } else f)

/-- LDS (18 R395). -/
def execLds (f : FmtM) (s : State) : Out :=
  laneWord (.lds f) (fun x s =>
    match s.blockOfParty x.party with
    | none => trapWord x (causeOf 0x01) x.active s
    | some b =>
      let n := szBytes (fnSz f.fn)
      let acq : Bool := fnOrd f.fn = 1
      let sc := scopeOf (fnScope f.fn)
      let rmt := acq && fnRmt f.fn
      let addrs := scratchAddrs f.fn f.av.toNat (sext64 f.off) n x
      if rmt && rmtBad sc then trapWord x ⟨0x1A, 0, firstVa addrs, 0⟩ x.active s
      else
        let (accs, faults) := splitLanes (addrs.map (scratchLane s b n))
        if accs.any (fun a => s.scratchOwned a.2.1.uid a.2.2.1) then hold s
        else
          let s := if acq then acquireAt x rmt sc s else s
          let good := accs.filter (fun a => !a.2.1.scPoisoned a.2.2.1 n)
          let bad := (accs.filter (fun a => a.2.1.scPoisoned a.2.2.1 n)).map (fun a => (⟨a.1, ⟨0x1B, 0, a.2.2.2, 0⟩⟩ : LaneFault))
          finishLoad f x n (good.map (fun a => (a.1, a.2.1.scRead a.2.2.1 n))) (faults ++ bad) [] s) s

/-! ## ST and STS (19 R425) -/

/-- The data of a lane: the low bytes of its registers from n on. -/
def dataOf (g : Group) (dv cnt l : Nat) : Nat :=
  ((List.range cnt).map (fun i => (g.vget (dv + i) l).toNat <<< (32 * i))).foldl (fun a b => a + b) 0

/-- Stores every resolved access in lane order: the highest lane wins a byte (07 R149). -/
def writeAll (f : FmtM) (x : Issue) (n : Nat) (home : Bool) (l : List Acc) (s : State) : State :=
  l.foldl (fun s a =>
    s.storeBytes x.party a.t n (dataOf x.g f.dv.toNat (szRegs (fnSz f.fn)) a.lane % 2 ^ (8 * n)) home) s

/-- ST (19 R425, R426). -/
def execSt (f : FmtM) (s : State) : Out :=
  laneWord (.st f) (fun x s =>
    let n := szBytes (fnSz f.fn)
    let rel : Bool := fnOrd f.fn = 2
    let sc := scopeOf (fnScope f.fn)
    let (s, accs0, faults) := resolveAll x needWr (laneAddrs f.fn f.av.toNat (sext64 f.off) n true x s) s
    let accs := accessCh f.fn accs0
    match (if rel then peerScope sc accs else none) with
    | some c => trapWord x c x.active s
    | none =>
      if accs.any (fun a => s.mustWait x.party a.t n false) then hold s
      else
        let s := relBefore x rel sc s
        let s := writeAll f x n (relWide x rel sc) accs s
        finishAccess x (useFence x x.g) (sortFaults faults) 2 n (accs.map (fun a => (a.lane, a.va))) s) s

/-- STS (19 R425). -/
def execSts (f : FmtM) (s : State) : Out :=
  laneWord (.sts f) (fun x s =>
    match s.blockOfParty x.party with
    | none => trapWord x (causeOf 0x01) x.active s
    | some b =>
      let n := szBytes (fnSz f.fn)
      let rel : Bool := fnOrd f.fn = 2
      let addrs := scratchAddrs f.fn f.av.toNat (sext64 f.off) n x
      let (accs, faults) := splitLanes (addrs.map (scratchLane s b n))
      if accs.any (fun a => s.scratchOwned a.2.1.uid a.2.2.1) then hold s
      else
        let s := relBefore x rel (scopeOf (fnScope f.fn)) s
        let s := accs.foldl (fun s a => s.updBlock a.2.1.uid (fun y =>
          y.scWrite a.2.2.1 n (dataOf x.g f.dv.toNat (szRegs (fnSz f.fn)) a.1 % 2 ^ (8 * n)))) s
        finishLanes x (useFence x x.g) (asWrite faults) s) s

/-! ## ATOM and ATOMS (16 R342 to R344) -/

/-- The offset of an atomic's address. -/
def atomOff (f : FmtM) : DWord := sext64 (f.off.extractLsb' 0 15)

/-- Ends an atomic word: the old values come back by a producer under RET. -/
def finishAtom (f : FmtM) (x : Issue) (olds : List (Nat × Nat)) (faults : List LaneFault) (done : List (Nat × DWord))
    (s : State) : State :=
  let aop := atomOp f
  let n := atomBytes aop
  let g := useFence x x.g
  if fnSk f.fn then
    let p := vecProducer s.fresh .atomic f.dv.toNat (n / 4) olds 0
    let p := { p with fills := faults.isEmpty, vregs := (List.range (atomRegs aop)).map (fun i => f.dv.toNat + i), site := siteOf x done }
    finishAccess x (g.issue p) (sortFaults faults) 3 n done s.next
  else finishAccess x g (sortFaults faults) 3 n done s

/-- Whether a group's launch is deterministic. -/
def State.detOf (s : State) (p : Party) : Bool :=
  match s.blockOfParty p with
  | some b => (s.hdrOfBlock b).det
  | none => false

/-- Entries a group can still stage: its 256, then its context's log, 256 entries to a page (09 R207). -/
def State.stageRoom (s : State) (g : Group) (ctx : Nat) : Nat :=
  let c := s.ctxOf ctx
  (256 - g.nStaged) + (256 * c.detLogPages - c.detLogUsed)

/-- Stages operations of lanes in order, tagged and counted (09 R207). -/
def stageOps (x : Issue) (ops : List (Nat × StagedOp)) (s : State) : Group × State :=
  let g := ops.foldl (fun (g : Group) lo => { g with seqs := setNth g.seqs lo.1 (nth 0 g.seqs lo.1 + 1) }) x.g
  let spill := x.g.nStaged + ops.length - (if x.g.nStaged ≤ 256 then 256 else x.g.nStaged)
  let ents := ops.map (fun lo => (⟨nth 0 x.g.wids lo.1, nth 0 x.g.seqs lo.1, lo.2⟩ : Staged))
  let g := { g with nStaged := (if x.g.nStaged + ops.length ≤ 256 then x.g.nStaged + ops.length else 256) }
  match s.blockOfParty x.party with
  | none => (g, s)
  | some b =>
    let s := s.updCtx x.ctx (fun c => { c with detLogUsed := c.detLogUsed + spill })
    (g, s.updLaunch b.launch (fun l => { l with staged := l.staged ++ ents, spilled := l.spilled + spill }))

/-- A staging word waits for its context's log (09 R207). -/
def waitLog (x : Issue) (s : State) : State :=
  let w : Wait := ⟨x.pc, x.mask, x.active, s.fresh, .detlog, x.word⟩
  stall { x with g := { x.g with waits := x.g.waits ++ [w] } } s.next

/-- A floating-point atomic of a deterministic launch (16 R344, 09 R206). -/
def detAtom (f : FmtM) (x : Issue) (accs : List Acc) (faults : List LaneFault) (s : State) : State :=
  match accs.find? (fun a => !leafMs a.t.leaf) with
  | some a => trapWord x ⟨0x0F, 0, a.va, 0⟩ x.active s
  | none =>
    if s.stageRoom x.g x.ctx < accs.length then waitLog x s
    else
      let r := stageOps x (accs.map (fun a =>
        (a.lane, StagedOp.atomic a.t.pa a.va (atomOp f) false (BitVec.ofNat 64 (dataOf x.g f.dv.toNat 1 a.lane))))) s
      finishAccess x r.1 (sortFaults faults) 3 4 (accs.map (fun a => (a.lane, a.va))) r.2

/-- Performs every lane's atomic in ascending lane order (07 R149). -/
def atomAll (f : FmtM) (x : Issue) : List Acc → State → State × List (Nat × Nat) × List LaneFault
  | [], s => (s, [], [])
  | a :: t, s =>
    match s.atomBytes x.party a.t (atomOp f) (dataOf x.g f.dv.toNat (atomRegs (atomOp f)) a.lane) with
    | (s, some v) =>
      let r := atomAll f x t s
      (r.1, (a.lane, v) :: r.2.1, r.2.2)
    | (s, none) =>
      let r := atomAll f x t s
      (r.1, r.2.1, ⟨a.lane, ⟨0x1B, 0, a.va, 0⟩⟩ :: r.2.2)

/-- Whether an order code releases. -/
def ordRel (o : Nat) : Bool := o = 2 || o = 3
/-- Whether an order code acquires. -/
def ordAcq (o : Nat) : Bool := o = 1 || o = 3

/-- ATOM (16 R342 to R344). -/
def execAtom (f : FmtM) (s : State) : Out :=
  laneWord (.atom f) (fun x s =>
    let n := atomBytes (atomOp f)
    let o := fnOrd f.fn
    let sc := scopeOf (fnScope f.fn)
    let det := s.detOf x.party && atomFp (atomOp f)
    let addrs := laneAddrs f.fn f.av.toNat (atomOff f) n true x s
    if det && fnSk f.fn then trapWord x (causeOf 0x0F) x.active s
    else if fnRmt f.fn && rmtBad sc then trapWord x ⟨0x1A, 0, firstVa addrs, 0⟩ x.active s
    else
      let (s, accs, faults) := resolveAll x needRw addrs s
      match (if o != 0 then peerScope sc accs else none) with
      | some c => trapWord x c x.active s
      | none =>
        if det then detAtom f x accs faults s
        else if accs.any (fun a => s.mustWait x.party a.t n false) then hold s
        else
          let s := relBefore x (ordRel o) sc s
          let s := if ordAcq o && fnRmt f.fn then s.promote (partyCore x.party) sc else s
          let (s, olds, bad) := atomAll f x accs s
          let s := if ordAcq o then s.acquire (partyCore x.party) sc else s
          finishAtom f x olds (faults ++ bad) (accs.map (fun a => (a.lane, a.va))) s) s

/-- One lane's atomic at the owning scratchpad port. -/
def scratchAtom (f : FmtM) (x : Issue) (n : Nat) (r : State × List (Nat × Nat) × List LaneFault)
    (a : Nat × Block × Nat × DWord) : State × List (Nat × Nat) × List LaneFault :=
  match r.1.blockUid a.2.1.uid with
  | none => r
  | some y =>
    if y.scPoisoned a.2.2.1 n then (r.1, r.2.1, r.2.2 ++ [⟨a.1, ⟨0x1B, 0, a.2.2.2, 0⟩⟩])
    else
      let m := y.scRead a.2.2.1 n
      let d := dataOf x.g f.dv.toNat (atomRegs (atomOp f)) a.1
      (r.1.updBlock y.uid (fun y => y.scWrite a.2.2.1 n (atomNew (atomOp f) m d)), r.2.1 ++ [(a.1, m)], r.2.2)

/-- ATOMS (16 R342 to R344). It matches breakpoints as ATOM does, its scratchpad address in the place of the VA (DESIGN CHOICE, log
entry 79: R343 has it match, R285 compares VAs). -/
def execAtoms (f : FmtM) (s : State) : Out :=
  laneWord (.atoms f) (fun x s =>
    match s.blockOfParty x.party with
    | none => trapWord x (causeOf 0x01) x.active s
    | some b =>
      let n := atomBytes (atomOp f)
      let o := fnOrd f.fn
      let sc := scopeOf (fnScope f.fn)
      let addrs := scratchAddrs f.fn f.av.toNat (atomOff f) n x
      if s.detOf x.party && atomFp (atomOp f) then trapWord x (causeOf 0x0F) x.active s
      else if fnRmt f.fn && rmtBad sc then trapWord x ⟨0x1A, 0, firstVa addrs, 0⟩ x.active s
      else
        let (accs, faults) := splitLanes (addrs.map (scratchLane s b n))
        if accs.any (fun a => s.scratchOwned a.2.1.uid a.2.2.1) then hold s
        else
          let s := relBefore x (ordRel o) sc s
          let s := if ordAcq o && fnRmt f.fn then s.promote (partyCore x.party) sc else s
          let (s, olds, bad) := accs.foldl (scratchAtom f x n) (s, [], [])
          let s := if ordAcq o then s.acquire (partyCore x.party) sc else s
          finishAtom f x olds (asWrite faults ++ bad) (accs.map (fun a => (a.1, a.2.2.2))) s) s

/-! ## FENCE, PREF, CSTORE, ICINV -/

/-- FENCE (17 R370, 07 R152): the earlier loads become acquires now; the next store of each lane becomes a release. -/
def execFence (f : FmtV) (s : State) : Out :=
  laneWord (.fence f) (fun x s =>
    let o := fnOrd f.fn
    let sc := scopeOf (fnScope f.fn)
    let s := if ordRel o then s.release (partyCore x.party) sc else s
    let s := if ordAcq o then s.acquire (partyCore x.party) sc else s
    retire x (if ordRel o then { x.g with fenceRel := x.g.fenceRel ++ [(x.active, sc)] } else x.g) s) s

/-- The fill of a prefetched line, or nothing where the prefetch is dropped (18 R414): into the L1, or into the RDC only. -/
def prefLine (x : Issue) (ch : Nat) (va : DWord) (s : State) : State :=
  match s.resolve x.party va needRd with
  | (_, .error _) => s
  | (_, .ok t0) =>
    let t := t0.withCh ch
    let pa := t.pa / 64 * 64
    if (match region pa with
        | .mmio _ => true
        | _ => false) then s.violation (partyDie x.party) (s.ctxOfParty x.party) t.pa
    else if !ownMemory pa || leafMs t.leaf || s.fabOwned pa || s.lineOwned pa then s
    else (List.range 4).foldl (fun s i =>
      let a := pa + 16 * i
      if s.poisoned a then s
      else match partyCore x.party with
        | some k => if s.usesL1 x.party { t with pa := a } then (s.l1Fill k (a / 16) (leafStrm t.leaf)).1
            else (s.homeFor (partyDie x.party) false (leafStrm t.leaf) a 16).1
        | none => (s.homeFor (partyDie x.party) false (leafStrm t.leaf) a 16).1) s

/-- PREF (18 R414): fills caches only; sets no bit of a table, never traps. It waits for an empty address register with T = 0
(03 R57); where another word would raise EMPTYREAD or COMBFAULT, the prefetch is dropped. -/
def execPref (f : FmtM) (s : State) : Out :=
  laneWord (.pref f) (fun x s =>
    let av := f.av.toNat
    let ops := (specPref f).ops
    match readiness x.g ops with
    | .wait => stall x s
    | .trap _ => retire x x.g s
    | .go =>
      if (markFault x.g ops).isSome then retire x x.g s
      else retire x x.g (x.lanes.foldl (fun s l =>
        prefLine x (fnCh f.fn) ((if fnAm f.fn = 0 then x.g.spair av else x.g.vpair av l) + sext64 f.off) s) s)) s

/-- Translates the pages that hold a range, in ascending order, stopping at the first fault. -/
def resolvePages (p : Party) (need : Need) : List DWord → State → State × Option (Flt × DWord)
  | [], s => (s, none)
  | va :: t, s => match s.resolve p va need with
    | (s, .error f) => (s, some (f, va))
    | (s, .ok _) => resolvePages p need t s

/-- One address in each 4 KiB page of a range. -/
def pagesOf (va len : Nat) : List DWord :=
  if len = 0 then []
  else (List.range ((va + len - 1) / 4096 - va / 4096 + 1)).map (fun i =>
    BitVec.ofNat 64 (if i = 0 then va else (va / 4096 + i) * 4096))

/-- The words of a CSTORE record with their addresses (05 R125). -/
def recordWords (x : Issue) (vb : Nat) (va : DWord) (count : Nat) : List (Nat × DWord × Nat) :=
  let at_ := fun i => va + BitVec.ofNat 64 (8 + 4 * (count + i))
  (lowLane x.active, at_ 0, x.active.toNat) ::
    ((List.range x.lanes.length).zip x.lanes).map (fun il => (il.2, at_ (1 + il.1), (x.g.vget vb il.2).toNat))

/-- CSTORE on a header in a peer window: CAP is read, the data are translated, and the update of the header is one atomic at the
peer's home (05 R112, R125), whose answer is the header as it found it. -/
def cstorePeer (f : FmtV) (x : Issue) (va : DWord) (tgt : Nat) (t : Trans) (s : State) : State :=
  let die := partyDie x.party
  match s.peerAsk die x.ctx tgt t.pa (fun a => .peerRequest tgt a false []) 8 with
  | (s, none) => trapWord x ⟨0x1B, 0, va, 0⟩ x.active s
  | (s, some h0) =>
    let cap := bits h0 32 24
    match resolvePages x.party needWr (pagesOf (va.toNat + 8) (4 * cap)) s with
    | (s, some fv) => trapWord x (fltCause fv.1 fv.2 true) x.active s
    | (s, none) =>
      let n := x.lanes.length
      let (s, data, _) := resolveAll x needWr ((List.range ((cap + 15) / 16)).map (fun i => (0, .ok (va + 8 + BitVec.ofNat 64 (64 * i))))) s
      if data.any (fun a => s.mustWait x.party a.t 4 false) then hold s
      else match s.peerAsk die x.ctx tgt t.pa (fun a => .peerAppend tgt a (1 + n)) 8 with
      | (s, none) => trapWord x ⟨0x1B, 0, va, 0⟩ x.active s
      | (s, some h) =>
        let count := bits h 0 24
        if cap < count + 1 + n then trapWord x ⟨0x0E, 0, va, BitVec.ofNat 64 count⟩ x.active s
        else
          let ws := recordWords x f.sb.toNat va count
          let (s, accs, _) := resolveAll x needWr (ws.map (fun w => (w.1, .ok w.2.1))) (relBefore x false .group s)
          let s := (accs.zip ws).foldl (fun s aw => s.storeBytes x.party aw.1.t 4 aw.2.2.2 (relWide x false .group)) s
          finishAccess x (useFence x x.g) [] 2 4 ((lowLane x.active, va) :: (lowLane x.active, va + 4) :: ws.map (fun w => (w.1, w.2.1))) s

/-- CSTORE (05 R125, 16 R359). -/
def execCstore (f : FmtV) (s : State) : Out :=
  laneWord (.cstore f) (fun x s =>
    let va := x.g.spair f.sa.toNat
    if va.toNat % 8 != 0 then trapWord x ⟨0x05, 0, va, 8⟩ x.active s
    else match s.resolve x.party va needRw with
    | (s, .error fl) => trapWord x (fltCause fl va true) x.active s
    | (s, .ok t) =>
      if s.waveWindow x.party t.pa then trapWord x ⟨0x107, 0, va, 0⟩ x.active s
      else if s.mustWait x.party t 8 false then hold s
      else match region t.pa with
      | .peer tgt => cstorePeer f x va tgt t s
      | .mmio _ => trapWord x ⟨0x1B, 0, va, 0⟩ x.active (s.violation (partyDie x.party) (s.ctxOfParty x.party) (BitVec.ofNat 64 t.pa))
      | _ => match (s.dropOwn x.party t.pa).loadBytes x.party t.pastL1 8 with
      | (s, none) => trapWord x ⟨0x1B, 0, va, 0⟩ x.active s
      | (s, some h) =>
        let count := bits h 0 24
        let cap := bits h 32 24
        match resolvePages x.party needWr (pagesOf (va.toNat + 8) (4 * cap)) s with
        | (s, some fv) => trapWord x (fltCause fv.1 fv.2 true) x.active s
        | (s, none) =>
          let n := x.lanes.length
          if cap < count + 1 + n then trapWord x ⟨0x0E, 0, va, BitVec.ofNat 64 count⟩ x.active s
          else
            let ws := recordWords x f.sb.toNat va count
            let (s, accs, faults) := resolveAll x needWr (ws.map (fun w => (w.1, .ok w.2.1))) s
            match faults.head? with
            | some lf => trapWord x lf.cause x.active s
            | none =>
              if accs.any (fun a => s.mustWait x.party a.t 4 false) then hold s
              else
                let s := relBefore x false .group s
                let s := s.storeBytes x.party t 8 (h - count + (count + 1 + n)) true
                let s := (accs.zip ws).foldl (fun s aw => s.storeBytes x.party aw.1.t 4 aw.2.2.2 (relWide x false .group)) s
                finishAccess x (useFence x x.g) [] 2 4
                  ((lowLane x.active, va) :: (lowLane x.active, va + 4) :: ws.map (fun w => (w.1, w.2.1))) s) s

/-- ICINV (17 R390, 03 R70): releases, then invalidates until ICINV_COMPLETE. -/
def execIcinv (f : FmtV) (s : State) : Out :=
  laneWord (.icinv f) (fun x s =>
    let base := x.g.spair f.sa.toNat
    let len := (x.g.sget f.sb.toNat).toNat
    if base.extractLsb' 57 7 != 0 then trapWord x ⟨0x07, 0, base, 0⟩ x.active s
    else
      let s := s.release (partyCore x.party) .device
      let lo := if len = 0 then 0 else base.toNat / 64 * 64
      let hi := if len = 0 then 2 ^ 64 else (base.toNat + len + 63) / 64 * 64
      let op : IcinvOp := { id := s.fresh, party := x.party, blk := ((s.blockOfParty x.party).map (fun b => b.uid)).getD 0
                            dst := f.dst.toNat, ctx := x.ctx, lo := lo, hi := hi }
      let g := x.g.issue (scaProducer s.fresh .icinv f.dst.toNat 0)
      retire x g { s with icinvs := s.icinvs ++ [op], fresh := s.fresh + 1 }) s

end Sys2Proof.Machine
end

