-- ==== Sys2Proof/Machine/Matrix.lean ====
section
/-! DEFINITION. Matrix engines: GMMA, gangs, accumulator accesses and PQACC (spec 08 R167 to R180; 16 R335 to R339; 05 R126
to R128, R460; 17 R374; 18 R412). -/

namespace Sys2Proof.Machine

/-! ## Operands -/

/-- A multiplicand: stored rows at a block's scratchpad offset, or a generator with its scoped key (08 R168, R185). -/
inductive Side where
  | stored (addr : Word) (blk off stride : Nat)
  | gen (n : Nat) (g : Gen) (key : DWord)
  deriving DecidableEq, Repr

/-- A GMMA with everything read from registers (08 R168 to R172). -/
structure GmmaOp where
  tile : Nat
  clr : Bool
  zs : Bool
  scl : Bool
  bsel : Nat
  t : Bool
  k : Nat
  fa : Nat
  fb : Nat
  scw : Nat
  a : Side
  b : Side
  deriving DecidableEq, Repr

/-- K-blocks (08 R169). -/
def GmmaOp.nkb (o : GmmaOp) : Nat := (o.k + 31) / 32
/-- Whether an operand is stored. -/
def Side.isStored : Side → Bool
  | .stored _ _ _ _ => true
  | .gen _ _ _ => false

/-- Bits of an element of a format code (08 R170). -/
def mfmtBits (c : Nat) : Nat := if c < 2 then 16 else if c < 4 || c = 5 then 8 else 4
/-- The type code (14 R306) of a format code. -/
def mfmtTy (c : Nat) : Nat := nth 0 [10, 9, 11, 12, 13, 6, 14, 14] c

/-- Bytes of a row's K-block kb and where it starts in the row (08 R171). -/
def kbSpan (fmt k kb : Nat) : Nat × Nat :=
  if fmt = 7 then (16 * kb, 16)
  else
    let n := if 32 ≤ k - 32 * kb then 32 else k - 32 * kb
    (4 * mfmtBits fmt * kb, (n * mfmtBits fmt + 7) / 8)

/-- Bytes of a row. -/
def rowSpan (fmt k : Nat) : Nat := (k * mfmtBits fmt + 7) / 8

/-- The elements of a stored row's K-block. -/
def storedElems (b : Block) (off fmt k kb : Nat) : List FV × Flags :=
  let sp := kbSpan fmt k kb
  if fmt = 7 then i4o ((List.range 16).map (fun i => (Sparse.get b.scratch (off + sp.1 + i)).toNat))
  else
    let w := mfmtBits fmt
    let n := if 32 ≤ k - 32 * kb then 32 else k - 32 * kb
    let x := b.scRead (off + sp.1) sp.2
    ((List.range n).map (fun i =>
      let e := bits x (w * i) w
      if fmt = 5 || fmt = 6 then fvInt (toSigned w e) else (tyFmt (mfmtTy fmt)).value e), 0)

/-- The elements of a generated row x's K-block (08 R189). -/
def genElems (g : Gen) (key : DWord) (t : Bool) (fmt k kb x : Nat) : List FV × Flags :=
  let ty := mfmtTy fmt
  let n := if 32 ≤ k - 32 * kb then 32 else k - 32 * kb
  let es := (List.range n).map (fun i =>
    let c := genCoord g t (32 * kb + i) x
    genElem g ty key c.1 c.2)
  (es.map (fun e => if ty = 6 then fvInt (toSigned 8 e.1) else (tyFmt ty).value e.1), orFlags (es.map (fun e => e.2)))

/-- Row x, K-block kb of an operand. -/
def State.sideElems (s : State) (o : GmmaOp) (sd : Side) (fmt kb x : Nat) : List FV × Flags :=
  match sd with
  | .stored _ u off st => match s.blockUid u with
    | some b => storedElems b (off + x * st) fmt o.k kb
    | none => ([], 0)
  | .gen _ g key => genElems g key o.t fmt o.k kb x

/-! ## Zero flags (05 R127, 08 R174) -/

/-- The zero flag of a 4 KiB region of a block's scratchpad. -/
def State.regionZero (s : State) (b : Block) (r : Nat) : Bool :=
  !b.scratch.any (fun kv => kv.1 / 4096 = r && kv.1 < (s.hdrOfBlock b).scratch) && !b.scPoison.any (fun k => k / 256 = r)

/-- The regions that K-block kb touches in the 64 rows of a stored operand. -/
def kbRegions (off st fmt k kb : Nat) : List Nat :=
  let sp := kbSpan fmt k kb
  (List.range 64).foldl (fun acc x =>
    let lo := off + x * st + sp.1
    (List.range ((lo + sp.2 - 1) / 4096 - lo / 4096 + 1)).foldl (fun acc i => insNat acc (lo / 4096 + i)) acc) []

/-- Whether a stored operand lets K-block kb be skipped. -/
def State.sideSkips (s : State) (o : GmmaOp) (sd : Side) (fmt kb : Nat) : Bool :=
  match sd with
  | .stored _ u off st => match s.blockUid u with
    | some b => (kbRegions off st fmt o.k kb).all (fun r => s.regionZero b r)
    | none => false
  | .gen _ _ _ => false

/-- Whether K-block kb is skipped (08 R174). -/
def State.skipped (s : State) (o : GmmaOp) (kb : Nat) : Bool :=
  o.zs && (s.sideSkips o o.a o.fa kb || s.sideSkips o o.b o.fb kb)

/-! ## The product (08 R172, R173) -/

/-- The scale code of row x for K-block kb: a byte of the scale window, 127 where none is read. -/
def scaleAt (g : Group) (o : GmmaOp) (sd : Side) (first kb x : Nat) : Nat :=
  if o.scl && sd.isStored && hasLane g.present (x % 32) then
    bits (g.vget (first + kb) (x % 32)).toNat (8 * (2 * o.bsel + x / 32)) 8
  else 127

/-- Whether the INT32 path is used (08 R170). -/
def GmmaOp.int (o : GmmaOp) : Bool := !o.scl && (o.fa = 5 || o.fa = 6) && (o.fb = 5 || o.fb = 6)

/-- The integer a finite value stands for. -/
def FV.toInt : FV → Int
  | .fin n m _ => if n then -(m : Int) else m
  | _ => 0

/-- One K-block of one element; `none` is a skipped block. -/
def gmmaStep (int : Bool) (c : Nat) (blk : Option (List FV × List FV × Nat × Nat)) : Nat × Flags :=
  match blk with
  | none => if int then (c, 0) else kblockPairs fp32 (fp32.value c) [] 127 127
  | some (a, b, xa, xb) =>
    if int then dotResult (toSigned 32 c + isum ((a.zip b).map (fun p => p.1.toInt * p.2.toInt)))
    else kblockPairs fp32 (fp32.value c) (a.zip b) xa xb

/-- Rows 0 to 63 of an operand for a K-block: their elements, scales and flags. -/
def State.sideRows (s : State) (g : Group) (o : GmmaOp) (sd : Side) (fmt first kb : Nat) : List (List FV × Nat) × Flags :=
  let rows := (List.range 64).map (fun x => (s.sideElems o sd fmt kb x, scaleAt g o sd first kb x))
  (rows.map (fun r => (r.1.1, r.2)), orFlags (rows.map (fun r => r.1.2)))

/-- The tile after one K-block, as 64 rows of 64 codes. -/
def State.gmmaBlock (s : State) (g : Group) (o : GmmaOp) (c : List (List Nat) × Flags) (kb : Nat) : List (List Nat) × Flags :=
  if s.skipped o kb then
    let r := c.1.map (fun row => row.map (fun v => gmmaStep o.int v none))
    (r.map (fun row => row.map (fun v => v.1)), c.2 ||| orFlags ((r.map (fun row => row.map (fun v => v.2))).flatten))
  else
    let a := s.sideRows g o o.a o.fa o.scw kb
    let b := s.sideRows g o o.b o.fb (o.scw + o.nkb) kb
    let r := (c.1.zip a.1).map (fun ra => (ra.1.zip b.1).map (fun vb =>
      gmmaStep o.int vb.1 (some (ra.2.1, vb.2.1, ra.2.2, vb.2.2))))
    (r.map (fun row => row.map (fun v => v.1)),
      c.2 ||| a.2 ||| b.2 ||| orFlags ((r.map (fun row => row.map (fun v => v.2))).flatten))

/-- An element of a tile after the GMMAs in flight. -/
def Group.tileAt (g : Group) (t i : Nat) : Nat :=
  match (g.gmmas.reverse.find? (fun m => m.tile = t)) with
  | some m => (Sparse.get m.value i).toNat
  | none => (Sparse.get g.tiles (4096 * t + i)).toNat

/-- The values a GMMA gives its tile, and its flags. -/
def State.gmmaValue (s : State) (g : Group) (o : GmmaOp) : Sparse 32 × Flags :=
  let c0 := (List.range 64).map (fun m => (List.range 64).map (fun n => if o.clr then 0 else g.tileAt o.tile (64 * m + n)))
  let r := (List.range o.nkb).foldl (s.gmmaBlock g o) (c0, 0)
  (((r.1.flatten.zip (List.range 4096)).filter (fun v => v.1 % 2 ^ 32 != 0)).map (fun v => (v.2, BitVec.ofNat 32 v.1)), r.2)

/-- Replaces a tile's elements. -/
def setTile (t : Sparse 32) (n : Nat) (v : Sparse 32) : Sparse 32 :=
  t.filter (fun kv => kv.1 < 4096 * n) ++ v.map (fun kv => (4096 * n + kv.1, kv.2)) ++ t.filter (fun kv => 4096 * (n + 1) ≤ kv.1)

/-! ## Checks (08 R175) -/

/-- Why a word does not go on: it waits for an engine, it blocks on an empty register, or it traps. -/
inductive Halt where
  | wait
  | empty
  | trap (c : Cause)
  deriving DecidableEq, Repr

/-- The block and offset of an operand address, or none where R105 is broken. -/
def State.operandAt (s : State) (b : Block) (a : Word) (n : Nat) : Option (Nat × Nat) :=
  (s.scratchAt b a.toNat n).map (fun r => (r.1.uid, r.2))

/-- One operand of a GMMA, or its ALIGN or XPERM. -/
def gmmaSide (x : Issue) (s : State) (gen : Bool) (r fmt k : Nat) : Except Cause Side :=
  if gen then
    let g := nth 0 x.g.gens r
    .ok (.gen r g (genKey g (s.widthsOf x.party (lowLane x.g.live)) (nth 0 x.g.wids (lowLane x.g.live))))
  else
    let a := x.g.sget r
    let st := (x.g.sget (r + 1)).toNat
    let va : DWord := a.setWidth 64
    if a.toNat % 16 != 0 || st % 16 != 0 then .error ⟨0x05, 0, va, 16⟩
    else match (s.blockOfParty x.party).bind (fun b => s.operandAt b a (63 * st + rowSpan fmt k)) with
      | some (u, off) => .ok (.stored a u off st)
      | none => .error ⟨0x07, 0, va, 0⟩

/-- Registers of the scale window that are read (08 R172). -/
def scaleRegs (scl ga gb : Bool) (scw nkb : Nat) : List Nat :=
  if scl then (if ga then [] else (List.range nkb).map (fun i => scw + i))
    ++ (if gb then [] else (List.range nkb).map (fun i => scw + nkb + i)) else []

/-- Check 6 of R175: the control word and its formats against the generators named. -/
def gmmaControlOk (w : Nat) (ga gb : Bool) (gens : List Gen) : Bool :=
  let fa := bits w 17 3
  let fb := bits w 20 3
  let k := w % 2 ^ 11 + 1
  bits w 11 6 = 0 && (decide (fa < 5) = decide (fb < 5)) && ((fa != 7 && fb != 7) || k % 32 = 0) &&
    !(ga && 6 ≤ fa) && !(gb && 6 ≤ fb) && gens.all genValid

/-- ALIGN comes before XPERM (checks 9 and 10), A before B. -/
def pickSide (a b : Except Cause Side) : Option Cause :=
  match a, b with
  | .error c, .error d => some (if c.code = 0x05 then c else if d.code = 0x05 then d else c)
  | .error c, .ok _ => some c
  | .ok _, .error d => some d
  | .ok _, .ok _ => none

/-- The 64-byte lines of an operand's rows. -/
def sideLines (sd : Side) (fmt k : Nat) : List (Nat × Nat) :=
  match sd with
  | .stored _ u off st => ((List.range 64).map (fun x =>
      let lo := off + x * st
      (List.range ((lo + rowSpan fmt k - 1) / 64 - lo / 64 + 1)).map (fun i => (u, 64 * (lo / 64 + i))))).flatten
  | .gen _ _ _ => []

/-- Checks 6 to 10 of R175, and the operation. -/
def gmmaParse (f : FmtV) (x : Issue) (s : State) : Except Halt GmmaOp :=
  let ga := f.fn.getLsbD 10
  let gb := f.fn.getLsbD 9
  let w := (x.g.sget f.sc.toNat).toNat
  let k := w % 2 ^ 11 + 1
  let scl := f.fn.getLsbD 6
  let regs := scaleRegs scl ga gb (bits w 23 9) ((k + 31) / 32)
  let gens := (if ga then [nth 0 x.g.gens f.sa.toNat] else []) ++ (if gb then [nth 0 x.g.gens f.sb.toNat] else [])
  if !gmmaControlOk w ga gb gens then .error (.trap (causeOf 0x01))
  else match regs.find? (fun r => x.g.alloc ≤ r) with
  | some r => .error (.trap ⟨0x02, 0, 0, BitVec.ofNat 64 r⟩)
  | none => match regs.find? (fun r => x.g.vEmpty.contains r) with
    | some r => .error (if f.tc then .trap ⟨0x04, 0, 0, BitVec.ofNat 64 r⟩ else .empty)
    | none => match regFault x.g regs with
    | some c => .error (.trap c)
    | none =>
      let a := gmmaSide x s ga f.sa.toNat (bits w 17 3) k
      let b := gmmaSide x s gb f.sb.toNat (bits w 20 3) k
      match a, b with
      | .ok a, .ok b =>
        if (sideLines a (bits w 17 3) k ++ sideLines b (bits w 20 3) k).any (fun l => s.scratchOwned l.1 l.2) then .error .wait
        else .ok ⟨f.dst.toNat, f.fn.getLsbD 4, f.fn.getLsbD 7, scl, if f.fn.getLsbD 5 then 1 else 0, f.fn.getLsbD 8, k,
          bits w 17 3, bits w 20 3, bits w 23 9, a, b⟩
      | a, b => .error (.trap ((pickSide a b).getD (causeOf 0x01)))

/-- The scratchpad address of the first poisoned sector among an operand's bytes (05 R460). -/
def State.sidePoison (s : State) (sd : Side) (fmt k : Nat) : Option DWord :=
  match sd with
  | .stored a u off st => (s.blockUid u).bind (fun b =>
      (((List.range 64).map (fun x =>
        let lo := off + x * st
        (List.range ((lo + rowSpan fmt k - 1) / 16 - lo / 16 + 1)).map (fun i => lo / 16 + i))).flatten.find?
          (fun q => b.scPoison.contains q)).map (fun q => BitVec.ofNat 64 (a.toNat - off + 16 * q)))
  | .gen _ _ _ => none

/-- Performs a GMMA: its values are taken and its generators advance now; the tile is written at GMMA_COMPLETE. -/
def gmmaRun (x : Issue) (o : GmmaOp) (s : State) : State :=
  let bad := match s.sidePoison o.a o.fa o.k with
    | some a => some a
    | none => s.sidePoison o.b o.fb o.k
  match bad with
  | some a => trapWord x ⟨0x1B, 0, a, 0⟩ x.g.live s
  | none =>
    let r := s.gmmaValue x.g o
    let adv := fun (gs : List Gen) (sd : Side) => match sd with
      | .gen n g _ => setNth gs n (genAdvance g o.t o.k)
      | .stored _ _ _ _ => gs
    retire x { x.g with gmmas := x.g.gmmas ++ [⟨o.tile, r.1, r.2⟩], gens := adv (adv x.g.gens o.a) o.b
                        gangSeq := x.g.gangSeq + 1 } s

/-! ## Gangs (08 R178 to R180) -/

/-- The items that members must agree in (08 R179). -/
def agreeItems (o : GmmaOp) : List Nat :=
  (match o.b with
    | .stored _ u off st => [0, u, off, st]
    | .gen _ g key => [1, g.toNat, key.toNat]) ++ [o.k, o.fb, if o.b.isStored then 0 else 1, if o.t then 1 else 0]

/-- A member of a gang list: its block and group. -/
def State.member (s : State) (b : Block) (e : Nat) : Option (Block × Group) :=
  (s.blocks.find? (fun y => y.launch = b.launch && y.cset = b.cset && y.j = e / 128)).bind (fun y =>
    (y.groups.find? (fun g => g.index = e % 128)).map (fun g => (y, g)))

/-- Whether a list makes a gang of more than its own group. -/
def gangOf (b : Block) (g : Group) : Bool := g.gang != [] && g.gang != [gangName b g]

/-- Enters the rendezvous latch. A list that differs from a waiting member's faults both (08 R180); the items of R179 are compared
when the latch opens (17 R378). Waiting members of the gang are those that the arriver's list names or whose list names the arriver; one
that waits with such a group alone stays in the latch (DESIGN CHOICE, log entry 86). -/
def gmmaLatch (f : FmtV) (b : Block) (x : Issue) (s : State) : State :=
  let me := gangName b x.g
  let near := fun (y : Block) (q : Group) => (x.g.gang.contains (gangName y q) || q.gang.contains me) && gangName y q != me
  let clash := fun (y : Block) (q : Group) => q.latch.isSome && near y q && q.gang != x.g.gang
  if s.blocks.any (fun y => y.launch = b.launch && y.cset = b.cset && y.groups.any (clash y)) then
    trapWord x ⟨0x0B, 0, 0, 2⟩ x.g.live (s.gangFaultBy b near 2)
  else
    let lt : Latched := ⟨x.pc, x.mask, x.g.gangSeq + 1, f, x.word, s.fresh⟩
    { (s.setGrp x.party { x.g with run := none, latch := some lt }).next with cur := none }

/-- GMMA (08 R168 to R176). -/
def execGmma (f : FmtV) (s : State) : Out :=
  laneWord (.gmma f) (fun x s =>
    match gmmaParse f x s, s.blockOfParty x.party with
    | .error .wait, _ => hold s
    | .error .empty, _ => stall x s
    | .error (.trap c), _ => trapWord x c x.g.live s
    | .ok o, some b => if gangOf b x.g then gmmaLatch f b x s else gmmaRun x o s
    | .ok _, none => trapWord x (causeOf 0x01) x.g.live s) s

/-- The issue of a member's GMMA out of the latch. -/
def memberIssue (h : Handle) (g : Group) (lt : Latched) (s : State) : Issue :=
  let df := ((g.tab.find? (fun e => e.pc = lt.pc && e.st = .ready)).map (fun e => e.df)).getD false
  ⟨.group h, lt.pc, lt.mask, df, lt.word, lt.f.b, 0x91, { g with latch := none }, lt.mask, s.ctxOfParty (.group h)⟩

/-- A member's operation out of the latch: what its checks come to. -/
def memberParse (s : State) (h : Handle) : Except Halt GmmaOp :=
  match s.grp? (.group h) with
  | none => .error .wait
  | some g => match g.latch with
    | none => .error .wait
    | some lt => gmmaParse lt.f (memberIssue h g lt s) s

/-- A member's GMMA proceeds from the latch with its own A (08 R179). A member that traps here, as for poison in its own A, keeps the
count of its GMMAs, while the others go on (DESIGN CHOICE, log entry 86). -/
def openMember (h : Handle) (s : State) : State :=
  match s.grp? (.group h) with
  | none => s
  | some g => match g.latch with
    | none => s
    | some lt =>
      let x := memberIssue h g lt s
      let s := match gmmaParse lt.f x s with
        | .ok o => gmmaRun x o s
        | .error (.trap c) => trapWord x c g.live s
        | .error .wait => s
        | .error .empty => s
      match s.grp? (.group h) with
      | some q => if q.stepping then s.trapGroup h (causeOf 0x18) lt.mask lt.pc lt.word else s
      | none => s

/-- GANG_LATCH_OPEN (08 R179): every member of the list waits with the same list and count. A member whose operands wait for an
engine keeps the latch closed; where the items of R179 disagree, every waiting member faults (R180). -/
def execGangLatchOpen (h : Handle) (s : State) : Out :=
  match s.blockOf h, s.grp? (.group h) with
  | some b, some g => match g.latch with
    | none => .next s
    | some lt =>
      let ok := fun (e : Nat) => match s.member b e with
        | some (_, q) => q.gang = g.gang && !q.stopped && !q.saving && (q.latch.map (fun l => l.count)) = some lt.count
        | none => false
      if g.gang.all ok then
        let hs := g.gang.filterMap (fun e => (s.member b e).map (fun yq => (⟨yq.1.core, yq.2.part, yq.2.slot⟩ : Handle)))
        let ops := hs.map (memberParse s)
        let waits := ops.any (fun o => match o with
          | .error .wait => true
          | .error .empty => true
          | _ => false)
        let items := (ops.filterMap (fun o => match o with
          | .ok o => some (agreeItems o)
          | .error _ => none)).eraseDups
        if waits then .next s
        else if 1 < items.length then .next (s.gangFaultBy b (fun y q => g.gang.contains (gangName y q)) 2)
        else .next (hs.foldl (fun s k => openMember k s) s)
      else .next s
  | _, _ => .next s

/-- GMMA_COMPLETE (08 R173): the oldest GMMA of a group writes its tile and its flags. -/
def execGmmaComplete (h : Handle) (s : State) : Out :=
  match s.grp? (.group h) with
  | none => .next s
  | some g => match g.gmmas with
    | [] => .next s
    | m :: rest =>
      let tiles := if m.tile < g.acct && g.live != 0 then setTile g.tiles m.tile m.value else g.tiles
      .next (s.setGrp (.group h) { g with gmmas := rest, tiles := tiles, mxflags := g.mxflags ||| m.mx })

/-- Whether a gang list is valid (08 R178). -/
def State.gangListOk (s : State) (b : Block) (me n : Nat) (entries : List Nat) : Bool :=
  let hd := s.hdrOfBlock b
  n ≤ 8 && entries.all (fun e => e < 512 && e / 128 < hd.nblocks && e % 128 < hd.groups) &&
    entries.all (fun e => hd.role (e % 128) = .any || hd.role (e % 128) = .matrix) &&
    (entries.map (fun e => (e / 128, e % 4))).eraseDups.length = entries.length && (n = 0 || entries.contains me)

/-- GANGSET (17 R374, 08 R178). An empty vA is waited for, or raises EMPTYREAD, and a faulted one raises COMBFAULT, for every count that
reads a lane, above 8 as well; then the list is looked at. Whether or not the list is accepted, waiting members of a gang that names the group fault (R180). -/
def execGangset (f : FmtV) (s : State) : Out :=
  laneWord (.gangset f) (fun x s =>
    match s.blockOfParty x.party with
    | none => trapWord x (causeOf 0x01) x.active s
    | some b =>
      let n := (x.g.sget f.sb.toNat).toNat
      if n != 0 && x.g.vEmpty.contains f.sa.toNat then
        (if f.ta then trapWord x ⟨0x04, 0, 0, BitVec.ofNat 64 f.sa.toNat⟩ x.active s else stall x s)
      else match (if n != 0 then regFault x.g [f.sa.toNat] else none) with
      | some c => trapWord x c x.active s
      | none =>
        let entries := if n ≤ 8 then (List.range n).map (fun e => if hasLane x.g.present e then (x.g.vget f.sa.toNat e).toNat else 0)
          else []
        if !s.gangListOk b (gangName b x.g) n entries then
          trapWord x ⟨0x0B, 0, 0, 1⟩ x.active (s.gangFault b x.g 4)
        else retire x { x.g with gang := entries, gangSeq := 0 } (s.gangFault b x.g 4)) s

/-! ## Accumulator windows (16 R335, R336) -/

/-- First column, number of columns and first row of a window word, or none where a bit is reserved or out of range. -/
def accWindow (w : Nat) : Option (Nat × Nat × Nat) :=
  if w / 2 ^ 13 = 0 && bits w 1 6 + bits w 7 6 ≤ 63 then some (bits w 1 6, bits w 7 6 + 1, 32 * (w % 2)) else none

/-- ACCRD (16 R336, R337). -/
def execAccrd (f : FmtV) (s : State) : Out :=
  laneWord (.accrd f) (fun x s =>
    let d := f.dst.toNat
    let t := f.sa.toNat
    match accWindow (x.g.sget f.sb.toNat).toNat with
    | none => trapWord x (causeOf 0x01) x.g.live s
    | some (col, n, rb) =>
      if x.g.alloc < d + n then trapWord x ⟨0x02, 0, 0, BitVec.ofNat 64 x.g.alloc⟩ x.g.live s
      else if (List.range n).any (fun j => x.g.vEmpty.contains (d + j) && x.g.vPending (d + j)) then stall x s
      else if x.g.gmmas.any (fun m => m.tile = t) then hold s
      else
        let lanes := lanesOf x.g.present
        let cell := fun l j => BitVec.ofNat 32 (x.g.tileAt t (64 * (rb + l) + col + j))
        let p : Producer :=
          { Producer.mk0 s.fresh .accrd with
            vregs := (List.range n).map (fun j => d + j)
            vwrites := Sparse.setAll [] (((List.range n).map (fun j => lanes.map (fun l => (32 * (d + j) + l, cell l j)))).flatten)
            vmask := (List.range n).map (fun j => (d + j, x.g.present)) }
        retire x (x.g.issue p) s.next) s

/-- ACCWR (16 R336, R337). -/
def execAccwr (f : FmtV) (s : State) : Out :=
  laneWord (.accwr f) (fun x s =>
    let a := f.sa.toNat
    let t := f.dst.toNat
    let w := (x.g.sget f.sb.toNat).toNat
    let win := (List.range (bits w 7 6 + 1)).map (fun j => a + j)
    match win.find? (fun r => r < x.g.alloc && x.g.vEmpty.contains r) with
    | some r => if f.ta then trapWord x ⟨0x04, 0, 0, BitVec.ofNat 64 r⟩ x.g.live s else stall x s
    | none => match accWindow w with
      | none => trapWord x (causeOf 0x01) x.g.live s
      | some (col, n, rb) =>
        if x.g.alloc < a + n then trapWord x ⟨0x02, 0, 0, BitVec.ofNat 64 x.g.alloc⟩ x.g.live s
        else if x.g.gmmas.any (fun m => m.tile = t) then hold s
        else match regFault x.g win with
        | some c => trapWord x c x.g.live s
        | none =>
          let ws := ((List.range n).map (fun j => (lanesOf x.g.present).map (fun l =>
            (4096 * t + 64 * (rb + l) + col + j, x.g.vget (a + j) l)))).flatten
          retire x { x.g with tiles := Sparse.setAll x.g.tiles ws } s) s

/-! ## ACCST (16 R338, R339) -/

/-- Type code, row bytes and whether the format is scaled, of an OFMT code (16 R338). -/
def ofmtTy (o : Nat) : Nat := nth 0 [0, 10, 9, 11, 12, 13, 6, 14] o
/-- Row bytes of an OFMT code. -/
def ofmtRow (o : Nat) : Nat := nth 0 [256, 128, 128, 64, 64, 32, 64, 32] o
/-- emax of a scaled format (04 R94). -/
def ofmtEmax (o : Nat) : Int := nth 0 [0, 0, 0, 8, 15, 2, 6, 2] o

/-- A value divided by a block scale, exactly; scale 0xFF makes it a NaN (16 R339), a signalling one where the value is (04 R87). -/
def unscale (x : FV) (sc : Nat) : FV :=
  if sc = 255 then .nan x.isSnan
  else match x with
    | .fin n m e => .fin n m (e + 127 - (sc : Int))
    | y => y

/-- A tile element as stored. -/
def storedCode (o sc c : Nat) : Nat × Flags :=
  if o = 0 then (c, 0)
  else if o < 3 then fcvt (tyFmt (ofmtTy o)) 0 false fp32 c
  else if o < 6 then (tyFmt (ofmtTy o)).deliver 0 .saturate (unscale (fp32.value c) sc)
  else
    let r := fvToInt (ofmtTy o) 0 (unscale (fp32.value c) sc)
    (ofInt (tyWidth (ofmtTy o)) r.1, r.2)

/-- A row converted: its codes, its two scale codes and its flags. -/
def storedRow (o : Nat) (row : List Nat) : List Nat × List Nat × Flags :=
  let sc := if 3 ≤ o then [scaleCode (ofmtEmax o) ((row.take 32).map fp32.value), scaleCode (ofmtEmax o) ((row.drop 32).map fp32.value)]
    else [127, 127]
  let es := (row.zip (List.range 64)).map (fun v => storedCode o (nth 127 sc (v.2 / 32)) v.1)
  (es.map (fun e => e.1), sc, orFlags (es.map (fun e => e.2)))

/-- Elements of w bits packed in bytes (04 R75). -/
def packElems (w : Nat) (l : List Nat) : List Byte :=
  toBytes (l.length * w / 8) ((l.zip (List.range l.length)).foldl (fun a v => a + (v.1 % 2 ^ w) * 2 ^ (w * v.2)) 0)

/-- The bytes ACCST writes, as (offset from the base, bytes) runs (16 R339, 05 R126). -/
def accstRuns (o : Nat) (cmp : Bool) (stride : Nat) (rows : List (List Nat × List Nat)) : List (Nat × List Byte) :=
  let w := tyWidth (ofmtTy o)
  if cmp then
    let nz := rows.map (fun r => (r.1.zip (List.range 64)).filter (fun v => v.1 % 2 ^ (w - 1) != 0))
    let starts := (List.range 64).map (fun i => ((nz.take i).map (fun r => r.length)).foldl (fun a b => a + b) 0)
    let index := (nz.zip starts).map (fun r =>
      toBytes 16 (r.1.foldl (fun a v => a + 2 ^ v.2) 0 + r.2 * 2 ^ 64 + r.1.length * 2 ^ 96))
    [(0, index.flatten), (1024, packElems w ((nz.map (fun r => r.map (fun v => v.1))).flatten))]
  else
    ((rows.zip (List.range 64)).map (fun r => (r.2 * stride, packElems w r.1.1)))
      ++ (if 3 ≤ o then [(64 * stride, (rows.map (fun r => r.2.map (fun x => BitVec.ofNat 8 x))).flatten)] else [])

/-- A run cut into pieces that lie in one 16-byte sector (runs start on a sector). -/
def sectorsOf : Nat → Nat → List Byte → List (Nat × List Byte)
  | 0, _, _ => []
  | fuel + 1, off, l => if l = [] then [] else (off, l.take 16) :: sectorsOf fuel (off + 16) (l.drop 16)

/-- The pieces of every run. -/
def piecesOf (runs : List (Nat × List Byte)) : List (Nat × List Byte) :=
  (runs.map (fun r => sectorsOf (r.2.length / 16 + 1) r.1 r.2)).flatten

/-- Writes bytes into a block's scratchpad, a sector's pieces at a time. -/
def State.scratchPieces (s : State) (u off : Nat) (l : List (Nat × List Byte)) : State :=
  l.foldl (fun s p => s.updBlock u (fun b => b.scWrite (off + p.1) p.2.length (ofBytes p.2))) s

/-- Translates the pieces of a store of the issuing group, stopping at the first fault. -/
def resolvePieces (p : Party) (base : DWord) : List (Nat × List Byte) → State → State × Except (Flt × DWord) (List (Trans × List Byte))
  | [], s => (s, .ok [])
  | q :: t, s =>
    let va := base + BitVec.ofNat 64 q.1
    match s.resolve p va needWr with
    | (s, .error f) => (s, .error (f, va))
    | (s, .ok tr) => match resolvePieces p base t s with
      | (s, .ok l) => (s, .ok ((tr, q.2) :: l))
      | (s, .error e) => (s, .error e)

/-- The store of ACCST to global memory. -/
def accstGlobal (f : FmtV) (x : Issue) (pieces : List (Nat × List Byte)) (mx : Flags) (s : State) : State :=
  let base := x.g.spair f.sa.toNat
  if base.toNat % 16 != 0 then trapWord x ⟨0x05, 0, base, 16⟩ x.g.live s
  else match resolvePieces x.party base pieces s with
  | (s, .error fv) => trapWord x (fltCause fv.1 fv.2 true) x.g.live s
  | (s, .ok l) =>
    if l.any (fun a => s.mustWait x.party a.1 a.2.length false) then hold s
    else
      let s := relBefore x false .group s
      let s := l.foldl (fun s a => s.storeBytes x.party a.1 a.2.length (ofBytes a.2) (relWide x false .group)) s
      retire x (useFence x (x.g.addMx mx)) s

/-- The store of ACCST to a scratchpad. -/
def accstScratch (f : FmtV) (x : Issue) (pieces : List (Nat × List Byte)) (mx : Flags) (s : State) : State :=
  let base := x.g.sget f.sa.toNat
  let len := pieces.foldl (fun a p => if a < p.1 + p.2.length then p.1 + p.2.length else a) 0
  if base.toNat % 16 != 0 then trapWord x ⟨0x05, 0, base.setWidth 64, 16⟩ x.g.live s
  else match (s.blockOfParty x.party).bind (fun b => s.operandAt b base len) with
  | none => trapWord x ⟨0x07, 0, base.setWidth 64, 1⟩ x.g.live s
  | some (u, off) =>
    if pieces.any (fun p => s.scratchOwned u (off + p.1)) then hold s
    else
      let s := relBefore x false .group s
      retire x (useFence x (x.g.addMx mx)) (s.scratchPieces u off pieces)

/-- Whether an ACCST's control word fits its format (16 R338). -/
def accstOk (o : Nat) (cmp : Bool) (w : Nat) : Bool :=
  let stride := w % 2 ^ 20
  w / 2 ^ 20 = 0 && (if cmp then stride = 0 && o < 3 else stride % 16 = 0 && ofmtRow o ≤ stride)

/-- ACCST (16 R337 to R339). -/
def execAccst (f : FmtV) (s : State) : Out :=
  laneWord (.accst f) (fun x s =>
    let o := (f.fn.extractLsb' 8 3).toNat
    let cmp := f.fn.getLsbD 6
    let w := (x.g.sget f.sc.toNat).toNat
    let t := f.sb.toNat
    if !accstOk o cmp w then trapWord x (causeOf 0x01) x.g.live s
    else if x.g.gmmas.any (fun m => m.tile = t) then hold s
    else
      let rows := (List.range 64).map (fun r => storedRow o ((List.range 64).map (fun c => x.g.tileAt t (64 * r + c))))
      let pieces := piecesOf (accstRuns o cmp w (rows.map (fun r => (r.1, r.2.1))))
      let mx := orFlags (rows.map (fun r => r.2.2))
      if f.fn.getLsbD 7 then accstScratch f x pieces mx s else accstGlobal f x pieces mx s) s

/-! ## PQACC (18 R412) -/

/-- One lane's sum over eight table entries. -/
def pqSum (ty : Nat) (table : Nat → Nat) (codes acc : Nat) : Nat × Flags :=
  (List.range 8).foldl (fun a i =>
    let t := table (64 * i + 4 * bits codes (4 * i) 4)
    if ty = 8 then
      let r := fadd32 0 (f32 a.1) (f32 t)
      (r.1, a.2 ||| r.2)
    else ((a.1 + t) % 2 ^ 32, a.2)) (acc, 0)

/-- PQACC (18 R412). -/
def execPqacc (f : FmtV) (s : State) : Out :=
  laneWord (.pqacc f) (fun x s =>
    let base := x.g.sget f.sb.toNat
    let va : DWord := base.setWidth 64
    if base.toNat % 64 != 0 then trapWord x ⟨0x05, 0, va, 64⟩ x.active s
    else
      let a := (base.toNat + 512 * fnSub f.fn) % 2 ^ 32
      match (s.blockOfParty x.party).bind (fun b => s.scratchAt b a 512) with
      | none => trapWord x ⟨0x07, 0, BitVec.ofNat 64 a, 0⟩ x.active s
      | some (b, off) =>
        if (List.range 8).any (fun i => s.scratchOwned b.uid (off + 64 * i)) then hold s
        else match (List.range 32).find? (fun i => b.scPoison.contains (off / 16 + i)) with
        | some i => trapWord x ⟨0x1B, 0, BitVec.ofNat 64 (a + 16 * i), 0⟩ x.g.live s
        | none => aluV f 1 (fun x l => pqSum (fnTy f.fn) (fun o => b.scRead (off + o) 4) (srcA f x 1 l) (srcC f x 1 l)) x s) s

end Sys2Proof.Machine
end

