-- ==== Sys2Proof/Machine/Control.lean ====
section
/-! DEFINITION. Control flow, masks' parking words, exits and trap words, register pool words and WID (spec 16 R351, R352;
17 R364; 18 R393, R415, R416; 19 R432, R436, R437, R439; 02 R29). -/

namespace Sys2Proof.Machine

/-- Ends a control word whose lanes without a fault go to their own targets, and whose faulting lanes trap at the word. -/
def finishTo (x : Issue) (g : Group) (faults : List LaneFault) (nxt : List (LaneMask × DWord)) (s : State) : State :=
  match pickFault faults with
  | none => endWord x g nxt true s
  | some f =>
    let lanes := maskOf (faults.map (fun y => y.lane))
    let s := s.setGrp x.party { (g.advance x.pc (x.mask &&& ~~~lanes) x.df nxt) with run := none }
    s.raise x.party f.cause lanes x.pc x.word

/-- The executing lanes whose guard is false go to the next word. -/
def restNext (x : Issue) : LaneMask × DWord := (x.mask &&& ~~~x.active, x.pc + 8)

/-- The target of a format B word: PC + 8 × OFF32 (14 R309). -/
def relTarget (x : Issue) (off : BitVec 32) : DWord := x.pc + 8 * sext64 off

/-- BRA (16 R352). -/
def execBra (f : FmtB) (s : State) : Out :=
  laneWord (.bra f) (fun x s => endWord x x.g [(x.active, relTarget x f.off), restNext x] true s) s

/-- CALL (16 R352): the link pair, then the branch. -/
def execCall (f : FmtB) (s : State) : Out :=
  laneWord (.call f) (fun x s =>
    let g := x.lanes.foldl (fun g l => g.vsetN (2 * f.fn.toNat) 2 l (x.pc + 8)) x.g
    endWord x g [(x.active, relTarget x f.off), restNext x] true s) s

/-- An indirect branch (16 R352): a target with bits [2:0] set is ALIGN for its lane. -/
def indirect (f : FmtV) (x : Issue) (s : State) : State :=
  let tgt := fun l => if f.fn.getLsbD 0 then x.g.spair f.sa.toNat else x.g.vpair f.sa.toNat l
  let bad := x.lanes.filter (fun l => (tgt l).extractLsb' 0 3 != 0)
  let good := x.lanes.filter (fun l => (tgt l).extractLsb' 0 3 = 0)
  finishTo x x.g (bad.map (fun l => ⟨l, ⟨0x05, 0, tgt l, 8⟩⟩)) (restNext x :: good.map (fun l => (laneBit l, tgt l))) s

/-- BRX (16 R352). -/
def execBrx (f : FmtV) (s : State) : Out := laneWord (.brx f) (indirect f) s
/-- RET (18 R416). -/
def execRet (f : FmtV) (s : State) : Out := laneWord (.ret f) (indirect f) s

/-- Lanes park at a JOIN or a WAITM, the others go on, and parked masks are re-evaluated (18 R393, 19 R436). -/
def parkWord (f : FmtV) (st : EntrySt) (x : Issue) (s : State) : State :=
  let p := x.active &&& x.g.mget f.sa.toNat
  let g := x.g.advance x.pc x.mask x.df [(x.mask &&& ~~~p, x.pc + 8)]
  let g := if p = 0 then g else { g with tab := insParked g.tab x.pc p st (BitVec.ofNat 4 f.sa.toNat) }
  s.setGrp x.party { g.reeval with run := none }

/-- JOIN (18 R393). -/
def execJoin (f : FmtV) (s : State) : Out := laneWord (.join f) (parkWord f .join) s
/-- WAITM (19 R436). -/
def execWaitm (f : FmtV) (s : State) : Out := laneWord (.waitm f) (parkWord f .waitm) s

/-- LEAVE (18 R393). -/
def execLeave (f : FmtV) (s : State) : Out :=
  laneWord (.leave f) (fun x s =>
    retire x (x.g.mset f.sa.toNat (x.g.mget f.sa.toNat &&& ~~~x.active)).reeval s) s

/-- YIELD (03 R53, 19 R439): the entry formed at the next word is deferred. Where its lanes join an unparked entry that stands there
already with DEF 0, R49's AND gives the merged entry DEF 0 (DESIGN CHOICE, log entry 79: R48 could be read to give 1). -/
def execYield (f : FmtV) (s : State) : Out :=
  laneWord (.yield f) (fun x s =>
    let g := x.g.advance x.pc x.mask x.df []
    let g := { g with tab := wakeUniform g.live (insReady g.tab (x.pc + 8) x.mask true) }
    s.setGrp x.party { g with run := none }) s

/-- EXIT (17 R364, R365, 09 R204). -/
def execExit (f : FmtV) (s : State) : Out :=
  laneWord (.exit f) (fun x s =>
    match x.party with
    | .wave _ _ => trapWord x (causeOf 0x108) x.active s
    | .ranger _ => trapWord x (causeOf 0) x.active s
    | .group h =>
      match x.g.marks.head? with
      | some m => trapWord x ⟨0x0D, 0, m.obj, BitVec.ofNat 64 (m.cause.toNat + 256 * m.meth.toNat)⟩ x.active s
      | none =>
        let g := (x.g.advance x.pc x.mask x.df [restNext x]).exitLanes x.active
        State.afterExit (s.setGrp x.party { g with run := none }) h) s

/-- A word that raises a trap and counts as completed by its active lanes, which stay at it until TRAPRET (R72). -/
def trapCompleted (x : Issue) (c : Cause) (s : State) : State :=
  let rest := x.mask &&& ~~~x.active
  let s := s.setGrp x.party { (x.g.advance x.pc rest x.df [(rest, x.pc + 8)]) with run := none }
  s.raise x.party c x.active x.pc x.word

/-- TRAP (19 R432): TRAPCODE with its code. -/
def execTrap (f : FmtV) (s : State) : Out :=
  laneWord (.trap f) (fun x s => trapCompleted x ⟨0x17, 0, 0, BitVec.ofNat 64 f.fn.toNat⟩ s) s

/-- BKPT (16 R351). -/
def execBkpt (f : FmtV) (s : State) : Out := laneWord (.bkpt f) (fun x s => trapCompleted x (causeOf 0x16) s) s

/-! ## The register pool (02 R28, R29, 18 R415) -/

/-- REGRANGE of a register count (12 R267). -/
def poolRange (n : Nat) : Cause := ⟨0x02, 0, 0, BitVec.ofNat 64 (n + 2048)⟩

/-- Gives registers A − n to A − 1 back: their contents are discarded. -/
def Group.giveRegs (g : Group) (n : Nat) : Group :=
  let a := g.alloc - n
  { g with alloc := a, v := Sparse.drop g.v (fun k => 32 * a ≤ k), vEmpty := g.vEmpty.filter (fun r => r < a)
           marks := g.marks.filter (fun m => 2 * m.pair < a) }

/-- RGIVE (02 R29, 18 R415). -/
def execRgive (f : FmtV) (s : State) : Out :=
  laneWord (.rgive f) (fun x s =>
    let n := 8 * f.fn.toNat
    if n = 0 then retire x x.g s
    else if x.g.alloc < n + 8 then trapWord x (poolRange n) x.g.live s
    else if (List.range n).any (fun i => x.g.vPending (x.g.alloc - n + i)) then stall x s
    else match s.blockOfParty x.party with
      | none => retire x x.g s
      | some b => (retire x (x.g.giveRegs n) s).updBlock b.uid (fun b => { b with free := b.free + n })) s

/-- Takes n registers, zero and full. -/
def Group.takeRegs (g : Group) (n : Nat) : Group :=
  let a := g.alloc
  { g with alloc := a + n, v := Sparse.drop g.v (fun k => 32 * a ≤ k && k < 32 * (a + n))
           vEmpty := g.vEmpty.filter (fun r => r < a || a + n ≤ r)
           marks := g.marks.filter (fun m => 2 * m.pair < a || a + n ≤ 2 * m.pair) }

/-- The claim at the head of a block's queue is granted (02 R29). -/
def Block.grantClaim (b : Block) (n : Nat) : Block := { b with free := b.free - n, claims := b.claims.drop 1 }

/-- A block's claim queue with a group's claim (02 R29). A claim that was stopped while it waited keeps its place when its word issues
again (log entry 24); where a handler has moved the group past that word and it now claims another number, the old claim leaves
(DESIGN CHOICE, log entry 84). -/
def Block.enqueue (b : Block) (gix n : Nat) : List Claim :=
  if b.claims.contains ⟨gix, n⟩ then b.claims else b.claims.filter (fun c => c.gix != gix) ++ [⟨gix, n⟩]

/-- RCLAIM (02 R29, 18 R415): granted at once at the head of the queue with enough free registers, else it waits. -/
def execRclaim (f : FmtV) (s : State) : Out :=
  laneWord (.rclaim f) (fun x s =>
    let n := 8 * f.fn.toNat
    match s.blockOfParty x.party with
    | none => retire x x.g s
    | some b =>
      if n = 0 then retire x x.g s
      else if 8 * (s.hdrOfBlock b).rmaxq < x.g.alloc + n then trapWord x (poolRange n) x.g.live s
      else
        let q := b.enqueue x.g.index n
        let s := s.updBlock b.uid (fun b => { b with claims := q })
        if (q.head?.map (fun c => c.gix)) = some x.g.index && n ≤ b.free then
          (retire x (x.g.takeRegs n) s).updBlock b.uid (fun b => b.grantClaim n)
        else
          stall { x with g := { x.g with waits := x.g.waits ++ [⟨x.pc, x.mask, x.active, s.fresh, .rclaim n, x.word⟩] } } s.next) s

/-- A waiting word completes: its lanes go on to the next word and the wait ends. -/
def Group.endWait (g : Group) (w : Wait) : Group :=
  let df := ((g.tab.find? (fun e => e.pc = w.pc && e.st = .ready)).map (fun e => e.df)).getD false
  { (g.advance w.pc w.mask df [(w.mask, w.pc + 8)]) with waits := g.waits.filter (fun y => y.stamp != w.stamp) }

/-- A group under STEP whose waiting word has completed stops with cause STEP (12 R286). -/
def State.stepStop (s : State) (p : Party) (w : Wait) : State :=
  match p, s.grp? p with
  | .group h, some g => if g.stepping then s.trapGroup h (causeOf 0x18) w.mask w.pc w.word else s
  | _, _ => s

/-- RCLAIM_GRANT (02 R29): the claim at the head of the queue is granted once FREE suffices. A claim whose group a handler has moved past
its RCLAIM keeps its place, and holds back later ones, until the group claims again or exits (DESIGN CHOICE, log entry 84). -/
def execRclaimGrant (blk : Nat) (s : State) : Out :=
  match s.blockUid blk with
  | none => .next s
  | some b =>
    match b.claims.head? with
    | none => .next s
    | some c =>
      match b.groups.find? (fun g => g.index = c.gix && !g.stopped && !g.saving) with
      | none => .next s
      | some g =>
        match g.waits.find? (fun w => w.kind = .rclaim c.n) with
        | none => .next s
        | some w =>
          if c.n ≤ b.free then
            let p : Party := .group ⟨b.core, g.part, g.slot⟩
            .next (((s.setGrp p ((g.takeRegs c.n).endWait w)).updBlock b.uid (fun b => b.grantClaim c.n)).stepStop p w)
          else .next s

/-! ## WID (19 R437) -/

/-- Field n of a work identifier under the widths W1 to W5 (02 R20). -/
def widField (widths : List Nat) (n : Nat) (wid : DWord) : Nat :=
  let ws := 5 :: widths
  bits wid.toNat ((ws.take n).foldl (fun a b => a + b) 0) (nth 0 ws n)

/-- The index that the fields of an identifier from level n on give, under their extents (02 R22). -/
def widIndex (widths : List Nat) (n : Nat) (exts : List Nat) (wid : DWord) : Nat :=
  ((exts.zip (List.range exts.length)).reverse).foldl (fun acc ei => widField widths (n + ei.2) wid + ei.1 * acc) 0

/-- The value WID writes in a lane of a group, of the lane's current identifier (19 R437): a field, the identifier, the group index,
or the block number. -/
def widVal (code : Nat) (h : Header) (w : DWord) : Nat :=
  if code < 6 then widField h.widths code w else if code = 6 then w.toNat
  else if code = 7 then widIndex h.widths 1 h.extB w else widIndex h.widths (h.c + 1) h.extK w

/-- WID (19 R437). -/
def execWid (f : FmtV) (s : State) : Out :=
  laneWord (.wid f) (fun x s =>
    let code := f.fn.toNat
    let cnt := if code = 6 then 2 else 1
    match x.party with
    | .group h =>
      let hd := ((s.blockOf h).map (fun b => s.hdrOfBlock b)).getD default
      aluOut x false f.dst.toNat cnt (fun l => (widVal code hd (nth 0 x.g.wids l), 0)) s
    | .wave _ _ =>
      if code = 6 then aluOut x false f.dst.toNat cnt (fun l => ((nth 0 x.g.wids l).toNat, 0)) s
      else trapWord x (causeOf 0x01) x.active s
    | .ranger _ => aluOut x false f.dst.toNat cnt (fun _ => (0, 0)) s) s

end Sys2Proof.Machine
end

