-- ==== Sys2Proof/Machine/Sync.lean ====
section
/-! DEFINITION. Barriers and slot buffers (spec 05 R113 to R120; 16 R341; 19 R420, R421, R435; 02 R31). -/

namespace Sys2Proof.Machine

/-! ## Barrier objects (05 R117, R118) -/

/-- What an arrival comes to, with the state it leaves. -/
inductive Arrival where
  | done (s : State)
  | barfault (s : State)
  | poison (s : State)

/-- An arrival of count n at a barrier's home (05 R118). A barrier in a peer window is served at the peer's home, whose answer is
free: done, or BARFAULT. An address that no barrier can have receives the violation response, poison (13 R299, R300). The
spec's words and its pseudocode differ on a count of 0 where ARRIVED already equals EXPECTED, which no arrival leaves: the model
follows the pseudocode, and the phase completes (DESIGN CHOICE, log entry 79). -/
def State.arrive (s : State) (die ctx : Nat) (t : Trans) (n : Nat) : Arrival :=
  match region t.pa with
  | .peer tgt =>
    match s.peerAsk die ctx tgt t.pa (fun a => .peerArrive tgt a (BitVec.ofNat 32 n)) 1 with
    | (s, none) => .poison s
    | (s, some c) => if c % 2 = 1 then .barfault s else .done s
  | .mmio _ => .poison (s.violation die ctx (BitVec.ofNat 64 t.pa))
  | .hole => .poison (s.violation die ctx (BitVec.ofNat 64 t.pa))
  | _ =>
    if s.poisoned t.pa then .poison s
    else
      let ex := s.homeRead t.pa 4
      let ar := s.homeRead (t.pa + 4) 4
      if ex = 0 || s.homeRead (t.pa + 12) 4 != 0 || ex < ar + n then .barfault s
      else
        let by_ := leafMs t.leaf
        if ar + n = ex then
          .done (((s.homeWrite by_ (t.pa + 4) 4 0).homeWrite by_ (t.pa + 8) 4 ((s.homeRead (t.pa + 8) 4 + 1) % 2 ^ 32)).markHome t)
        else .done ((s.homeWrite by_ (t.pa + 4) 4 (ar + n)).markHome t)

/-- The PHASE of a barrier (05 R117), read at its home; none where it is poisoned. -/
def State.phaseAt (s : State) (p : Party) (t : Trans) : State × Got :=
  (s.dropOwn p (t.pa + 8)).loadBytes p (Trans.pastL1 { t with pa := t.pa + 8 }) 4

/-- ARRIVE (16 R341). -/
def execArrive (f : FmtV) (s : State) : Out :=
  laneWord (.arrive f) (fun x s =>
    let va := x.g.spair f.sa.toNat
    let n := if f.fn.getLsbD 6 then bits f.fn.toNat 7 4 else (x.g.sget f.sb.toNat).toNat
    let sc := scopeOf (fnScope f.fn)
    if va.toNat % 16 != 0 then trapWord x ⟨0x05, 0, va, 16⟩ x.active s
    else match s.resolve x.party va needRw with
    | (s, .error fl) => trapWord x (fltCause fl va true) x.active s
    | (s, .ok t) =>
      if s.waveWindow x.party t.pa then trapWord x ⟨0x107, 0, va, 0⟩ x.active s
      else if (Acc.mk 0 va t).peer && sc != .system then trapWord x ⟨0x1A, 0, va, 0⟩ x.active s
      else if s.mustWait x.party t 16 false then hold s
      else
        let s := (relBefore x true sc s).dropOwn x.party t.pa
        match s.arrive (partyDie x.party) x.ctx t n with
        | .done s => retire x (useFence x x.g) s
        | .barfault s => trapWord x ⟨0x12, 0, va, BitVec.ofNat 64 n⟩ x.active s
        | .poison s => trapWord x ⟨0x1B, 0, va, 0⟩ x.active s) s

/-- WAITB (19 R435): completes at once when the phase differs, else the entry waits. -/
def execWaitb (f : FmtV) (s : State) : Out :=
  laneWord (.waitb f) (fun x s =>
    let va := x.g.spair f.sa.toNat
    let ph := x.g.sget f.sb.toNat
    let sc := scopeOf (fnScope f.fn)
    let rmt := fnRmt f.fn
    if va.toNat % 16 != 0 then trapWord x ⟨0x05, 0, va, 16⟩ x.active s
    else match s.resolve x.party va needRd with
    | (s, .error fl) => trapWord x (fltCause fl va false) x.active s
    | (s, .ok t) =>
      if (rmt && rmtBad sc) || ((Acc.mk 0 va t).peer && sc != .system) then trapWord x ⟨0x1A, 0, va, 0⟩ x.active s
      else if s.mustWait x.party t 16 false then hold s
      else match s.phaseAt x.party t with
      | (s, none) => trapWord x ⟨0x1B, 0, va, 0⟩ x.active s
      | (s, some v) =>
        if v != ph.toNat then retire x x.g (acquireAt x rmt sc s)
        else
          let w : Wait := ⟨x.pc, x.mask, x.active, s.fresh, .waitb va ph sc rmt, x.word⟩
          stall { x with g := { x.g with waits := x.g.waits ++ [w] } } s.next) s

/-- A waiting WAITB reads its barrier's phase again and completes as an acquire when it differs (05 R120, 19 R435). Each read
translates the barrier's VA anew (06 R144, 05 R123) and waits for an engine that owns its line (07 R156). Where the barrier no
longer translates or its sector is poisoned, which the spec does not speak of, the wait ends and the word issues again, to meet
the cause (DESIGN CHOICE, log entry 31). -/
def wakeWait (p : Party) (pc : DWord) (s : State) : State :=
  match s.grp? p with
  | none => s
  | some g =>
    if g.stopped || g.saving then s
    else match g.waits.find? (fun w => w.pc = pc && (match w.kind with
        | .waitb _ _ _ _ => true
        | _ => false)) with
    | none => s
    | some w =>
      let again := fun (s : State) => s.setGrp p { g with waits := g.waits.filter (fun y => y.stamp != w.stamp) }
      match w.kind with
      | .waitb va ph sc rmt =>
        match s.resolve p va needRd with
        | (s, .error _) => again s
        | (s, .ok t) =>
          if s.mustWait p t 16 false then s
          else match s.phaseAt p t with
          | (s, none) => again s
          | (s, some v) =>
            if v = ph.toNat then s
            else
              let s := if rmt then s.promote (partyCore p) sc else s
              ((s.acquire (partyCore p) sc).setGrp p (g.endWait w)).stepStop p w
      | _ => s

/-- WAITB_WAKE (05 R120): the home's monitor reports a phase change. -/
def execWaitbWake (p : Party) (pc : BitVec 64) (s : State) : Out := .next (wakeWait p pc s)
/-- WAITB_POLL (05 R120): the core polls the barrier. -/
def execWaitbPoll (p : Party) (pc : BitVec 64) (s : State) : Out := .next (wakeWait p pc s)

/-! ## Slot buffers (05 R113 to R116) -/

/-- NSLOTM1 of a configuration word. -/
def sbN (cfg : Word) : Nat := bits cfg.toNat 26 6
/-- SIZE, in bytes. -/
def sbSize (cfg : Word) : Nat := 64 * bits cfg.toNat 12 14
/-- BASE, in bytes. -/
def sbBase (cfg : Word) : Nat := 256 * bits cfg.toNat 0 12

/-- The slot word of slot i in a phase (05 R115). -/
def SlotBuf.word (b : SlotBuf) (i : Nat) (ph : Bool) : Word :=
  BitVec.ofNat 32 ((sbBase b.cfg + i * sbSize b.cfg) % 2 ^ 20 + 2 ^ 20 * i + (if ph then 2 ^ 26 else 0))

/-- The next index and phase of a ring. -/
def ringNext (n i : Nat) (ph : Bool) : Nat × Bool := if i + 1 = n then (0, !ph) else (i + 1, ph)

/-- SBRES's step, if slot PIX is free: the slot word and the buffer after it. -/
def SlotBuf.reserve (b : SlotBuf) (by_ : SlotSt) : Option (Word × SlotBuf) :=
  if b.slots[b.pix]? = some .free then
    let nx := ringNext b.slots.length b.pix b.pph
    some (b.word b.pix b.pph, { b with slots := setNth b.slots b.pix by_, pix := nx.1, pph := nx.2 })
  else none

/-- SBTAKE's step, if slot CIX is filled. -/
def SlotBuf.take (b : SlotBuf) : Option (Word × SlotBuf) :=
  if b.slots[b.cix]? = some .filled then
    let nx := ringNext b.slots.length b.cix b.cph
    some (b.word b.cix b.cph, { b with slots := setNth b.slots b.cix .taken, cix := nx.1, cph := nx.2 })
  else none

/-- Slot buffer n of a block. -/
def Block.sbuf (b : Block) (n : Nat) : SlotBuf := nth ⟨0, [], 0, false, 0, false⟩ b.sbufs n

/-- Replaces a slot buffer. -/
def Block.setSbuf (b : Block) (n : Nat) (x : SlotBuf) : Block := { b with sbufs := setNth b.sbufs n x }

/-- SBFAULT of a buffer and slot (12 R267). -/
def sbFault (n i : Nat) : Cause := ⟨0x11, 0, 0, BitVec.ofNat 64 (n + 16 * i)⟩

/-- Slot that a waiting SBRES of a buffer writes its slot word to. -/
def WaitKind.resOf (k : WaitKind) (n : Nat) : Option Nat :=
  match k with
  | .sbres b d => if b = n then some d else none
  | _ => none

/-- As `resOf`, for SBTAKE. -/
def WaitKind.takeOf (k : WaitKind) (n : Nat) : Option Nat :=
  match k with
  | .sbtake b d => if b = n then some d else none
  | _ => none

/-- The oldest wait of a block's groups that satisfies a test. -/
def oldestWait (b : Block) (p : WaitKind → Option Nat) : Option (Group × Wait × Nat) :=
  let all := (b.groups.map (fun g => if g.stopped || g.saving then []
    else g.waits.filterMap (fun w => (p w.kind).map (fun d => (g, w, d))))).flatten
  (sortBy (fun (a b : Group × Wait × Nat) => a.2.1.stamp ≤ b.2.1.stamp) all).head?

/-- When the buffers of a block received the reservations of engines that wait for a slot of buffer n (05 R116). -/
def State.engineAsks (s : State) (uid n : Nat) : List Nat :=
  s.copies.filterMap (fun c => if c.blk = uid && c.cmd.ctl.getLsbD 2 && bits c.cmd.ctl.toNat 3 4 = n then c.asked else none)
    ++ s.tiers.filterMap (fun c => if c.blk = uid && c.kind && c.sb = n then c.asked else none)

/-- Whether a reservation received at `stamp` is the oldest of buffer n (05 R115, R116). -/
def State.resFirst (s : State) (b : Block) (n stamp : Nat) : Bool :=
  (match oldestWait b (fun k => k.resOf n) with
    | some w => decide (stamp ≤ w.2.1.stamp)
    | none => true) && (s.engineAsks b.uid n).all (fun t => stamp ≤ t)

/-- Whether no SBTAKE received before `stamp` waits on buffer n. -/
def takeFirst (b : Block) (n stamp : Nat) : Bool :=
  match oldestWait b (fun k => k.takeOf n) with
  | some w => decide (stamp ≤ w.2.1.stamp)
  | none => true

/-- SBRES or SBTAKE: granted at once where no earlier operation waits on the buffer, or waiting at its word. -/
def slotWord (f : FmtV) (first : Block → Bool) (step : SlotBuf → Option (Word × SlotBuf)) (kind : WaitKind) (x : Issue) (s : State) :
    State :=
  match s.blockOfParty x.party with
  | none => trapWord x (causeOf 0x01) x.active s
  | some b =>
    let n := f.sa.toNat
    let sb := b.sbuf n
    if sb.slots = [] then trapWord x (sbFault n 0) x.active s
    else match (if first b then step sb else none) with
    | some r => (retire x ((x.g.sset f.dst.toNat r.1).markFull [] [f.dst.toNat]) s).updBlock b.uid (fun b => b.setSbuf n r.2)
    | none =>
      let g := x.g.markEmpty [] [f.dst.toNat]
      stall { x with g := { g with waits := g.waits ++ [⟨x.pc, x.mask, x.active, s.fresh, kind, x.word⟩] } } s.next

/-- SBRES (05 R115, 19 R420). -/
def execSbres (f : FmtV) (s : State) : Out :=
  laneWord (.sbres f) (fun x s => slotWord f (fun b => s.resFirst b f.sa.toNat s.fresh) (fun b => b.reserve .reserved)
    (.sbres f.sa.toNat f.dst.toNat) x s) s

/-- SBTAKE (05 R115, 19 R420): an acquire at BLOCK scope. -/
def execSbtake (f : FmtV) (s : State) : Out :=
  laneWord (.sbtake f) (fun x s => slotWord f (fun b => takeFirst b f.sa.toNat s.fresh) (fun b => b.take)
    (.sbtake f.sa.toNat f.dst.toNat) x s) s

/-- SBFILL or SBFREE: the slot named must be in state `was` and becomes `now`. -/
def slotMark (f : FmtV) (was now : SlotSt) (x : Issue) (s : State) : State :=
  match s.blockOfParty x.party with
  | none => trapWord x (causeOf 0x01) x.active s
  | some b =>
    let n := f.sa.toNat
    let sb := b.sbuf n
    let i := bits (x.g.sget f.sb.toNat).toNat 20 6
    if sb.slots[i]? = some was then
      (retire x x.g s).updBlock b.uid (fun b => b.setSbuf n { sb with slots := setNth sb.slots i now })
    else trapWord x (sbFault n i) x.active s

/-- SBFILL (05 R115): a release at BLOCK scope. -/
def execSbfill (f : FmtV) (s : State) : Out := laneWord (.sbfill f) (slotMark f .reserved .filled) s
/-- SBFREE (05 R115). -/
def execSbfree (f : FmtV) (s : State) : Out := laneWord (.sbfree f) (slotMark f .taken .free) s

/-- A waiting SBRES or SBTAKE is granted, the oldest first (19 R421). -/
def grantSlot (blk n : Nat) (p : WaitKind → Option Nat) (first : Block → Nat → Bool) (step : SlotBuf → Option (Word × SlotBuf))
    (s : State) : State :=
  match s.blockUid blk with
  | none => s
  | some b =>
    match oldestWait b p, step (b.sbuf n) with
    | some (g, w, d), some r =>
      if !first b w.stamp then s
      else
        let g := ((g.sset d r.1).markFull [] [d]).endWait w
        let p : Party := .group ⟨b.core, g.part, g.slot⟩
        ((s.setGrp p g).updBlock blk (fun b => b.setSbuf n r.2)).stepStop p w
    | _, _ => s

/-- SBRES_GRANT (05 R115). -/
def execSbresGrant (blk buf : Nat) (s : State) : Out :=
  .next (grantSlot blk buf (fun k => k.resOf buf) (fun b st => s.resFirst b buf st) (fun b => b.reserve .reserved) s)

/-- SBTAKE_GRANT (05 R115). -/
def execSbtakeGrant (blk buf : Nat) (s : State) : Out :=
  .next (grantSlot blk buf (fun k => k.takeOf buf) (fun _ _ => true) (fun b => b.take) s)

/-- Whether an engine names a slot buffer (05 R113). -/
def State.engineNames (s : State) (uid n : Nat) : Bool :=
  s.copies.any (fun c => c.blk = uid && c.cmd.ctl.getLsbD 2 && bits c.cmd.ctl.toNat 3 4 = n)
    || s.tiers.any (fun c => c.blk = uid && c.kind && c.sb = n)

/-- A write of SYS.SBCFG (05 R113): the buffer after it, or none where it raises SBFAULT. -/
def State.sbcfg (s : State) (b : Block) (n : Nat) (v : Word) : Option SlotBuf :=
  let old := b.sbuf n
  let slots := sbN v + 1
  if b.sbufs.length ≤ n || old.slots.any (fun t => t != .free) || s.engineNames b.uid n then none
  else if sbN v = 0 then some ⟨v, [], 0, false, 0, false⟩
  else if sbSize v = 0 || (s.hdrOfBlock b).scratch < sbBase v + slots * sbSize v then none
  else some ⟨v, List.replicate slots .free, 0, false, 0, false⟩

/-- The word at a PC of a group, without effects. -/
def State.wordAt (s : State) (h : Handle) (pc : DWord) : Option DWord :=
  match s.translate (.core h.core) (s.ctxOfParty (.group h)) pc needEx with
  | (s, .ok t) => some (BitVec.ofNat 64 (s.homeRead t.pa 8))
  | _ => none

/-- Waiting SBTAKEs of a buffer that is no longer configured raise SBFAULT (19 R421), and so do SBRESs (05 R115). -/
def failTakers (b : Block) (n : Nat) (s : State) : State :=
  b.groups.foldl (fun s g =>
    match g.waits.find? (fun w => (w.kind.takeOf n).isSome || (w.kind.resOf n).isSome) with
    | some w =>
      let h : Handle := ⟨b.core, g.part, g.slot⟩
      (s.setGrp (.group h) g.dropWaits).trapGroup h (sbFault n 0) w.act w.pc w.word
    | none => s) s

/-- What a SYSWR to SBCFG does for a party's block: SBFAULT, or the new buffer with its waiters. -/
def sbcfgApply (b : Block) (n : Nat) (v : Word) (s : State) : Option State :=
  match s.sbcfg b n v with
  | none => none
  | some sb =>
    let s := s.updBlock b.uid (fun b => b.setSbuf n sb)
    some (if sb.slots = [] then failTakers b n s else s)

/-- SBCFG_WRITE (05 R113): the write as an event of the buffer; refused where it would raise SBFAULT. -/
def execSbcfgWrite (blk buf : Nat) (v : BitVec 32) (s : State) : Out :=
  match s.blockUid blk with
  | none => .next s
  | some b => .next ((sbcfgApply b buf v s).getD s)

/-! ## The deadlock monitor (02 R31) -/

/-- Whether an entry waits in a WAITB of BLOCK scope. -/
def Group.blockWaitb (g : Group) (e : Entry) : Bool :=
  e.st = .ready && g.waits.any (fun w => w.pc = e.pc && (match w.kind with
    | .waitb _ _ sc _ => sc = .block
    | _ => false))

/-- Whether a group is blocked in a block-local wait (02 R31): its head waits in RCLAIM, SBRES or SBTAKE, or it has no head and waits
in a WAITB of BLOCK scope with every ready entry (19 R435: no other entry is ready), or every entry is parked at a WAITM. The spec
does not say whether a group whose lanes are parked some at a JOIN and some at a WAITM, and none waits in WAITB, counts as parked
at WAITM (03 R61): the model says no (DESIGN CHOICE, log entry 79). -/
def Group.localWait (g : Group) : Bool :=
  match g.head with
  | .entry e => g.waits.any (fun w => w.pc = e.pc && (match w.kind with
      | .sbres _ _ => true
      | .sbtake _ _ => true
      | .rclaim _ => true
      | _ => false))
  | .none => g.tab != [] && (g.tab.all (fun e => e.st = .waitm) ||
      (g.tab.any g.blockWaitb && g.tab.all (fun e => e.st != .ready || g.blockWaitb e)))
  | .nonuniform => false

/-- Whether an engine that asked for a slot of buffer n at `stamp` still waits for it: no slot is free at PIX, or an earlier
reservation comes first (05 R115, R116). -/
def State.slotHeld (s : State) (b : Block) (n stamp : Nat) : Bool := !(s.resFirst b n stamp && ((b.sbuf n).reserve .engine).isSome)

/-- Whether an engine operation of a block is in flight that does not itself wait on a slot buffer (02 R31, 08 R176). A tier
command of KIND 0 counts for no block (19 R429). -/
def State.engineBusy (s : State) (b : Block) : Bool :=
  b.groups.any (fun g => g.gmmas != []) ||
    s.copies.any (fun c => c.blk = b.uid && !c.asked.any (fun t => s.slotHeld b (bits c.cmd.ctl.toNat 3 4) t)) ||
    s.tiers.any (fun c => c.blk = b.uid && c.kind && !c.asked.any (fun t => s.slotHeld b c.sb t))

/-- Whether a wait of a group of a block has ended but for its grant: the claim heads its queue with registers enough (02 R29), the
slot is there and no older operation comes first (05 R115), or the barrier's phase has moved or cannot be read (05 R120). -/
def State.granted (s : State) (b : Block) (g : Group) (w : Wait) : Bool :=
  match w.kind with
  | .rclaim n => b.claims.head? = some ⟨g.index, n⟩ && n ≤ b.free
  | .sbres n _ => s.resFirst b n w.stamp && ((b.sbuf n).reserve .reserved).isSome
  | .sbtake n _ => takeFirst b n w.stamp && (b.sbuf n).take.isSome
  | .waitb va ph _ _ =>
    let p : Party := .group ⟨b.core, g.part, g.slot⟩
    match s.resolve p va needRd with
    | (_, .error _) => true
    | (s, .ok t) => !s.mustWait p t 16 false && (s.phaseAt p t).2 != some ph.toNat
  | .detlog => false

/-- The condition of 02 R31 on a block. A wait whose grant only has to be made blocks no group, and a block that is being pre-empted is
not evaluated. -/
def State.deadlocked (s : State) (b : Block) : Bool :=
  let live := b.groups.filter (fun g => g.live != 0)
  live != [] && live.all (fun g => g.localWait && !g.stopped && !g.saving && !g.waits.any (s.granted b g)) &&
    live.any (fun g => g.waits.any (fun w => match w.kind with
      | .rclaim _ => true
      | _ => false)) && !s.engineBusy b

/-- REGDEADLOCK (02 R31): every blocked group traps at its blocked word, in group order (12 R283). Of a group that is blocked in several
entries the record has the PC and lanes of the wait that began first; of one that has no such wait, the lowest entry's PC and all live
lanes (DESIGN CHOICE, log entry 88). -/
def execRegdeadlock (blk : Nat) (s : State) : Out :=
  match s.blockUid blk with
  | none => .next s
  | some b =>
    if !s.deadlocked b then .next s
    else .next ((sortBy (fun (x y : Group) => x.index ≤ y.index) (b.groups.filter (fun g => g.live != 0))).foldl (fun s g =>
      let h : Handle := ⟨b.core, g.part, g.slot⟩
      let w := g.waits.head?
      let pc := match w with
        | some w => w.pc
        | none => ((lowest g.tab).map (fun e => e.pc)).getD 0
      let mask := (w.map (fun w => w.mask)).getD g.live
      let word := match w with
        | some w => w.word
        | none => (s.wordAt h pc).getD 0
      s.trapGroup h ⟨0x10, 0, 0, BitVec.ofNat 64 b.free⟩ mask pc word) s)

end Sys2Proof.Machine
end

