-- ==== Sys2Proof/Machine/Engines.lean ====
section
/-! DEFINITION. Copy, gather and tier engines (spec 16 R345 to R348; 19 R429, R430; 05 R116, R121 to R124, R460; 07 R155 to
R158, R458; 12 R279). -/

namespace Sys2Proof.Machine

/-! ## Engine accesses -/

/-- An engine's read of a 16-byte sector at a physical address, under its leaf's policy: its bytes, or none where it is poisoned. -/
def State.engineRead (s : State) (die ctx : Nat) (leaf : DWord) (pa : Nat) : State × Option Nat :=
  match region pa with
  | .peer tgt => s.peerAsk die ctx tgt pa (fun a => .peerRequest tgt a false []) 16
  | .mmio _ => (s.violation die ctx (BitVec.ofNat 64 pa), none)
  | .hole => (s.violation die ctx (BitVec.ofNat 64 pa), none)
  | _ => if s.poisoned pa then (s, none) else
      let r := s.homeFor die (leafMs leaf) (leafStrm leaf) pa 16
      (r.1, some r.2)

/-- An engine's write of n bytes of one sector; `none` writes the sector poisoned (05 R460). -/
def State.engineWrite (s : State) (die ctx : Nat) (t : Trans) (n : Nat) (x : Option Nat) : State :=
  match region t.pa with
  | .peer tgt => (s.peerAsk die ctx tgt t.pa (fun a => match x with
      | some v => .peerRequest tgt a true (toBytes n v)
      | none => .peerPoison tgt a n) 0).1
  | .mmio _ => s.violation die ctx (BitVec.ofNat 64 t.pa)
  | .hole => s.violation die ctx (BitVec.ofNat 64 t.pa)
  | _ => match x with
    | some v => (s.homeWrite (leafMs t.leaf) t.pa n v).markHome t
    | none => (s.homeWrite (leafMs t.leaf) t.pa n 0).setPoison t.pa true

/-- An ENGINE entry of the error log (13 R299, 05 R118). -/
def State.logEngine (s : State) (die ctx : Nat) (va : DWord) : State := s.logPlain die 0x09 ctx va

/-- An engine's report of n bytes; one that faults is not written and is logged. -/
def State.engineReport (s : State) (die ctx : Nat) (va : DWord) (n x : Nat) : State :=
  if va.toNat % n != 0 then s.logEngine die ctx va
  else match s.translate (.die die) ctx va needWr with
  | (s, .error _) => s.logEngine die ctx va
  | (s, .ok t) => s.engineWrite die ctx t n (some x)

/-- An engine's arrival of count 1; one that fails is logged (05 R118, R119). -/
def State.engineArrive (s : State) (die ctx : Nat) (va : DWord) : State :=
  if va.toNat % 16 != 0 then s.logEngine die ctx va
  else match s.translate (.die die) ctx va needRw with
  | (s, .error _) => s.logEngine die ctx va
  | (s, .ok t) => match s.arrive die ctx t 1 with
    | .done s => s
    | .barfault s => s.logEngine die ctx va
    | .poison s => s.logEngine die ctx va

/-! ## Command records -/

/-- Reads a command record of n × 8 bytes for a party (18 R395): its words, or a fault, poison or a wait. -/
def readRecord (x : Issue) (va : DWord) (n : Nat) (s : State) : State × Except Halt (List Nat) :=
  match s.resolve x.party va needRd with
  | (s, .error f) => (s, .error (.trap (fltCause f va false)))
  | (s, .ok t) =>
    if s.mustWait x.party t (8 * n) true then (s, .error .wait)
    else
      let r := (List.range n).foldl (fun (a : State × Option (List Nat)) i =>
        match a.2, a.1.loadBytes x.party { t with pa := t.pa + 8 * i } 8 with
        | some l, (s, some v) => (s, some (l ++ [v]))
        | _, (s, _) => (s, none)) (s, some [])
      match r.2 with
      | some l => (r.1, .ok l)
      | none => (r.1, .error (.trap ⟨0x1B, 0, va, 0⟩))

/-- The copy command of a record's eight words, and whether every reserved field is zero (16 R345). -/
def copyCmd (gather : Bool) (w : List Nat) : CopyCmd × Bool :=
  let q := fun i => nth 0 w i
  let c : CopyCmd :=
    { gather := gather, src := BitVec.ofNat 64 (q 0), dst := BitVec.ofNat 64 (q 1), idx := BitVec.ofNat 64 (q 2)
      rowBytes := bits (q 3) 0 24, rows := bits (q 3) 32 16, sstride := BitVec.ofNat 32 (q 4)
      dstride := BitVec.ofNat 32 (bits (q 4) 32 32), ctl := BitVec.ofNat 32 (q 5), bar := BitVec.ofNat 64 (q 6)
      report := BitVec.ofNat 64 (q 7) }
  (c, (gather || q 2 = 0) && bits (q 3) 24 8 = 0 && bits (q 3) 48 16 = 0 && bits (q 5) 11 53 = 0)

/-- SKS. -/
def CopyCmd.sks (c : CopyCmd) : Bool := c.ctl.getLsbD 0
/-- DKS. -/
def CopyCmd.dks (c : CopyCmd) : Bool := c.ctl.getLsbD 1
/-- SBD. -/
def CopyCmd.sbd (c : CopyCmd) : Bool := c.ctl.getLsbD 2
/-- SBN. -/
def CopyCmd.sbn (c : CopyCmd) : Nat := bits c.ctl.toNat 3 4
/-- MCAST. -/
def CopyCmd.mcast (c : CopyCmd) : Nat := bits c.ctl.toNat 7 4
/-- SSTRIDE as a number: signed for BCOPY, unsigned for BGATHER. -/
def CopyCmd.sstep (c : CopyCmd) : Int := if c.gather then c.sstride.toNat else c.sstride.toInt
/-- DSTRIDE, signed. -/
def CopyCmd.dstep (c : CopyCmd) : Int := c.dstride.toInt

/-- Lowest byte and one past the highest of rows from a base. -/
def rowsSpan (base step : Int) (rows bytes : Nat) : Int × Int :=
  let last := base + ((rows - 1 : Nat) : Int) * step
  (if step < 0 then last else base, (if step < 0 then base else last) + bytes)

/-- Whether two intervals meet. -/
def spansMeet (a b : Int × Int) : Bool := a.1 < b.2 && b.1 < a.2

/-- The block a scratchpad address names among the issuing block's cluster set, and the offset; none where R105 is broken. -/
def State.scratchBase (s : State) (b : Block) (a : DWord) : Option (Block × Nat) := s.scratchAt b a.toNat 0

/-- Whether a span of offsets lies in a block's scratchpad. -/
def State.spanIn (s : State) (b : Block) (sp : Int × Int) : Bool := 0 ≤ sp.1 && sp.2 ≤ ((s.hdrOfBlock b).scratch : Int)

/-- The blocks a copy writes: the destination's, and those of MCAST (16 R345). -/
def State.destBlocks (s : State) (b : Block) (c : CopyCmd) : List Block :=
  let d := match (if c.sbd then some (b, 0) else s.scratchBase b c.dst) with
    | some y => [y.1]
    | none => []
  d ++ s.blocks.filter (fun y => y.launch = b.launch && y.cset = b.cset && c.mcast.testBit y.j && !d.any (fun z => z.uid = y.uid))

/-- Source and destination intervals of a BCOPY meet in one space, the destination starting at offset `base` of a block
when it is scratchpad (check 6 of R346, R347). Where an address breaks 05 R105, which check 8 finds later, the addresses
themselves are compared. -/
def State.copyMeets (s : State) (b : Block) (c : CopyCmd) (base : Nat) : Bool :=
  if c.gather || c.sks != c.dks then false
  else if !c.dks then
    spansMeet (rowsSpan c.src.toNat c.sstep c.rows c.rowBytes) (rowsSpan c.dst.toNat c.dstep c.rows c.rowBytes)
  else match s.scratchBase b c.src, c.sbd || (s.scratchBase b c.dst).isSome with
    | some (sb, so), true => (s.destBlocks b c).any (fun y => y.uid = sb.uid) &&
        spansMeet (rowsSpan so c.sstep c.rows c.rowBytes) (rowsSpan base c.dstep c.rows c.rowBytes)
    | _, _ => !c.sbd && spansMeet (rowsSpan c.src.toNat c.sstep c.rows c.rowBytes) (rowsSpan c.dst.toNat c.dstep c.rows c.rowBytes)

/-- Checks 6 to 9 of R346. -/
def copyCheck (s : State) (b : Block) (c : CopyCmd) (rsv : Bool) : Option Cause :=
  let destOff := if c.dks && !c.sbd then (s.scratchBase b c.dst).map (fun y => y.2) else none
  let rangeOk := 16 ≤ c.rowBytes && c.rowBytes % 16 = 0 && c.rows != 0 && (c.mcast = 0 || (c.dks && !c.dst.getLsbD 23)) &&
    (!c.sbd || (c.dks && c.mcast = 0 && 0 ≤ c.dstep)) && c.report.toNat % 16 = 0
  let scratch := fun (a : DWord) (step : Int) (rows bytes : Nat) => match s.scratchBase b a with
    | some (y, o) => s.spanIn y (rowsSpan o step rows bytes)
    | none => false
  let high := fun (a : DWord) => a.extractLsb' 57 7 != 0
  if !rsv || !rangeOk || (!c.sbd && s.copyMeets b c (destOff.getD 0)) then some (causeOf 0x01)
  else if c.src.toNat % 16 != 0 then some ⟨0x05, 0, c.src, 16⟩
  else if c.dst.toNat % 16 != 0 then some ⟨0x05, 0, c.dst, 16⟩
  else if c.sstride.toNat % 16 != 0 then some ⟨0x05, 0, c.src, 16⟩
  else if c.dstride.toNat % 16 != 0 then some ⟨0x05, 0, c.dst, 16⟩
  else if c.gather && c.idx.toNat % 4 != 0 then some ⟨0x05, 0, c.idx, 4⟩
  else if (if !c.gather && c.sks then !scratch c.src c.sstep c.rows c.rowBytes else high c.src) then some ⟨0x07, 0, c.src, 0⟩
  else if c.gather && (if c.sks then !scratch c.idx 4 c.rows 4 else high c.idx) then some ⟨0x07, 0, c.idx, 0⟩
  else if !c.sbd && (if c.dks then !scratch c.dst c.dstep c.rows c.rowBytes else high c.dst) then some ⟨0x07, 0, c.dst, 1⟩
  else if (bitList 4 c.mcast).any (fun j => !s.blocks.any (fun y => y.launch = b.launch && y.cset = b.cset && y.j = j &&
      s.spanIn y (rowsSpan (destOff.getD 0) c.dstep c.rows c.rowBytes))) then some ⟨0x07, 0, c.dst, 1⟩
  else if c.sbd then
    let sb := b.sbuf c.sbn
    if b.sbufs.length ≤ c.sbn || sb.slots = [] ||
        (sbSize sb.cfg : Int) < (rowsSpan c.dst.toNat c.dstep c.rows c.rowBytes).2 then some (sbFault c.sbn 0)
    else none
  else none

/-! ## Ownership (07 R156, R458) -/

/-- The address of a row of a copy's destination, from a base. -/
def CopyCmd.rowAt (c : CopyCmd) (base row : Nat) : Int := (base : Int) + (row : Int) * c.dstep

/-- The rows still to be written, from row r, byte o on: row number, first byte, and bytes. -/
def CopyCmd.rest (c : CopyCmd) (r o : Nat) : List (Nat × Nat × Nat) :=
  ((List.range c.rows).drop r).filterMap (fun row =>
    let lo := if row = r then o else 0
    if lo < c.rowBytes then some (row, lo, c.rowBytes - lo) else none)

/-- The physical lines of a copy's global destination still to be written from row r, byte o on; a page that does not
translate owns nothing. -/
def State.destLines (s : State) (die ctx : Nat) (c : CopyCmd) (r o : Nat) : List (Nat × Nat) :=
  (((c.rest r o).map (fun w =>
    let lo := BitVec.ofInt 64 (c.rowAt c.dst.toNat w.1) + BitVec.ofNat 64 w.2.1
    (List.range (w.2.2 / 16)).filterMap (fun i =>
      let va := lo + BitVec.ofNat 64 (16 * i)
      if i = 0 || va.toNat % 64 = 0 then match s.translate (.die die) ctx va needWr with
        | (_, .ok t) => some (0, t.pa / 64)
        | _ => none
      else none))).flatten).eraseDups

/-- The scratchpad lines of a copy's destination still to be written, at offset `base` of its blocks. -/
def State.destScratch (s : State) (b : Block) (c : CopyCmd) (base r o : Nat) : List (Nat × Nat) :=
  (((s.destBlocks b c).map (fun y => ((c.rest r o).map (fun w =>
    let lo := (c.rowAt base w.1).toNat + w.2.1
    (List.range ((lo + w.2.2 - 1) / 64 - lo / 64 + 1)).map (fun i => (y.uid + 1, lo / 64 + i)))).flatten)).flatten).eraseDups

/-- The base of an engine's destination: a VA, or an offset of its blocks (16 R347). -/
def CopyEngine.base (e : CopyEngine) (s : State) (b : Block) : Nat :=
  let sb := b.sbuf e.cmd.sbn
  if e.cmd.sbd then ((e.slot.map (fun k => sbBase sb.cfg + k * sbSize sb.cfg)).getD 0) + e.cmd.dst.toNat
  else if e.cmd.dks then ((s.scratchBase b e.cmd.dst).map (fun y => y.2)).getD 0
  else e.cmd.dst.toNat

/-- The lines that an engine has still to write (07 R156, R157); none before it has its slot. -/
def CopyEngine.pending (e : CopyEngine) (s : State) (b : Block) : List (Nat × Nat) :=
  if e.cmd.sbd && e.slot.isNone then []
  else if e.cmd.dks then s.destScratch b e.cmd (e.base s b) e.row (16 * e.sector)
  else s.destLines (coreDie b.core) e.ctx e.cmd e.row (16 * e.sector)

/-- Drops the copies of lines that an engine takes: the issuing core's L1, both RDCs and the L2, which writes dirty data back
(07 R156). A line of a window in a batch is taken when the batch ends; the engine waits until then (R458). -/
def State.takeLines (s : State) (core : Nat) (l : List (Nat × Nat)) : State :=
  (l.filter (fun k => k.1 = 0)).foldl (fun s k => ((s.l1DropLine core k.2).rdcDrop (64 * k.2) 64).cleanL2 (64 * k.2) 64) s

/-- Whether an engine has a line to write that a batch in flight holds (07 R458). -/
def State.awaitsBatch (s : State) (e : CopyEngine) : Bool :=
  e.owned.any (fun k => k.1 = 0 && s.potluck.waves.any (fun w => w.lines.contains k.2))

/-! ## The slot of an engine (05 R116) -/

/-- Replaces an engine. -/
def State.setCopy (s : State) (e : CopyEngine) : State :=
  { s with copies := updFirst (fun y => y.id = e.id) (fun _ => e) s.copies }

/-- What an engine's reservation comes to. -/
inductive Reserve where
  | go (s : State) (e : CopyEngine)
  | wait (s : State)

/-- Reserves the engine's slot, if it needs one, where the ring has a free slot and no earlier reservation waits; else the buffer
has received its reservation, and the engine waits in its place (05 R115, R116, 16 R347). -/
def copyReserve (b : Block) (e : CopyEngine) (s : State) : Reserve :=
  if !e.cmd.sbd || e.slot.isSome || (s.blockUid b.uid).isNone then .go s e
  else
    let sb := b.sbuf e.cmd.sbn
    let stamp := e.asked.getD s.fresh
    match (if s.resFirst b e.cmd.sbn stamp then sb.reserve .engine else none) with
    | none => if e.asked.isSome then .wait s else .wait (s.setCopy { e with asked := some s.fresh }).next
    | some r =>
      let e := { e with slot := some sb.pix, asked := none }
      let b := b.setSbuf e.cmd.sbn r.2
      let e := { e with owned := e.pending s b }
      .go ((s.updBlock b.uid (fun _ => b)).setCopy e) e

/-- An engine that has just been issued reserves its slot at once, where it can, and owns the slot's lines before any later word of its
group is performed (07 R155, R156); else it has its place in the ring (05 R116), and later words go on meanwhile (DEDUCED, log entry
88). -/
def State.askSlot (b : Block) (e : CopyEngine) (s : State) : State :=
  match copyReserve b e s with
  | .go s _ => s
  | .wait s => s

/-! ## BCOPY and BGATHER (16 R346) -/

/-- Checks a record and starts an engine, which owns its destination at once (07 R155, R156). -/
def copyWord (gather : Bool) (f : FmtV) (x : Issue) (s : State) : State :=
  let va := x.g.spair f.sa.toNat
  if va.toNat % 64 != 0 then trapWord x ⟨0x05, 0, va, 64⟩ x.g.live s
  else match readRecord x va 8 s with
  | (s, .error .wait) => hold s
  | (s, .error .empty) => stall x s
  | (s, .error (.trap c)) => trapWord x c x.g.live s
  | (s, .ok w) =>
    let (c, rsv) := copyCmd gather w
    match s.blockOfParty x.party, partyCore x.party with
    | some b, some core =>
      match copyCheck s b c rsv with
      | some cs => trapWord x cs x.g.live s
      | none =>
        let s := s.release (some core) .device
        let e : CopyEngine := { id := s.fresh, blk := b.uid, gix := x.g.index, core := core, launch := b.launch, cset := b.cset
                                ctx := x.ctx, cmd := c, slot := none, asked := none, row := 0, sector := 0, index := none, owned := [] }
        let e := { e with owned := e.pending s b }
        let s := s.takeLines core e.owned
        retire x x.g (State.askSlot b e { s with copies := s.copies ++ [e], fresh := s.fresh + 1 })
    | _, _ => trapWord x (causeOf 0x01) x.g.live s

/-- BCOPY (16 R346). -/
def execBcopy (f : FmtV) (s : State) : Out := laneWord (.bcopy f) (copyWord false f) s
/-- BGATHER (16 R346). -/
def execBgather (f : FmtV) (s : State) : Out := laneWord (.bgather f) (copyWord true f) s

/-! ## The engine's run (16 R347, R348) -/

/-- How far an engine got: it has more rows, it must wait, it is done, or it stopped with a status, a cause and an FVA. -/
inductive Progress where
  | more | blocked | done
  | stopped (status cause : Nat) (fva : DWord)
  deriving DecidableEq, Repr

/-- Bytes of a scratchpad whose block has ended, on which the spec is silent: free values. -/
def State.goneBytes (s : State) (n : Nat) : State × Nat :=
  ({ s with fresh := s.fresh + n }, ofBytes ((List.range n).map (fun i => Config.goneByte (s.fresh + i))))

/-- An engine's read of its cluster set's scratchpad, as it stands now: its bytes, none where they are poisoned. -/
def State.scratchGet (s : State) (uid off n : Nat) : State × Option Nat :=
  match s.blockUid uid with
  | some y => (s, if y.scPoisoned off n then none else some (y.scRead off n))
  | none =>
    let r := s.goneBytes n
    (r.1, some r.2)

/-- BGATHER's index word, read once, when the engine reaches its row: the engine that holds it, a fault, or a poisoned word
(16 R347). -/
def copyIndex (die : Nat) (b : Block) (e : CopyEngine) (s : State) : State × Except (Nat × DWord) CopyEngine :=
  let at_ := e.cmd.idx + BitVec.ofNat 64 (4 * e.row)
  if !e.cmd.gather || e.index.isSome then (s, .ok e)
  else if e.cmd.sks then
    let yo := (s.scratchBase b at_).getD (b, 0)
    match s.scratchGet yo.1.uid yo.2 4 with
    | (s, none) => (s, .error (0x1B, at_))
    | (s, some v) => (s, .ok { e with index := some v })
  else match s.translate (.die die) e.ctx at_ needRd with
    | (s, .error f) => (s, .error (f.cause, at_))
    | (s, .ok t) =>
      match s.engineRead die e.ctx t.leaf (t.pa / 16 * 16) with
      | (s, none) => (s, .error (0x1B, at_))
      | (s, some v) => (s, .ok { e with index := some (bits v (8 * (t.pa % 16)) 32) })

/-- The source address of the current row (16 R347). -/
def CopyEngine.rowSrc (e : CopyEngine) (s : State) (b : Block) : Int :=
  let c := e.cmd
  if c.gather then (((c.src + BitVec.ofNat 64 (e.index.getD 0 * c.sstride.toNat)).toNat : Nat) : Int)
  else
    let base : Int := if c.sks then ((((s.scratchBase b c.src).map (fun y => y.2)).getD 0 : Nat) : Int) else c.src.toNat
    base + (e.row : Int) * c.sstep

/-- One sector of the source: its bytes (none: poisoned), or a fault. -/
def copySectorSrc (die : Nat) (b : Block) (e : CopyEngine) (at_ : Int) (s : State) : State × Except (Nat × DWord) (Option Nat) :=
  if e.cmd.sks && !e.cmd.gather then
    let yo := (s.scratchBase b e.cmd.src).getD (b, 0)
    let r := s.scratchGet yo.1.uid (at_.toNat + 16 * e.sector) 16
    (r.1, .ok r.2)
  else
    let va := BitVec.ofInt 64 at_ + BitVec.ofNat 64 (16 * e.sector)
    match s.translate (.die die) e.ctx va needRd with
    | (s, .error f) => (s, .error (f.cause, va))
    | (s, .ok t) =>
      let r := s.engineRead die e.ctx t.leaf t.pa
      (r.1, .ok r.2)

/-- Writes a sector of scratchpad, poisoned where the source was. -/
def Block.scSector (b : Block) (off : Nat) (x : Option Nat) : Block :=
  match x with
  | some v => b.scWrite off 16 v
  | none => { (b.scWrite off 16 0) with scPoison := insNat b.scPoison (off / 16) }

/-- The engine after a sector: the next of the row, or the next row's first. It gives up the lines that it has no more to write
(07 R157), which it looks at where a sector ends its line or its row. -/
def CopyEngine.advance (e : CopyEngine) (s : State) (b : Block) (at_ : Nat) : CopyEngine :=
  let last : Bool := 16 * (e.sector + 1) = e.cmd.rowBytes
  let e' := if last then { e with row := e.row + 1, sector := 0, index := none } else { e with sector := e.sector + 1 }
  if last || at_ % 64 = 48 then
    let left := e'.pending s b
    { e' with owned := e.owned.filter (fun k => left.contains k) }
  else e'

/-- Moves one sector. -/
def copySector (die : Nat) (b : Block) (e : CopyEngine) (s : State) : State × CopyEngine × Progress :=
  let c := e.cmd
  match copyIndex die b e s with
  | (s, .error r) => (s, e, .stopped 1 r.1 r.2)
  | (s, .ok e) => match copySectorSrc die b e (e.rowSrc s b) s with
    | (s, .error r) => (s, e, .stopped 1 r.1 r.2)
    | (s, .ok x) =>
      if c.dks then
        let off := (c.rowAt (e.base s b) e.row).toNat + 16 * e.sector
        let s := (s.destBlocks b c).foldl (fun s y => s.updBlock y.uid (fun y => y.scSector off x)) s
        (s, e.advance s b off, .more)
      else
        let va := BitVec.ofInt 64 (c.rowAt (e.base s b) e.row) + BitVec.ofNat 64 (16 * e.sector)
        match s.translate (.die die) e.ctx va needWr with
        | (s, .error f) => (s, e, .stopped 1 f.cause va)
        | (s, .ok t) =>
          if s.potluck.waves.any (fun w => w.lines.contains (t.pa / 64)) then (s, e, .blocked)
          else
            let s := s.engineWrite die e.ctx t 16 x
            (s, e.advance s b va.toNat, .more)

/-- Moves up to n sectors. -/
def copySectors (die : Nat) (b : Block) : Nat → CopyEngine → State → State × CopyEngine × Progress
  | 0, e, s => (s, e, if e.row = e.cmd.rows then .done else .more)
  | n + 1, e, s =>
    if e.row = e.cmd.rows then (s, e, .done)
    else match copySector die b e s with
      | (s, e, .more) => copySectors die b n e s
      | r => r

/-- Fills a slot that an engine reserved (05 R116). -/
def Block.engineFill (b : Block) (n k : Nat) : Block :=
  b.setSbuf n { b.sbuf n with slots := setNth (b.sbuf n).slots k .filled }

/-- The end of a copy: report, slot, arrival (16 R347, R348). -/
def copyEnd (die : Nat) (e : CopyEngine) (status cause : Nat) (fva : DWord) (s : State) : State :=
  let c := e.cmd
  let s := { s with copies := s.copies.filter (fun y => y.id != e.id) }
  let rep := e.row + cause * 2 ^ 40 + status * 2 ^ 48 + fva.toNat * 2 ^ 64
  let s := if c.report = 0 then s else s.engineReport die e.ctx c.report 16 rep
  let s := match e.slot with
    | some k => s.updBlock e.blk (fun b => b.engineFill c.sbn k)
    | none => s
  if c.bar = 0 then s else s.engineArrive die e.ctx c.bar

/-- Whether a block's cluster set is saved, so that its engines stand still (12 R279); it is until its restore has ended, when they take
their lines again (07 R157). -/
def State.blockSaved (s : State) (uid : Nat) : Bool :=
  s.sched.saved.any (fun v => v.blocks.any (fun b => b.uid = uid) || (v.restoring && match s.blockUid uid with
    | some b => b.launch = v.launch && b.cset = v.cset
    | none => false))

/-- An engine's block, or what stands for one that has ended before the engine: no group, slot buffer or scratchpad. -/
def CopyEngine.block (e : CopyEngine) (s : State) : Block :=
  (s.blockUid e.blk).getD { (default : Block) with uid := e.blk, launch := e.launch, cset := e.cset, j := 4, core := e.core }

/-- COPY_ENGINE_COMPLETE (16 R347, R348): the engine runs, at most `upto` sectors, and completes where it ends. It stands still while
a batch holds a line that it is to write (07 R458). -/
def execCopyEngineComplete (id : Nat) (upto : Option Nat) (s : State) : Out :=
  match s.copies.find? (fun e => e.id = id) with
  | none => .next s
  | some e =>
    if s.blockSaved e.blk then .next s
    else
      let die := coreDie (e.block s).core
      match copyReserve (e.block s) e s with
      | .wait s => .next s
      | .go s e =>
        let b := e.block s
        if s.awaitsBatch e then .next (s.setCopy e)
        else if e.cmd.sbd && e.row = 0 && e.sector = 0 && s.copyMeets b e.cmd (e.base s b) then .next (copyEnd die e 2 0 0 s)
        else
          let total := e.cmd.rows * (e.cmd.rowBytes / 16)
          match copySectors die b (match upto with
            | some n => if n < total then n else total
            | none => total) e s with
          | (s, e, .done) => .next (copyEnd die e 0 0 0 s)
          | (s, e, .stopped st ca fva) => .next (copyEnd die e st ca fva s)
          | (s, e, _) => .next (s.setCopy e)

/-- Whether an engine stands inside a destination line that it has begun to write: its last sector and its next lie in one line. -/
def CopyEngine.midLine (e : CopyEngine) (s : State) (b : Block) : Bool :=
  let base := e.base s b
  let next := e.cmd.rowAt base e.row + 16 * e.sector
  let last := if e.sector = 0 then e.cmd.rowAt base (e.row - 1) + e.cmd.rowBytes - 16 else next - 16
  (e.row != 0 || e.sector != 0) && decide (e.row < e.cmd.rows) && next / 64 = last / 64

/-- Brings an engine to its next line boundary, at most `n` sectors on (12 R279). -/
def toBoundary : Nat → CopyEngine → State → State
  | 0, _, s => s
  | n + 1, e, s =>
    let b := e.block s
    if !e.midLine s b then s
    else match copySectors (coreDie b.core) b 1 e s with
      | (s, e, .done) => copyEnd (coreDie b.core) e 0 0 0 s
      | (s, e, .stopped st ca fva) => copyEnd (coreDie b.core) e st ca fva s
      | (s, e, .blocked) => s.setCopy e
      | (s, e, .more) => toBoundary n e (s.setCopy e)

/-! ## Pages (05 R121, R123) -/

/-- The address of a VA's level-5 entry, or a status (05 R124): 3 where a table is missing or its entry breaks 06 R132, 2 where a
larger leaf maps the VA. -/
def tableAt (s : State) (va : Nat) : List Nat → Nat → Except Nat Nat
  | [], t => .ok (t + 8 * tblIndex va 5)
  | lvl :: rest, t =>
    let e := BitVec.ofNat 64 (s.homeRead (t + 8 * tblIndex va lvl) 8)
    if !e.getLsbD 0 || e.extractLsb' 52 7 != 0 then .error 3
    else if e.getLsbD 1 then (if leafReserved lvl e then .error 3 else .error 2)
    else if e.extractLsb' 2 10 != 0 then .error 3
    else tableAt s va rest (leafFrame e)

/-- What step 1 of R123 finds: the frame and the address of its sixteen entries, the frame of a page already moved, or a status. -/
inductive PageAt where
  | frame (pa at_ : Nat)
  | moved (pa : Nat)
  | bad (status : Nat)
  deriving DecidableEq, Repr

/-- Whether a frame lies in the tier a command moves to. -/
def inTarget (inward : Bool) (pa : Nat) : Bool :=
  match region pa with
  | .hbm _ => inward
  | .ct => !inward
  | _ => false

/-- The addresses of the table entries that a walk for a VA reads, down from a table. -/
def entriesRead (s : State) (va : Nat) : List Nat → Nat → List Nat
  | [], _ => []
  | lvl :: rest, t =>
    let at_ := t + 8 * tblIndex va lvl
    let e := BitVec.ofNat 64 (s.homeRead at_ 8)
    at_ :: (if e.getLsbD 0 && !e.getLsbD 1 && e.extractLsb' 2 10 = 0 && e.extractLsb' 52 7 = 0 then entriesRead s va rest (leafFrame e) else [])

/-- The tier engine's reads of the tables that lead to a VA; one in the MMIO range is logged (13 R300). -/
def State.lookTables (s : State) (die ctx va : Nat) : State :=
  let root := s.rootEntry ctx
  let l := s.rootAt ctx :: (if root.getLsbD 0 && va < 2 ^ 57 then entriesRead s va [1, 2, 3, 4, 5] (leafFrame root) else [])
  l.foldl (fun s a => s.lookTable die ctx a) s

/-- Step 1 of R123. A VA beyond 57 bits is a translation fault, and so is an entry of the sixteen that breaks 06 R132. -/
def State.pageAt (s : State) (ctx : Nat) (inward : Bool) (va : Nat) : PageAt :=
  let root := s.rootEntry ctx
  if !root.getLsbD 0 || 2 ^ 57 ≤ va then .bad 3
  else match tableAt s va [1, 2, 3, 4] (leafFrame root) with
    | .error st => .bad st
    | .ok at_ =>
      let es := s.contig at_
      if es.any (fun e => e.getLsbD 0 && (e.extractLsb' 52 7 != 0 || !e.getLsbD 1 || leafReserved 5 e)) then .bad 3
      else if !oneFrame es then .bad 2
      else
        let fr := leafFrame (es.headD 0)
        if inTarget inward fr then .moved fr
        else if inTarget (!inward) fr then .frame fr (at_ / 128 * 128)
        else .bad 2

/-- The frame that a context's tables map a VA to, by a leaf of any level, if any. -/
def frameOf (s : State) (va : Nat) : List Nat → Nat → Option Nat
  | [], _ => none
  | lvl :: rest, t =>
    let e := BitVec.ofNat 64 (s.homeRead (t + 8 * tblIndex va lvl) 8)
    if !e.getLsbD 0 || e.extractLsb' 52 7 != 0 then none
    else if e.getLsbD 1 then (if leafReserved lvl e then none else some (leafFrame e + va % 2 ^ leafBits lvl))
    else if e.extractLsb' 2 10 != 0 then none
    else frameOf s va rest (leafFrame e)

/-- The die whose engine runs a command: that which homes the first page's current frame (05 R121). Where no leaf maps the page,
which R121 does not speak of, die 0 (DESIGN CHOICE, log entry 79). -/
def State.tierDie (s : State) (ctx : Nat) (page : DWord) : Nat :=
  if !(s.rootEntry ctx).getLsbD 0 then 0
  else ((frameOf s page.toNat [1, 2, 3, 4, 5] (leafFrame (s.rootEntry ctx))).map homeDie).getD 0

/-! ## TIERIN and TIEROUT (19 R429) -/

/-- Checks a record and starts a tier command. -/
def tierWord (inward : Bool) (f : FmtV) (x : Issue) (s : State) : State :=
  let va := x.g.spair f.sa.toNat
  if va.toNat % 32 != 0 then trapWord x ⟨0x05, 0, va, 32⟩ x.g.live s
  else match readRecord x va 4 s with
  | (s, .error .wait) => hold s
  | (s, .error .empty) => stall x s
  | (s, .error (.trap c)) => trapWord x c x.g.live s
  | (s, .ok w) =>
    let page := BitVec.ofNat 64 (nth 0 w 0)
    let w1 := nth 0 w 1
    let count := bits w1 0 32
    let sb := bits w1 34 4
    match s.blockOfParty x.party with
    | none => trapWord x (causeOf 0x01) x.g.live s
    | some b =>
      if bits w1 38 26 != 0 || bits w1 33 1 != 0 || count = 0 || 65536 < count || page.toNat % 65536 != 0
          || page.extractLsb' 57 7 != 0 then trapWord x (causeOf 0x01) x.g.live s
      else if bits w1 32 1 = 1 && (b.sbufs.length ≤ sb || (b.sbuf sb).slots = []) then trapWord x (sbFault sb 0) x.g.live s
      else
        let s := s.release (partyCore x.party) .device
        let t : TierCmd :=
          { id := s.fresh, die := s.tierDie x.ctx page, asked := none, blk := b.uid, ctx := x.ctx, inward := inward, page := page, count := count, kind := bits w1 32 1 = 1
            sb := sb, compl := BitVec.ofNat 64 (nth 0 w 2), report := BitVec.ofNat 64 (nth 0 w 3), pos := 0, moved := 0
            skipped := 0, status := none }
        retire x x.g { s with tiers := s.tiers ++ [t], fresh := s.fresh + 1 }

/-- TIERIN (19 R429). -/
def execTierin (f : FmtV) (s : State) : Out := laneWord (.tierin f) (tierWord true f) s
/-- TIEROUT (19 R429). -/
def execTierout (f : FmtV) (s : State) : Out := laneWord (.tierout f) (tierWord false f) s

/-! ## Moving a page (05 R122, R123) -/

/-- A frame pool: where its header lies, and its four counts (05 R122). -/
structure Pool where
  pa : Nat
  cap : Nat
  count : Nat
  head : Nat
  tail : Nat
  deriving DecidableEq, Repr

/-- Reads a pool header, which lies in memory homed on the module (05 R122); any other place answers a violation. A poisoned header or
FRAME entry reads as the home's bytes and raises nothing (DESIGN CHOICE, log entry 83). -/
def State.poolAt (s : State) (die ctx : Nat) (va : DWord) : State × Option Pool :=
  if va.toNat % 64 != 0 then (s, none)
  else match s.translate (.die die) ctx va needRw with
  | (s, .error _) => (s, none)
  | (s, .ok t) => if !ownMemory t.pa then (s.violation die ctx (BitVec.ofNat 64 t.pa), none)
    else (s, some ⟨t.pa, s.homeRead t.pa 4, s.homeRead (t.pa + 4) 4, s.homeRead (t.pa + 8) 4, s.homeRead (t.pa + 12) 4⟩)

/-- The address of a pool entry. -/
def State.poolEntry (s : State) (die ctx : Nat) (va : DWord) (i : Nat) : State × Option Nat :=
  match s.translate (.die die) ctx (va + BitVec.ofNat 64 (0x40 + 8 * i)) needRw with
  | (s, .error _) => (s, none)
  | (s, .ok t) => if ownMemory t.pa then (s, some t.pa) else (s.violation die ctx (BitVec.ofNat 64 t.pa), none)

/-- Moves a 64 KiB frame's bytes, poison and fabric ownership to another frame. -/
def State.moveFrame (s : State) (a b : Nat) : State :=
  let s := s.cleanL2 a 65536
  let bytes := s.mem.filterMap (fun c => if a ≤ c.1 && c.1 < a + 65536 then some (b + (c.1 - a), c.2) else none)
  let pois := s.poison.filterMap (fun k => if a / 16 ≤ k && k < a / 16 + 4096 then some (b / 16 + (k - a / 16)) else none)
  let kept := s.poison.filter (fun k => !(b / 16 ≤ k && k < b / 16 + 4096))
  let move := fun (r : FabRun) => { r with owned := r.owned.map (fun o => if a ≤ o.pa && o.pa < a + 65536 then { o with pa := b + (o.pa - a) } else o) }
  let s := s.cleanL2 b 65536
  { s with
    mem := Sparse.setAll (Sparse.drop s.mem (fun k => b ≤ k && k < b + 65536)) bytes
    poison := pois.foldl insNat kept
    rdc := s.rdc.filter (fun e => !(b / 16 ≤ e.sector && e.sector < b / 16 + 4096))
    fabrics := s.fabrics.map (fun k => { k with runs := k.runs.map move }) }

/-- Writes back and drops a frame's lines in every L1 and RDC (step 5). -/
def State.recallFrame (s : State) (a : Nat) : State :=
  ((s.l1.filter (fun e => a / 16 ≤ e.sector && e.sector < a / 16 + 4096)).foldl (fun s e => s.l1Evict e.core e.sector) s).rdcDrop a 65536

/-- Steps 2 to 8 of R123 for a page at `fr` with its entries at `at_`: the state, and the status where it fails. An object that is bound by
a header in the page stays bound at the PA it had, as do the requests queued for it (DESIGN CHOICE, log entry 88). -/
def movePage (die : Nat) (t : TierCmd) (va : DWord) (fr at_ : Nat) (s : State) : State × Option Nat :=
  let c := s.ctxOf t.ctx
  let dstVa := if t.inward then c.hbmPool else c.ctPool
  let srcVa := if t.inward then c.ctPool else c.hbmPool
  match s.poolAt die t.ctx dstVa with
  | (s, none) => (s, some 3)
  | (s, some dp) => match s.poolAt die t.ctx srcVa with
    | (s, none) => (s, some 3)
    | (s, some sp) =>
      if dp.count = 0 || dp.cap = 0 then (s, some 1)
      else if sp.cap ≤ sp.count then (s, some 5)
      else match s.poolEntry die t.ctx dstVa dp.head with
      | (s, none) => (s, some 3)
      | (s, some de) => match s.poolEntry die t.ctx srcVa sp.tail with
        | (s, none) => (s, some 3)
        | (s, some se) =>
          let nf := s.homeRead de 8
          if nf % 65536 != 0 || !inTarget t.inward nf then (s, some 4)
          else
            let s := s.putHome (dp.pa + 4) 4 (dp.count - 1)
            let s := s.putHome (dp.pa + 8) 4 ((dp.head + 1) % dp.cap)
            let s := (s.invalidate (some t.ctx) va.toNat 65536 true false).recallFrame fr
            let s := s.moveFrame fr nf
            let s := (List.range 16).foldl (fun s i =>
              let e := BitVec.ofNat 64 (s.homeRead (at_ + 8 * i) 8)
              s.putHome (at_ + 8 * i) 8 ((e &&& ~~~(0x000FFFFFFFFFF000#64)) ||| BitVec.ofNat 64 (nf + 4096 * i)).toNat) s
            let s := s.putHome se 8 fr
            let s := s.putHome (sp.pa + 12) 4 ((sp.tail + 1) % sp.cap)
            (s.putHome (sp.pa + 4) 4 (sp.count + 1), none)

/-- Changes a tier command. -/
def State.setTier (s : State) (t : TierCmd) : State := { s with tiers := updFirst (fun y => y.id = t.id) (fun _ => t) s.tiers }

/-- Whether accesses that an engine or a batch has under way use a frame (step 4 waits for them). -/
def State.frameBusy (s : State) (a : Nat) : Bool :=
  s.copies.any (fun c => c.owned.any (fun k => k.1 = 0 && a ≤ 64 * k.2 && 64 * k.2 < a + 65536))
    || s.potluck.waves.any (fun w => w.lines.any (fun k => a ≤ 64 * k && 64 * k < a + 65536))

/-- TIER_PAGE_MOVE (05 R123): the next page of a command. -/
def execTierPageMove (id : Nat) (s : State) : Out :=
  match s.tiers.find? (fun t => t.id = id) with
  | none => .next s
  | some t =>
    if t.status.isSome || (t.kind && s.blockSaved t.blk) then .next s
    else if t.count ≤ t.pos then .next (s.setTier { t with status := some 0 })
    else
      let va := t.page + BitVec.ofNat 64 (65536 * t.pos)
      let s := s.lookTables t.die t.ctx va.toNat
      match s.pageAt t.ctx t.inward va.toNat with
      | .bad st => .next (s.setTier { t with status := some st })
      | .moved _ => .next (s.setTier { t with pos := t.pos + 1, skipped := t.skipped + 1 })
      | .frame pa at_ =>
        if s.frameBusy pa then .next s
        else match movePage t.die t va pa at_ s with
          | (s, some st) => .next (s.setTier { t with status := some st })
          | (s, none) => .next (s.setTier { t with pos := t.pos + 1, moved := t.moved + 1 })

/-- The report word (05 R124). -/
def TierCmd.report64 (t : TierCmd) : Nat := t.moved + t.skipped * 2 ^ 24 + (t.status.getD 0) * 2 ^ 48

/-- TIER_COMMAND_COMPLETE (05 R124): the report, then the completion. With KIND 1 the engine reserves a slot in its place in the ring
(R116); where the block has ended before, of which the spec does not speak, the command ends without a report (DESIGN CHOICE, log
entry 79). -/
def execTierCommandComplete (id : Nat) (s : State) : Out :=
  match s.tiers.find? (fun t => t.id = id) with
  | none => .next s
  | some t =>
    if t.status.isNone && t.pos < t.count then .next s
    else
      let done := { s with tiers := s.tiers.filter (fun y => y.id != id) }
      if t.kind then
        if s.blockSaved t.blk then .next s
        else match s.blockUid t.blk with
        | none => .next done
        | some b => match (if s.resFirst b t.sb (t.asked.getD s.fresh) then (b.sbuf t.sb).reserve .engine else none) with
          | none => .next (if t.asked.isSome then s else (s.setTier { t with asked := some s.fresh }).next)
          | some r =>
            let k := (b.sbuf t.sb).pix
            .next (done.updBlock b.uid (fun b => ((b.setSbuf t.sb r.2).scWrite
              (sbBase (b.sbuf t.sb).cfg + k * sbSize (b.sbuf t.sb).cfg) 8 t.report64).engineFill t.sb k))
      else
        let s := done.engineReport t.die t.ctx t.report 8 t.report64
        .next (if t.compl = 0 then s else s.engineArrive t.die t.ctx t.compl)

end Sys2Proof.Machine
end

