-- ==== Sys2Proof/Machine/SaveArea.lean ====
section
/-! DEFINITION. The words of a group as the register window and the save image hold them, and the images that the Rucksack
writes to the save area (spec 12 R268, R272, R280; 09 R201; 13 R293). -/

namespace Sys2Proof.Machine

/-! ## Window items (12 R272) -/

/-- Word i of a trap record (12 R268). -/
def TrapRec.item (t : TrapRec) (i : Nat) : Word :=
  match i with
  | 0 => BitVec.ofNat 32 (t.cause.toNat + 256 * t.level.toNat + (if t.fatal then 65536 else 0) + 2 ^ 24 * t.ctx.toNat)
  | 1 => t.lanes
  | 2 => t.pc.setWidth 32
  | 3 => t.pc.extractLsb' 32 32
  | 4 => t.addr.setWidth 32
  | 5 => t.addr.extractLsb' 32 32
  | 6 => t.aux.setWidth 32
  | 7 => t.aux.extractLsb' 32 32
  | 8 => t.word.setWidth 32
  | 9 => t.word.extractLsb' 32 32
  | 10 => t.handle.setWidth 32
  | 11 => t.seq
  | 12 => t.wid.setWidth 32
  | 13 => t.wid.extractLsb' 32 32
  | _ => 0

/-- State of a PC-table entry by its code (03 R46). -/
def entryStOf (n : Nat) : EntrySt :=
  match n % 4 with
  | 0 => .ready
  | 1 => .join
  | 2 => .waitm
  | _ => .uwait

/-- Code of an entry's state. -/
def EntrySt.code (e : EntrySt) : Nat :=
  match e with
  | .ready => 0
  | .join => 1
  | .waitm => 2
  | .uwait => 3

/-- An entry that is not valid. -/
def Entry.none_ : Entry := ⟨0, 0, .ready, 0, false, false⟩

/-- CTL of an entry (12 R272). -/
def Entry.ctl (e : Entry) : Word :=
  if e.valid then BitVec.ofNat 32 (e.st.code + 4 * e.pm.toNat + (if e.df then 64 else 0) + 128)
  else BitVec.ofNat 32 (e.st.code + 4 * e.pm.toNat + (if e.df then 64 else 0))

/-- Word f of an entry. -/
def Entry.item (e : Entry) (f : Nat) : Word :=
  match f with
  | 0 => e.pc.setWidth 32
  | 1 => e.pc.extractLsb' 32 32
  | 2 => e.mask
  | _ => e.ctl

/-- Full bits of 32 registers from a base: 1 where the register is not listed as empty. -/
def fullWord (empty : List Nat) (base : Nat) : Word :=
  maskOf ((List.range 32).filter (fun i => !empty.contains (base + i)))

/-- A window item of a stopped group; none for an unmapped one (12 R272). -/
def Group.item (g : Group) (a : Nat) : Option Word :=
  if a < 0x4000 then (if a / 32 < g.alloc then some (g.vget (a / 32) (a % 32)) else none)
  else if a < 0x4040 then some (g.sget (a - 0x4000))
  else if 0x4100 ≤ a && a < 0x4110 then
    let k := a - 0x4100
    if 32 * k < g.alloc then
      let w := if g.alloc < 32 * k + 32 then BitVec.ofNat 32 (2 ^ (g.alloc - 32 * k) - 1) else 0xFFFFFFFF#32
      some (fullWord g.vEmpty (32 * k) &&& w)
    else none
  else if 0x4110 ≤ a && a < 0x4112 then some (fullWord g.sEmpty (32 * (a - 0x4110)))
  else if 0x4120 ≤ a && a < 0x4128 then
    some (maskOf ((List.range 32).filter (fun p => g.marks.any (fun m => m.pair = 32 * (a - 0x4120) + p))))
  else if 0x4200 ≤ a && a < 0x4208 then some (g.pget (a - 0x4200))
  else if 0x4210 ≤ a && a < 0x421C then some (g.mget (a - 0x4210))
  else if 0x4300 ≤ a && a < 0x4340 then some ((nth 0 g.gens ((a - 0x4300) / 8)).extractLsb' (32 * (a % 8)) 32)
  else if 0x4400 ≤ a && a < 0x4480 then some ((nth Entry.none_ g.tab ((a - 0x4400) / 4)).item (a % 4))
  else if 0x4500 ≤ a && a < 0x4510 then some ((g.trap.map (fun t => t.item (a - 0x4500))).getD 0)
  else if a = 0x4600 then some (BitVec.ofNat 32 g.alloc)
  else if a = 0x4601 then some g.phwm
  else if a = 0x4602 then some (g.fpflags.setWidth 32)
  else if a = 0x4603 then some (g.mxflags.setWidth 32)
  else if a = 0x4604 then some g.live
  else if 0x4700 ≤ a && a < 0x4740 then
    some ((nth 0 g.wids ((a - 0x4700) / 2)).extractLsb' (32 * (a % 2)) 32)
  else none

/-! ## The save image (12 R280) -/

/-- Whether a role holds accumulator tiles (02 R27). -/
def Role.tiled (r : Role) : Bool := r = .any || r = .matrix
/-- Bytes of a group's image: 5,760 and 128 for each register (12 R280). -/
def Group.imageBytes (g : Group) : Nat := 5760 + 128 * g.alloc

/-- Bytes of a group's accumulator tiles in a block image (12 R280). -/
def Group.tileBytes (h : Header) (g : Group) : Nat := if g.role.tiled then h.acct * 16384 else 0

/-- Bytes of a block image ahead of its group images (12 R280). -/
def Block.imageHead (h : Header) (b : Block) : Nat :=
  64 + 512 + 256 + 256 * 80 + 256 + sum (b.groups.map (fun g => g.tileBytes h)) + h.scratch

/-- Bytes of a block image (12 R280). -/
def imageBytes (h : Header) (b : Block) : Nat := b.imageHead h + sum (b.groups.map Group.imageBytes)

/-- Words of an image whose encoding the spec does not state. -/
def openWords (n : Nat) : List (Option Word) := List.replicate n none

/-- Window items of a group as words of its image; zero where the window has no item. -/
def Group.words (g : Group) (base n : Nat) : List (Option Word) :=
  (List.range n).map (fun i => some ((g.item (base + i)).getD 0))

/-- A group's image (12 R280). The parts whose layout the spec gives follow the window's items; the others are open. -/
def Group.image (g : Group) : List (Option Word) :=
  openWords 16 ++ g.words 0x4700 64 ++ g.words 0x4400 128 ++ g.words 0x4100 16 ++ g.words 0x4110 2 ++ g.words 0x4120 8
    ++ List.replicate 6 (some 0) ++ g.words 0x4200 7 ++ g.words 0x4210 12 ++ List.replicate 13 (some 0) ++ g.words 0x4000 64
    ++ g.words 0x4300 64 ++ g.words 0x4500 16 ++ openWords 1024 ++ g.words 0 (32 * g.alloc)

/-- A block's image ahead of its group images; the scratchpad alone has a layout that the spec gives (12 R280). -/
def Block.headImage (h : Header) (b : Block) : List (Option Word) :=
  openWords ((b.imageHead h - h.scratch) / 4) ++
    (List.range (h.scratch / 4)).map (fun i => some (BitVec.ofNat 32 (b.scRead (4 * i) 4)))

/-- A block's image, word by word. -/
def Block.image (h : Header) (b : Block) : List (Option Word) := b.headImage h ++ (b.groups.map Group.image).flatten

/-- Fills the open words of an image with free values. -/
def closeWords (n : Nat) (l : List (Option Word)) : List Word :=
  (l.zip (List.range l.length)).map (fun w => w.1.getD (Config.imageWord (n + w.2)))

/-- One 16-byte sector that the Rucksack of a die writes to a save area; where its page does not translate, nothing is
written. `none` writes it poisoned (05 R460). -/
def State.saveSector (s : State) (die ctx : Nat) (va : DWord) (x : Option Nat) : State :=
  match s.translate (.die die) ctx va needWr with
  | (s, .error _) => s
  | (s, .ok t) => s.engineWrite die ctx t 16 x

/-- Writes an image at a VA, sector by sector: free values where its words are open, poison where a sector is bad (05 R460). -/
def State.writeWords (s : State) (die ctx : Nat) (va : DWord) (l : List (Option Word)) (bad : Nat → Bool) : State :=
  let ws := closeWords s.fresh l
  let s := { s with fresh := s.fresh + ws.length }
  (List.range (ws.length / 4)).foldl (fun s i =>
    s.saveSector die ctx (va + BitVec.ofNat 64 (16 * i))
      (if bad i then none else some (sum ((List.range 4).map (fun j => (nth 0 ws (4 * i + j)).toNat * 2 ^ (32 * j)))))) s

/-- Writes a block's image at a VA (12 R280); a poisoned scratchpad sector is written poisoned. -/
def State.writeImage (s : State) (ctx : Nat) (h : Header) (b : Block) (va : DWord) : State :=
  let sc := b.imageHead h - h.scratch
  s.writeWords (coreDie b.core) ctx va (b.image h) (fun i => sc ≤ 16 * i && b.scPoison.contains ((16 * i - sc) / 16))

/-! ## The context's save pool -/

/-- Areas of a context's save pool in use, offset and bytes: those of saved sets (12 R280) and of drained runs until they are loaded
again or killed (11 R259, R260). -/
def State.savedAreas (s : State) (ctx : Nat) : List (Nat × Nat) :=
  s.sched.saved.filterMap (fun v => if ((s.launchOf v.launch).map (fun l => l.hdr.ctx)) = some ctx then some (v.area, v.bytes) else none)
    ++ (s.fabrics.map (fun (k : Stack) => k.runs.filterMap (fun r =>
      if r.ctx = ctx && r.image != [] && r.bytes != 0 then some (r.area, r.bytes) else none))).flatten

/-- A free range of a context's save pool, which the system Ranger allocates (12 R280): the lowest (DESIGN CHOICE, log entry
80). -/
def State.saveRoom (s : State) (ctx n : Nat) : Option Nat :=
  let used := s.savedAreas ctx
  (sortBy (fun a b => a ≤ b) (0 :: used.map (fun u => u.1 + u.2))).find? (fun a =>
    a + n ≤ (s.ctxOf ctx).savePoolBytes && used.all (fun u => a + n ≤ u.1 || u.1 + u.2 ≤ a))

/-- Offset of a group's image in its block's image. -/
def Block.groupAt (h : Header) (b : Block) (gix : Nat) : Nat :=
  b.imageHead h + sum ((b.groups.takeWhile (fun g => g.index != gix)).map Group.imageBytes)

/-- Writes bytes of one sector of a save area. -/
def State.savePart (s : State) (die ctx : Nat) (va : DWord) (n x : Nat) : State :=
  match s.translate (.die die) ctx va needWr with
  | (s, .error _) => s
  | (s, .ok t) => s.engineWrite die ctx t n (some x)

/-- A reply to a lane of a saved block lands in the image too: `vD:vD+1` of the lane, and the full bits of the pair (09 R201). -/
def State.imageReply (s : State) (ctx : Nat) (h : Header) (b : Block) (area : DWord) (g : Group) (lane vd : Nat) : State :=
  let at_ := fun (o : Nat) => area + BitVec.ofNat 64 (b.groupAt h g.index + o)
  let die := coreDie b.core
  let s := s.savePart die ctx (at_ (5760 + 128 * vd + 4 * lane)) 4 (g.vget vd lane).toNat
  let s := s.savePart die ctx (at_ (5760 + 128 * (vd + 1) + 4 * lane)) 4 (g.vget (vd + 1) lane).toNat
  let full := fun (k : Nat) (s : State) => s.savePart die ctx (at_ (832 + 4 * k)) 4 ((g.item (0x4100 + k)).getD 0).toNat
  full ((vd + 1) / 32) (full (vd / 32) s)

end Sys2Proof.Machine
end

