-- ==== Sys2Proof/Machine/Sched.lean ====
section
/-! DEFINITION. Launch headers, the dispatcher, placement, LAUNCH, mailbox consumption, completion, and the Rucksack's saves
and restores (spec 02 R20 to R25, R28 to R44; 12 R278 to R282; 13 R292; 18 R394; 09 R208 for the folds). -/

namespace Sys2Proof.Machine

/-! ## The header (02 R24) -/

/-- A header from its 1,024 bits. -/
def headerOf (w : Nat) : Header :=
  let q := fun (off n : Nat) => bits w (8 * off) n
  { entry := BitVec.ofNat 64 (q 0x00 64), param := BitVec.ofNat 64 (q 0x08 64), done := BitVec.ofNat 64 (q 0x10 64)
    dseq := BitVec.ofNat 64 (q 0x18 64), widths := [q 0x20 3, q 0x21 8, q 0x22 8, q 0x23 8, q 0x24 8]
    c := q 0x25 3, k := bits w (8 * 0x25 + 4) 3, prio := q 0x26 6, queue := q 0x27 8
    ext := [q 0x28 5 + 1, q 0x29 7 + 1, q 0x2C 32 + 1, q 0x30 32 + 1, q 0x34 32 + 1, q 0x38 32 + 1]
    ctx := q 0x2A 8, det := q 0x2B 1 = 1, regq := [q 0x3C 8, q 0x3D 8, q 0x3E 8, q 0x3F 8], rmaxq := q 0x40 8
    acct := q 0x41 5, sbufs := q 0x42 5, split := q 0x43 4, scratch := q 0x44 32, privInit := q 0x48 32, privMax := q 0x4C 32
    roles := BitVec.ofNat 256 (q 0x50 256) }

/-- Initial allocation of group index i (02 R28). -/
def Header.alloc (h : Header) (i : Nat) : Nat := 8 * nth 0 h.regq (h.role i).code
/-- A block's register budget (02 R28). -/
def Header.budget (h : Header) : Nat := sum ((List.range h.groups).map h.alloc)
/-- Group indices on a partition. -/
def Header.onPart (h : Header) (p : Nat) : List Nat := (List.range h.groups).filter (fun i => i % 4 = p)
/-- Registers per lane reserved on a partition (02 R30). -/
def Header.reserve (h : Header) (p : Nat) : Nat :=
  let n := (h.onPart p).length * h.rmaxq * 8
  if h.budget ≤ n then h.budget else n
/-- Tiles a block takes on a partition. -/
def Header.tiles (h : Header) (p : Nat) : Nat := h.acct * ((h.onPart p).filter (fun i => (h.role i).tiled)).length

/-- Nonzero reserved fields of a header's bits (check 0x09). -/
def headerRsv (w : Nat) (h : Header) : Bool :=
  bits w (8 * 0x20 + 3) 5 != 0 || bits w (8 * 0x25 + 7) 1 != 0 || bits w (8 * 0x25 + 3) 1 != 0 || bits w (8 * 0x26 + 6) 2 != 0
    || bits w (8 * 0x28 + 5) 3 != 0 || bits w (8 * 0x29 + 7) 1 != 0 || bits w (8 * 0x2B + 1) 7 != 0
    || bits w (8 * 0x41 + 5) 3 != 0 || bits w (8 * 0x42 + 5) 3 != 0 || bits w (8 * 0x43 + 4) 4 != 0
    || h.roles.toNat >>> (2 * h.groups) != 0 || bits w (8 * 0x70) 128 != 0

/-- Check 0x02 (02 R20). -/
def Header.fieldsOk (h : Header) : Bool :=
  (h.widths.drop 1).all (fun x => x ≤ 32) && sum h.widths + 5 ≤ 64 && (h.ext.zip (5 :: h.widths)).all (fun e => e.1 ≤ 2 ^ e.2)
/-- Check 0x03 (02 R21). -/
def Header.levelsOk (h : Header) : Bool := 1 ≤ h.c && h.c ≤ h.k && h.k ≤ 5 && h.groups ≤ 128 && h.nblocks ≤ 4
/-- Check 0x06. -/
def Header.regsOk (h : Header) : Bool :=
  1 ≤ h.rmaxq && h.rmaxq ≤ 64 && h.regq.all (fun r => r ≤ 64 && r ≤ h.rmaxq) &&
    (List.range h.groups).all (fun i => h.alloc i != 0)
/-- Check 0x07 (02 R30, R33, 05 R106): registers, tiles, slot buffers, scratchpad and private slots on an empty cluster. -/
def Header.fitsEmpty (h : Header) (c : Ctx) : Bool :=
  (List.range 4).all (fun p => h.reserve p ≤ 2048 && h.tiles p ≤ 16) && h.sbufs ≤ 16 && h.scratch ≤ 65536 * h.split && h.scratch ≤ 524288 &&
    (h.privMax = 0 || h.lanes * h.groups ≤ c.privSlots.toNat % 2 ^ 20)
/-- Check 0x08. -/
def Header.rangesOk (h : Header) (c : Ctx) : Bool :=
  h.acct ≤ 16 && h.sbufs ≤ 16 && h.split ≤ 8 && h.scratch % 256 = 0 && h.scratch ≤ 65536 * h.split && h.privInit % 16 = 0 &&
    h.privMax % 16 = 0 && h.privInit ≤ h.privMax && h.privMax ≤ c.privStride.toNat

/-- The first check of R25 that a header fails; 0 for none. `caller` is the context a launch must name, if any. -/
def State.checkHeader (s : State) (w : Nat) (h : Header) (caller : Option Nat) : Nat :=
  let c := s.ctxOf h.ctx
  if h.entry.extractLsb' 0 3 != 0 || h.entry.extractLsb' 57 7 != 0 || h.param.toNat % 64 != 0 || h.done.toNat % 16 != 0 then 0x01
  else if !h.fieldsOk then 0x02
  else if !h.levelsOk then 0x03
  else if c.valid && c.ceiling < h.prio then 0x04
  else if !c.valid || look? s.sched.queueOwner h.queue != some h.ctx || (caller.isSome && caller != some h.ctx) then 0x05
  else if !h.regsOk then 0x06
  else if !h.fitsEmpty c then 0x07
  else if !h.rangesOk c then 0x08
  else if headerRsv w h then 0x09
  else 0

/-- Queues an accepted launch (02 R32). -/
def State.accept (s : State) (h : Header) (o : Origin) : State :=
  let l : Launch := { id := s.fresh, hdr := h, origin := o, next := 0, age := 0, reserved := none, stage := .running
                      staged := [], spilled := 0 }
  let q := lookD [] s.sched.queues h.queue
  { s with
    launches := s.launches ++ [l], fresh := s.fresh + 1
    sched.queues := put s.sched.queues h.queue (q ++ [l.id])
    sched.pool := (match o with
      | .pool => s.sched.pool ++ [l.id]
      | .mailbox _ => s.sched.pool
      | .ranger => s.sched.pool) }

/-- The system Ranger injects a launch of its own (01 R15, 02 R32): its header passes the checks of R25 as a mailbox's does, and a
rejected one starts nothing. -/
def State.injectLaunch (s : State) (w : Nat) : State :=
  if s.checkHeader w (headerOf w) none = 0 then s.accept (headerOf w) .ranger else s

/-! ## LAUNCH (02 R39, 18 R394) -/

/-- What reading the header of LAUNCH comes to. -/
inductive HeaderRead where
  /-- It waits: an engine owns a line of the header (07 R156). -/
  | wait
  | bad (code : Nat)
  | bits (w : Nat)
  deriving DecidableEq, Repr

/-- Reads the header of LAUNCH: a fault code, or its bits. Status 0x03 of R39 speaks of translation and permission; a poisoned
header, which it does not name, answers it with the code of POISON (DESIGN CHOICE, log entry 79). -/
def readHeader (p : Party) (va : DWord) (s : State) : State × HeaderRead :=
  match s.resolve p va needRd with
  | (s, .error f) => (s, .bad f.cause)
  | (s, .ok t0) => match s.resolve p (va + 64) needRd with
    | (s, .error f) => (s, .bad f.cause)
    | (s, .ok t1) =>
      if s.mustWait p t0 64 true || s.mustWait p t1 64 true then (s, .wait)
      else
      let r := (List.range 16).foldl (fun (a : State × Option (List Nat)) i =>
        let t : Trans := if i < 8 then { t0 with pa := t0.pa + 8 * i } else { t1 with pa := t1.pa + 8 * (i - 8) }
        match a.2, a.1.loadBytes p t 8 with
        | some l, (s, some v) => (s, some (l ++ [v]))
        | _, (s, _) => (s, none)) (s, some [])
      match r.2 with
      | some l => (r.1, .bits ((l.zip (List.range 16)).foldl (fun a v => a + v.1 * 2 ^ (64 * v.2)) 0))
      | none => (r.1, .bad 0x1B)

/-- What a LAUNCH from a VA comes to (02 R39): its status, and the launch queued with 0x00; none while an engine owns a line of the
header. -/
def State.launchStatus (s : State) (p : Party) (ctx : Nat) (va : DWord) : State × Option Nat :=
  if va.toNat % 64 != 0 then (s, some (0x03 + 0x05 * 256))
  else match readHeader p va s with
  | (s, .wait) => (s, none)
  | (s, .bad c) => (s, some (0x03 + c * 256))
  | (s, .bits w) =>
    let h := headerOf w
    let code := s.checkHeader w h (some ctx)
    if code != 0 then (s, some (0x02 + 256 * code))
    else if 8192 ≤ s.sched.pool.length then (s, some 0x01)
    else ((s.release (partyCore p) .device).accept h .pool, some 0x00)

/-- LAUNCH (18 R394). It never blocks (02 R39): where an engine owns a line of its header, it issues, and its status stays pending until
the header has been read. -/
def execLaunch (f : FmtV) (s : State) : Out :=
  laneWord (.launch f) (fun x s =>
    let va := x.g.spair f.sa.toNat
    let out := fun (s : State) (st : Nat) (h : Option DWord) =>
      retire x (x.g.issue { scaProducer s.fresh .launchStatus f.dst.toNat (BitVec.ofNat 32 st) with
        header := h, site := h.map (fun va => ⟨x.pc, x.word, x.g.live, [va, va + 64]⟩) }) s.next
    match s.launchStatus x.party x.ctx va with
    | (s, some st) => out s st none
    | (s, none) => out s 0 (some va)) s

/-! ## Placement (02 R33 to R37) -/

/-- Blocks resident on a core. -/
def State.onCore (s : State) (core : Nat) : List Block := s.blocks.filter (fun b => b.core = core)

/-- Groups of a core on a partition. -/
def State.coreGroups (s : State) (core part : Nat) : List Group :=
  ((s.onCore core).map (fun b => b.groups.filter (fun g => g.part = part))).flatten

/-- The lowest free 4 KiB-aligned base for a block's scratchpad on a core (02 R33, 05 R105). -/
def State.scratchBaseFor (s : State) (core : Nat) (h : Header) : Option Nat :=
  let used := (s.onCore core).map (fun b => (b.base, (s.hdrOfBlock b).scratch))
  let cands := 0 :: used.map (fun u => (u.1 + u.2 + 4095) / 4096 * 4096)
  (sortBy (fun a b => a ≤ b) cands).find? (fun a => a + h.scratch ≤ 65536 * h.split &&
    used.all (fun u => u.2 = 0 || a + h.scratch ≤ u.1 || u.1 + u.2 ≤ a))

/-- Whether a block of a launch fits a core, apart from private slots (02 R33). -/
def State.fitsCore (s : State) (core : Nat) (h : Header) : Bool :=
  let bs := s.onCore core
  (bs = [] || lookD 0 s.sched.splits core = h.split) &&
  (List.range 4).all (fun p =>
    (s.coreGroups core p).length + (h.onPart p).length ≤ 32 &&
    sum (bs.map (fun b => nth 0 b.regRes p)) + h.reserve p ≤ 2048 &&
    sum ((s.coreGroups core p).map (fun g => g.acct)) + h.tiles p ≤ 16) &&
  sum (bs.map (fun b => b.sbufs.length)) + h.sbufs ≤ 16 && (s.scratchBaseFor core h).isSome

/-- The cores of a cluster that `n` blocks of a launch take, if they fit (02 R33). -/
def State.fitsCluster (s : State) (cl : Nat) (h : Header) (n : Nat) : Option (List Nat) :=
  let l := (List.range 4).filterMap (fun i => if s.fitsCore (4 * cl + i) h then some (4 * cl + i) else none)
  if n ≤ l.length then some (l.take n) else none

/-- Free private slots of a context, lowest first (05 R106). -/
def freeSlots (c : Ctx) (n : Nat) : List Nat :=
  ((List.range (n + c.slotsTaken.length)).filter (fun k => !c.slotsTaken.contains k)).filter (fun k => k < c.privSlots.toNat % 2 ^ 20)

/-- Clusters reserved: cluster, holder and its priority (02 R34, R35). -/
def State.reservations (s : State) : List (Nat × Nat × Nat) :=
  s.launches.filterMap (fun l => l.reserved.map (fun c => (c, l.id, l.hdr.prio)))

/-- The cores in die d that a cluster set takes: its own reserved cluster first, then the lowest that no reservation
closes to it (02 R34, R35). `id` is the launch whose head it is; a saved set, which is no head, has no cluster of its own. -/
def State.findCluster (s : State) (d : Nat) (id : Option Nat) (h : Header) (n : Nat) : Option (List Nat) :=
  let res := s.reservations
  let mine := (res.filter (fun r => some r.2.1 = id && r.1 / 24 = d)).map (fun r => r.1)
  let open_ := fun (cl : Nat) => !res.any (fun r => r.1 = cl && some r.2.1 != id && h.prio ≤ r.2.2)
  (mine ++ (List.range 24).map (fun i => 24 * d + i)).findSome? (fun cl => if open_ cl then s.fitsCluster cl h n else none)

/-- Digits of a number over extents, first digit fastest (02 R22). -/
def digits : Nat → List Nat → List Nat
  | _, [] => []
  | n, e :: t => n % e :: digits (n / e) t

/-- Work identifier of a lane from its field values (02 R20). -/
def widOf (h : Header) (fs : List Nat) : DWord :=
  BitVec.ofNat 64 (sum ((fs.zip (List.range 6)).map (fun f => f.1 <<< sum ((5 :: h.widths).take f.2))))

/-- A placed group (02 R36). -/
def newGroup (h : Header) (i slot j cset : Nat) : Group :=
  let n := h.lanes
  let wid := fun l => widOf h (l :: (digits i h.extB ++ digits j h.extK ++ digits cset h.extS))
  let present := BitVec.ofNat 32 (2 ^ n - 1)
  let v := Sparse.setAll [] (((List.range n).map (fun l => [(l, (wid l).setWidth 32), (32 + l, (wid l).extractLsb' 32 32)])).flatten)
  { Group.blank with
    index := i, part := i % 4, slot := slot, role := h.role i, alloc := h.alloc i
    acct := if (h.role i).tiled then h.acct else 0
    present := present, live := present, tab := [⟨h.entry, present, .ready, 0, false, true⟩], v := v
    wids := (List.range 32).map (fun l => if l < n then wid l else 0), phwm := BitVec.ofNat 32 h.privInit }

/-- Slots taken on a partition of a core. -/
def State.slotFree (s : State) (core part : Nat) (extra : List (Nat × Nat)) : Nat :=
  let used := (s.coreGroups core part).map (fun g => g.slot) ++ (extra.filter (fun e => e.1 = part)).map (fun e => e.2)
  ((List.range 32).find? (fun k => !used.contains k)).getD 0

/-- Slots for group indices of a new block, in order: (part, slot). -/
def State.giveSlots (s : State) (core : Nat) (parts : List Nat) : List (Nat × Nat) :=
  parts.foldl (fun acc p => acc ++ [(p, s.slotFree core p acc)]) []

/-- A core takes a block: an acquire at device scope (02 R37, 07 R165); where the core's split changes, its L1 takes its new share
of the local memory and starts empty (05 R108). -/
def State.seat (s : State) (core : Nat) (h : Header) : State :=
  if lookD 0 s.sched.splits core = h.split then s.invalCore core else s.l1Empty core

/-- Places one block of a launch on a core (02 R33, R36, R37). -/
def State.placeBlock (s : State) (l : Launch) (cset j core : Nat) : State :=
  let h := l.hdr
  let slots := s.giveSlots core ((List.range h.groups).map (fun i => i % 4))
  let groups := (List.range h.groups).map (fun i => newGroup h i (nth (0, 0) slots i).2 j cset)
  let lanes := ((List.range h.groups).map (fun i => (List.range h.lanes).map (fun k => 32 * i + k))).flatten
  let priv := if h.privMax = 0 then [] else lanes.zip (freeSlots (s.ctxOf h.ctx) lanes.length)
  let b : Block :=
    { uid := s.fresh, launch := l.id, cset := cset, j := j, core := core, base := (s.scratchBaseFor core h).getD 0
      scratch := [], scPoison := [], privSlots := priv, free := 0, claims := []
      sbufs := List.replicate h.sbufs SlotBuf.blank, groups := groups, bkpts := s.loadBkpts h.ctx, bkReload := false
      regRes := (List.range 4).map h.reserve }
  let s := s.updCtx h.ctx (fun c => { c with slotsTaken := (priv.map (fun p => p.2)).foldl insNat c.slotsTaken })
  let s := s.seat core h
  { s with
    blocks := s.blocks ++ [b], fresh := s.fresh + 1
    sched.splits := put s.sched.splits core h.split }

/-- Places the next cluster set of a launch; after the last the launch leaves its queue and the pool (02 R34, R40). R35 ends the
reservation when the set is placed in the reserved cluster; a set placed in another cluster ends it too (DESIGN CHOICE, log entry
79). -/
def State.placeSet (s : State) (l : Launch) (cores : List Nat) : State :=
  let s := (cores.zip (List.range cores.length)).foldl (fun s cj => s.placeBlock l l.next cj.2 cj.1) s
  let s := s.updLaunch l.id (fun l => { l with next := l.next + 1, age := 0, reserved := none })
  if l.next + 1 < l.hdr.sets then s
  else
    let q := lookD [] s.sched.queues l.hdr.queue
    { s with
      sched.queues := put s.sched.queues l.hdr.queue (q.filter (fun i => i != l.id))
      sched.pool := s.sched.pool.filter (fun i => i != l.id) }

/-! ## Saving (12 R278 to R280) -/

/-- Blocks of a cluster set that are resident. -/
def State.setBlocks (s : State) (launch cset : Nat) : List Block := s.blocks.filter (fun b => b.launch = launch && b.cset = cset)

/-- Producers that a save completes first (12 R279). -/
def settleGroup (g : Group) : Group :=
  let g := (g.pend.filter (fun p => p.kind != .ocall)).foldl (fun g p => g.complete p) g
  g.gmmas.foldl (fun g m => { g with tiles := setTile g.tiles m.tile m.value, mxflags := g.mxflags ||| m.mx }) { g with gmmas := [] }

/-- Barriers that a block's WAITB groups wait on. -/
def waitBarriers (b : Block) : List (DWord × Word) :=
  (b.groups.map (fun g => g.waits.filterMap (fun w => match w.kind with
    | .waitb va ph _ _ => some (va, ph)
    | _ => none))).flatten

/-- Whether a cluster set may be saved now: every group stands at a run boundary and no status is outstanding that only an
event can bring. -/
def canSave (bs : List Block) : Bool :=
  bs.all (fun b => b.groups.all (fun g => g.run.isNone && !g.pend.any (fun p => p.kind = .drain || p.kind = .icinv)))

/-- A save ticket not in use. -/
def Sched.ticket (c : Sched) : BitVec 16 :=
  ((List.range (c.saved.length + 1)).map (fun i => c.nextTicket + BitVec.ofNat 16 i)).find? (fun t =>
    !c.saved.any (fun v => v.ticket = t)) |>.getD c.nextTicket

/-- Writes a Ranger's SYS.WSTAT. -/
def State.setWstat (s : State) (r : Nat) (v : Word) : State :=
  { s with rangers := setNth s.rangers r { nth Ranger.blank s.rangers r with wstat := v } }

/-- Writes the SYS.WSTAT of several Rangers. -/
def State.setWstats (s : State) (rs : List Nat) (v : Word) : State := rs.foldl (fun s r => s.setWstat r v) s

/-- Marks or clears the save of a cluster set's groups. -/
def State.markSaving (s : State) (launch cset : Nat) (on : Bool) : State :=
  { s with blocks := s.blocks.map (fun b => if b.launch = launch && b.cset = cset then
      { b with groups := b.groups.map (fun g => { g with saving := on }) } else b) }

/-- Begins a save (12 R278). -/
def State.beginSave (s : State) (launch cset : Nat) (by_ : List Nat) (hold : Bool) : State :=
  let s := s.markSaving launch cset true
  { s with sched.saveOps := s.sched.saveOps ++ [⟨launch, cset, by_, hold⟩] }

/-- Handles of a block's groups. -/
def Block.handles (b : Block) : List Handle := b.groups.map (fun g => ⟨b.core, g.part, g.slot⟩)

/-- Removes handles from the trap queues. -/
def State.withdraw (s : State) (hs : List Handle) : State :=
  { s with plat.trapq := s.plat.trapq.map (fun q => q.filter (fun h => !hs.contains h)) }

/-- The VA of the image of block number i of a set whose area begins at an offset of a context's save pool. -/
def saveVa (c : Ctx) (hd : Header) (bs : List Block) (area i : Nat) : DWord :=
  c.savePool + BitVec.ofNat 64 (area + sum ((bs.take i).map (imageBytes hd)))

/-- Takes a cluster set's blocks off their cores into a saved set, and writes their images at an offset of the save pool (12 R278 to
R280, 07 R165). -/
def State.saveSet (s : State) (op : SaveOp) (area : Nat) : State :=
  let bs := s.setBlocks op.launch op.cset
  let hd := ((s.launchOf op.launch).map (fun l => l.hdr)).getD default
  let cores := bs.map (fun b => b.core)
  let s := cores.foldl (fun s k => s.flushCore k) s
  let image := fun (b : Block) => { b with groups := b.groups.map (fun g => { (settleGroup g).dropWaits with saving := true }) }
  let t := s.sched.ticket
  let uids := bs.map (fun b => b.uid)
  let v : SavedSet :=
    { launch := op.launch, cset := op.cset, ticket := t, hold := op.hold, resumable := op.by_ != [] && !op.hold
      barriers := (bs.map waitBarriers).flatten, area := area, bytes := sum (bs.map (imageBytes hd)), blocks := bs.map image, stamp := s.fresh
      restoring := false
      records := (s.sched.records.filter (fun r => uids.contains r.2.blk)).map (fun r => r.2) }
  let s := s.withdraw ((bs.map Block.handles).flatten)
  let rest := s.blocks.filter (fun b => !(b.launch = op.launch && b.cset = op.cset))
  let s := { s with
    blocks := rest, fresh := s.fresh + 1
    sched.saved := s.sched.saved ++ [v], sched.nextTicket := t + 1
    sched.records := s.sched.records.filter (fun r => !uids.contains r.2.blk)
    sched.splits := s.sched.splits.filter (fun p => rest.any (fun b => b.core = p.1)) }
  let s := (v.blocks.zip (List.range v.blocks.length)).foldl (fun s bi =>
    s.writeImage hd.ctx hd bi.1 (saveVa (s.ctxOf hd.ctx) hd v.blocks area bi.2)) s
  s.setWstats op.by_ (t.setWidth 32 <<< 16)

/-- Brings the copy engines of a block to a line boundary; they give up the lines that they have not written (12 R279, 07 R157). -/
def State.haltEngines (s : State) (b : Block) : State :=
  let s := (s.copies.filter (fun e => e.blk = b.uid)).foldl (fun s e => toBoundary 4 e s) s
  { s with copies := s.copies.map (fun c => if c.blk = b.uid then { c with owned := [] } else c) }

/-- A pending LAUNCH of a group that has still to read its header reads it, as PRODUCER_COMPLETE has it do (12 R279, 02 R39); it stays
while an engine or a batch owns a line of the header. -/
def State.readLaunches (s : State) (h : Handle) : State :=
  let had := fun (st : Nat) (y : Producer) => { y with header := none, swrites := y.sregs.map (fun n => (n, BitVec.ofNat 32 st)) }
  (((s.grp? (.group h)).map (fun g => g.pend)).getD []).foldl (fun s q => match q.header with
    | none => s
    | some va => match s.launchStatus (.group h) (s.ctxOfParty (.group h)) va with
      | (s, none) => s
      | (s, some st) => match s.grp? (.group h) with
        | some g => s.setGrp (.group h) { g with pend := updFirst (fun y => y.id = q.id) (had st) g.pend }
        | none => s) s

/-- What must come first of a save, in the order of 12 R279: the engines halt, then the LAUNCH statuses are had. -/
def State.settleSet (s : State) (launch cset : Nat) : State :=
  let s := (s.setBlocks launch cset).foldl (fun s b => s.haltEngines b) s
  ((s.setBlocks launch cset).map Block.handles).flatten.foldl (fun s h => s.readLaunches h) s

/-- RUCKSACK_SAVE_DONE (12 R278 to R280): with no image, or no room in the context's save pool, nothing is saved. Nor does the dispatcher
save a set with a group that has stopped since it began (12 R276, R283). While a LAUNCH of the set cannot have its header, the save has
not ended (12 R279). -/
def execRucksackSaveDone (launch cset : Nat) (image : Bool) (s : State) : Out :=
  match s.sched.saveOps.find? (fun o => o.launch = launch && o.cset = cset) with
  | none => .next s
  | some op =>
    let bs := s.setBlocks launch cset
    let ended := { s with sched.saveOps := s.sched.saveOps.filter (fun o => !(o.launch = launch && o.cset = cset)) }
    if op.by_ = [] && bs.any (fun b => b.groups.any (fun g => g.live != 0 && g.stopped)) then .next (ended.markSaving launch cset false)
    else if !canSave bs || s.sched.saved.any (fun v => v.launch = launch && v.cset = cset) then .next s
    else
      let hd := ((s.launchOf launch).map (fun l => l.hdr)).getD default
      match s.saveRoom hd.ctx (sum (bs.map (imageBytes hd))), bs != [] && image with
      | some area, true =>
        let t := ended.settleSet launch cset
        if (t.setBlocks launch cset).any (fun b => b.groups.any (fun g => g.pend.any (fun q => q.header.isSome))) then .next s
        else .next (t.saveSet op area)
      | _, _ => .next ((ended.markSaving launch cset false).setWstats op.by_ 0x09)

/-! ## Restoring (12 R281) -/

/-- A scratchpad sector as a restore finds it in its image: none where that has no place in the module's own memory; else its bytes, or
none for poison (05 R460). -/
def State.imageSector (s : State) (die ctx : Nat) (va : DWord) : State × Option (Option Nat) :=
  match s.translate (.die die) ctx va needRd with
  | (s, .error _) => (s, none)
  | (s, .ok t) => if !ownMemory t.pa then (s, none)
    else
      let r := s.engineRead die ctx t.leaf t.pa
      (r.1, some r.2)

/-- A block whose scratchpad sector k takes its mark from the image (05 R460). The bytes are those that the saved set holds (DESIGN
CHOICE, log entry 70); a sector whose mark the image has lost takes the image's bytes. -/
def Block.remark (b : Block) (k : Nat) (x : Option (Option Nat)) : Block :=
  match x with
  | none => b
  | some none => b.scSector (16 * k) none
  | some (some v) => if b.scPoison.contains k then b.scSector (16 * k) (some v) else b

/-- Restores the poison marks of a block's scratchpad from its image at a VA (05 R460). -/
def State.loadMarks (s : State) (h : Header) (b : Block) (die : Nat) (va : DWord) : State × Block :=
  (List.range (h.scratch / 16)).foldl (fun (a : State × Block) k =>
    let r := a.1.imageSector die h.ctx (va + BitVec.ofNat 64 (b.imageHead h - h.scratch + 16 * k))
    (r.1, a.2.remark k r.2)) (s, b)

/-- A saved block placed on a core: its groups keep their partitions and take free slots there. -/
def State.restoreBlock (s : State) (h : Header) (b : Block) (core : Nat) (va : DWord) : State :=
  let (s, b) := s.loadMarks h b (coreDie core) va
  let slots := s.giveSlots core (b.groups.map (fun g => g.part))
  let groups := (b.groups.zip slots).map (fun gs => { gs.1 with slot := gs.2.2, saving := true })
  let b := { b with core := core, base := (s.scratchBaseFor core h).getD 0, groups := groups, bkpts := s.loadBkpts h.ctx, bkReload := false }
  let s := s.l1Empty core
  { s with
    blocks := s.blocks ++ [b]
    tlb := s.tlb.filter (fun e => e.at_ != .core core)
    sched.splits := put s.sched.splits core h.split }

/-- Begins the restore of a saved set on cores. -/
def State.beginRestore (s : State) (v : SavedSet) (cores : List Nat) : State :=
  let h := ((s.launchOf v.launch).map (fun l => l.hdr)).getD default
  let s := ((v.blocks.zip cores).zip (List.range cores.length)).foldl (fun s bc =>
    s.restoreBlock h bc.1.1 bc.1.2 (saveVa (s.ctxOf h.ctx) h v.blocks v.area bc.2)) s
  let at_ := fun (u : Nat) => ((s.blockUid u).map (fun b => b.core)).getD 0
  { s with
    sched.saved := s.sched.saved.map (fun y => if y.ticket = v.ticket then { y with restoring := true, blocks := [], records := [] } else y)
    sched.records := s.sched.records ++ v.records.map (fun r => (at_ r.blk, r)) }

/-- A trapped group re-enters its die's trap queue with its new handle (12 R281). -/
def State.requeue (s : State) (h : Handle) : State :=
  match s.grp? (.group h) with
  | some g => match g.trap with
    | some r =>
      let die := coreDie h.core
      let s := s.setGrp (.group h) { g with trap := some { r with handle := handleCode h } }
      { s with plat.trapq := setNth s.plat.trapq die (nth [] s.plat.trapq die ++ [h]) }
    | none => s
  | none => s

/-- The copy engines of a block take the lines they have still to write again, as at issue, on its new core (07 R157). -/
def State.retakeLines (s : State) (b : Block) : State :=
  (s.copies.filter (fun e => e.blk = b.uid)).foldl (fun s e =>
    let l := e.pending s b
    (s.takeLines b.core l).setCopy { e with core := b.core, owned := l }) s

/-- RUCKSACK_RESTORE_DONE (12 R281): the set's groups continue, unless a PREEMPT has come meanwhile (12 R274). -/
def execRucksackRestoreDone (launch cset : Nat) (s : State) : Out :=
  match s.sched.saved.find? (fun v => v.launch = launch && v.cset = cset && v.restoring) with
  | none => .next s
  | some v =>
    let s := s.markSaving launch cset (s.sched.saveOps.any (fun o => o.launch = launch && o.cset = cset))
    let s := { s with sched.saved := s.sched.saved.filter (fun y => y.ticket != v.ticket) }
    let s := (s.setBlocks launch cset).foldl (fun s b => s.retakeLines b) s
    .next (((s.setBlocks launch cset).map Block.handles).flatten.foldl (fun s h => s.requeue h) s)

/-! ## The dispatcher's cycle (02 R34, R35, R41) -/

/-- Whether a barrier's phase differs from the one a saved set waits with (02 R41); a peer's is polled. The dispatcher reads the
barrier where its VA leads now; one that does not translate, or is poisoned, has not moved. -/
def State.phaseMoved (s : State) (ctx : Nat) (b : DWord × Word) : State × Bool :=
  match s.translate (.die 0) ctx b.1 needRd with
  | (s, .error _) => (s, false)
  | (s, .ok t) => match region t.pa with
    | .peer tgt =>
      let r := s.peerAsk 0 ctx tgt (t.pa + 8) (fun a => .peerRequest tgt a false []) 4
      (r.1, r.2.isSome && r.2 != some b.2.toNat)
    | .mmio _ => (s.violation 0 ctx (BitVec.ofNat 64 t.pa), false)
    | _ => (s, ownMemory t.pa && !s.poisoned t.pa && s.homeRead (t.pa + 8) 4 != b.2.toNat)

/-- Makes saved sets resumable whose barriers have moved. -/
def State.wakeSaved (s : State) : State :=
  s.sched.saved.foldl (fun s v =>
    if v.resumable || v.hold || v.restoring then s
    else
      let r := v.barriers.foldl (fun (a : State × Bool) b =>
        let q := a.1.phaseMoved (((s.launchOf v.launch).map (fun l => l.hdr.ctx)).getD 0) b
        (q.1, a.2 || q.2)) (s, false)
      if r.2 then { r.1 with sched.saved := r.1.sched.saved.map (fun y => if y.ticket = v.ticket then { y with resumable := true } else y) }
      else r.1) s

/-- The heads of the queues, by queue number. -/
def State.heads (s : State) : List (Nat × Launch) :=
  s.sched.queues.filterMap (fun q => (q.2.head?.bind s.launchOf).map (fun l => (q.1, l)))

/-- Heads of a priority, among a cycle's candidates, in round-robin order after the queue last served on a die. -/
def State.headsAt (s : State) (heads : List (Nat × Launch)) (d prio : Nat) : List (Nat × Launch) :=
  let last := nth 0 s.sched.rr d
  sortBy (fun a b => (a.1 + 255 - last) % 256 ≤ (b.1 + 255 - last) % 256) (heads.filter (fun h => h.2.hdr.prio = prio))

/-- Reserves a cluster for a head that has aged (02 R34). -/
def State.reserveFor (s : State) (l : Launch) : State :=
  let taken := s.reservations.map (fun r => r.1)
  let free := (List.range 48).filter (fun c => !taken.contains c)
  let slots := fun (c : Nat) => 512 - sum ((List.range 4).map (fun i => sum ((List.range 4).map (fun p => (s.coreGroups (4 * c + i) p).length))))
  match sortBy (fun a b => slots b ≤ slots a) free with
  | c :: _ => s.updLaunch l.id (fun l => { l with reserved := some c })
  | [] => s

/-- Whether the next cluster set's private slots are free (02 R33, 05 R106). -/
def State.privFits (s : State) (h : Header) : Bool :=
  let n := h.lanes * h.groups * h.nblocks
  h.privMax = 0 || n ≤ (freeSlots (s.ctxOf h.ctx) n).length

/-- Where a cycle stands on a die: the state, the heads examined, and whether a set was placed. -/
structure Pick where
  s : State
  seen : List Nat
  done : Bool
  deriving DecidableEq, Repr

/-- Examines one head on a die; one whose last cluster set the other die has taken is no candidate. -/
def examine (d : Nat) (p : Pick) (ql : Nat × Launch) : Pick :=
  let l := (p.s.launchOf ql.2.id).getD ql.2
  if p.done || l.hdr.sets ≤ l.next then p
  else
    let p := { p with seen := insNat p.seen l.id }
    match (if p.s.privFits l.hdr then p.s.findCluster d (some l.id) l.hdr l.hdr.nblocks else none) with
    | some cores =>
      let s := p.s.placeSet l cores
      { p with s := { s with sched.rr := setNth s.sched.rr d ql.1 }, done := true }
    | none => if 65536 ≤ l.age && l.reserved.isNone then { p with s := p.s.reserveFor l } else p

/-- Tries a resumable saved set on a die. -/
def tryResume (d : Nat) (p : Pick) (v : SavedSet) : Pick :=
  if p.done || !p.s.sched.saved.any (fun y => y.ticket = v.ticket && !y.restoring) then p
  else
    let h := ((p.s.launchOf v.launch).map (fun l => l.hdr)).getD default
    match p.s.findCluster d none h v.blocks.length with
    | some cores => { p with s := p.s.beginRestore v cores, done := true }
    | none => p

/-- Resumable saved sets of a priority, oldest first. -/
def State.resumableAt (s : State) (prio : Nat) : List SavedSet :=
  sortBy (fun a b => a.stamp ≤ b.stamp) (s.sched.saved.filter (fun v => v.resumable && !v.restoring &&
    ((s.launchOf v.launch).map (fun l => l.hdr.prio)) = some prio))

/-- One die's selection among the cycle's candidates (02 R34): the heads, and the saved sets resumable in `c`, as the cycle began. -/
def selectDie (d : Nat) (c : State) (s : State) (seen : List Nat) : Pick :=
  ((List.range 64).reverse).foldl (fun p prio =>
    if p.done then p
    else (p.s.headsAt c.heads d prio).foldl (examine d) ((c.resumableAt prio).foldl (tryResume d) p)) ⟨s, seen, false⟩

/-- Whether a cluster set is in a pre-emptible wait (02 R41, 12 R276). A tier command of KIND 0 is no engine operation of its block
(19 R429). -/
def State.preemptible (s : State) (bs : List Block) : Bool :=
  let live := (bs.map (fun b => b.groups.filter (fun g => g.live != 0))).flatten
  let uids := bs.map (fun b => b.uid)
  live != [] && live.all (fun g => !g.stopped && !g.saving && g.run.isNone && (g.latch.isSome || (match g.head with
    | .entry e => g.waits.any (fun w => w.pc = e.pc && w.kind != .detlog)
    | .none => g.waits != []
    | .nonuniform => false))) &&
  live.any (fun g => g.waits.any (fun w => match w.kind with
    | .waitb _ _ _ _ => true
    | _ => false)) &&
  live.all (fun g => g.gmmas = []) && !s.copies.any (fun c => uids.contains c.blk) && !s.tiers.any (fun t => uids.contains t.blk && t.kind)

/-- Newest wait of a cluster set, a gang latch's among them. -/
def newestWait (bs : List Block) : Nat :=
  ((bs.map (fun b => (b.groups.map (fun g => g.waits.map (fun w => w.stamp) ++ (match g.latch with
    | some l => [l.stamp]
    | none => []))).flatten)).flatten).foldl (fun a b => if a < b then b else a) 0

/-- Whether the next cluster set of a launch fits some cluster (02 R33); a reservation of R35 is no part of that. -/
def State.fitsSome (s : State) (h : Header) : Bool :=
  s.privFits h && (List.range 48).any (fun cl => (s.fitsCluster cl h h.nblocks).isSome)

/-- The dispatcher's pre-emption (02 R41): when a head fits no cluster, the waiting cluster set of lowest priority not above the
head's, oldest newest wait first, begins to be saved. -/
def State.dispatcherPreempt (s : State) (unplaced : List Nat) : State :=
  let heads := unplaced.filterMap s.launchOf
  match sortBy (fun (a b : Launch) => b.hdr.prio ≤ a.hdr.prio) (heads.filter (fun l => !s.fitsSome l.hdr)) with
  | [] => s
  | h :: _ =>
    let keys := (s.blocks.map (fun b => (b.launch, b.cset))).eraseDups
    let cands := keys.filterMap (fun k =>
      let bs := s.setBlocks k.1 k.2
      let prio := ((s.launchOf k.1).map (fun l => l.hdr.prio)).getD 0
      if s.preemptible bs && prio ≤ h.hdr.prio && !s.sched.saveOps.any (fun o => o.launch = k.1 && o.cset = k.2)
        then some (prio, newestWait bs, k) else none)
    match sortBy (fun (a b : Nat × Nat × Nat × Nat) => a.1 < b.1 || (a.1 = b.1 && a.2.1 ≤ b.2.1)) cands with
    | [] => s
    | c :: _ => s.beginSave c.2.2.1 c.2.2.2 [] false

/-- DISPATCHER_CYCLE (02 R34). -/
def execDispatcherCycle (s : State) : Out :=
  let s := s.wakeSaved
  let before := s.launches.map (fun l => (l.id, l.next))
  let p0 := selectDie 0 s s []
  let p1 := selectDie 1 s p0.s p0.seen
  let placed := fun (id : Nat) => match p1.s.launchOf id with
    | some l => look? before id != some l.next
    | none => true
  let left := p1.seen.filter (fun id => !placed id)
  let s := left.foldl (fun s id => s.updLaunch id (fun l => { l with age := l.age + 1 })) p1.s
  .next (s.dispatcherPreempt left)

/-- POOL_STARVATION (02 R42): the pool has stayed full 10 ms with no cluster set placed. -/
def execPoolStarvation (s : State) : Out :=
  .next (if 8192 ≤ s.sched.pool.length then s.logPlain 0 0x01 0 0 else s)

/-! ## Completion (02 R43, R44) -/

/-- A staged atomic as its place, tags and operands. -/
structure FoldEntry where
  pa : Nat
  ms : Bool
  wid : Nat
  seq : Nat
  aop : Nat
  operand : Nat
  deriving DecidableEq, Repr

/-- The order of folds (09 R208): identifier, sequence number, operation, operand. -/
def foldLe (a b : FoldEntry) : Bool :=
  if a.pa != b.pa then a.pa < b.pa
  else if a.wid != b.wid then a.wid < b.wid
  else if a.seq != b.seq then a.seq < b.seq
  else if a.aop != b.aop then a.aop < b.aop
  else a.operand ≤ b.operand

/-- The staged atomics of a launch, each at the place that its VA leads to now: pages may have moved since it was staged (05 R123).
One whose VA no longer translates, or leads out of the module's own memory, of which the spec does not speak, is dropped (DESIGN
CHOICE, log entry 79); in the MMIO range it meets the violation response (13 R300). -/
def State.folds (s : State) (l : Launch) : State × List FoldEntry :=
  l.staged.foldl (fun a e => match e.op with
    | .atomic _ va aop _ d => match a.1.translate (.die 0) l.hdr.ctx va needRw with
      | (s, .ok t) => (match region t.pa with
          | .mmio _ => s.violation 0 l.hdr.ctx (BitVec.ofNat 64 t.pa)
          | _ => s, if ownMemory t.pa then a.2 ++ [⟨t.pa, leafMs t.leaf, e.wid.toNat, e.seq.toNat, aop, d.toNat⟩] else a.2)
      | (s, .error _) => (s, a.2)
    | .ocall _ _ _ _ _ => a) (s, [])

/-- Folds a launch's staged atomics at their homes (09 R208). Of a location that is poisoned the spec does not speak: it stays as it
is, and the entry is dropped (DESIGN CHOICE, log entry 79). -/
def State.fold (s : State) (l : Launch) : State :=
  let r := s.folds l
  (sortBy foldLe r.2).foldl (fun s e =>
    if s.poisoned e.pa then s else s.homeWrite e.ms e.pa 4 (atomNew e.aop (s.homeRead e.pa 4) e.operand)) r.1

/-- Whether a staged operation is a deferred request. -/
def Staged.isCall (e : Staged) : Bool :=
  match e.op with
  | .ocall _ _ _ _ _ => true
  | .atomic _ _ _ _ _ => false

/-- A launch leaves the device; a mailbox with a completion vector is signalled (13 R293). -/
def State.endLaunch (s : State) (l : Launch) : State :=
  let s := { s with launches := s.launches.filter (fun y => y.id != l.id) }
  let s := s.updCtx l.hdr.ctx (fun c => { c with detLogUsed := c.detLogUsed - l.spilled })
  match l.origin with
  | .mailbox n => if (s.mb n).vector = 0xFFFF#16 then s else s.msix ((s.mb n).vector.toNat % 2048)
  | .pool => s
  | .ranger => s

/-- A DONEFAULT entry: ADDR the barrier, AUX0 the queue (02 R44). -/
def State.doneFault (s : State) (l : Launch) : State :=
  (s.logOne 0 0x02 l.hdr.ctx l.hdr.done (BitVec.ofNat 64 l.hdr.queue)).endLaunch l

/-- The completion arrival (02 R43, R44). R44 names XNP, XPERM, XRSV and BARFAULT; a barrier in a poisoned sector, of which it
says nothing, is recorded as DONEFAULT too (DESIGN CHOICE, log entry 79). -/
def State.doneArrival (s : State) (l : Launch) : State :=
  if l.hdr.done = 0 then s.endLaunch l
  else match s.translate (.die 0) l.hdr.ctx l.hdr.done needRw with
  | (s, .error f) => if f.cause = 0x06 then s.updLaunch l.id (fun l => { l with stage := .doneWait }) else s.doneFault l
  | (s, .ok t) => match s.arrive 0 l.hdr.ctx t 1 with
    | .done s => s.endLaunch l
    | .barfault s => s.doneFault l
    | .poison s => s.doneFault l

/-- Whether every thread of a launch has exited. -/
def State.allExited (s : State) (l : Launch) : Bool :=
  l.hdr.sets ≤ l.next && !s.blocks.any (fun b => b.launch = l.id) && !s.sched.saved.any (fun v => v.launch = l.id)

/-- LAUNCH_COMPLETE (02 R43): the release and the folds; then, once no deferred request is left, the arrival. -/
def execLaunchComplete (launch : Nat) (s : State) : Out :=
  match s.launchOf launch with
  | none => .next s
  | some l =>
    match l.stage with
    | .doneWait => .next s
    | .folding =>
      if l.staged = [] && !s.potluck.waves.any (fun w => w.det = some launch) then .next (s.doneArrival l) else .next s
    | .running =>
      if !s.allExited l then .next s
      else
        let s := (List.range 192).foldl (fun s k => s.flushCore k) s
        let s := s.fold l
        let calls := l.staged.filter Staged.isCall
        if calls = [] then .next (s.doneArrival l)
        else .next (s.updLaunch launch (fun l => { l with staged := calls, stage := .folding }))

/-- DONE_ARRIVAL_RETRY (02 R44): the waiting arrival is made. -/
def execDoneArrivalRetry (launch : Nat) (s : State) : Out :=
  match s.launchOf launch with
  | none => .next s
  | some l => if l.stage = .doneWait then .next (s.doneArrival l) else .next s

/-- DET_LOG_EXTEND (09 R207): the log grows and waiting words reissue, or with no pages they raise DETFAULT. -/
def execDetLogExtend (ctx pages : Nat) (s : State) : Out :=
  let hs := (s.blocks.map (fun b => if (s.hdrOfBlock b).ctx = ctx then b.handles else [])).flatten
  let waits := hs.filter (fun h => match s.grp? (.group h) with
    | some g => g.waits.any (fun w => w.kind = .detlog)
    | none => false)
  let s := if waits = [] then s else s.updCtx ctx (fun c => { c with detLogPages := c.detLogPages + pages })
  .next (waits.foldl (fun s h =>
    match s.grp? (.group h) with
    | none => s
    | some g =>
      let w := (g.waits.find? (fun w => w.kind = .detlog)).getD default
      let s := s.setGrp (.group h) { g with waits := g.waits.filter (fun w => w.kind != .detlog) }
      if pages = 0 then s.trapGroup h ⟨0x0F, 0, 0, 1⟩ w.act w.pc w.word else s) s)

/-! ## Mailboxes (13 R292) -/

/-- Ends a mailbox whose EN was cleared, once no committed slot is left (13 R293). -/
def Mailbox.settle (m : Mailbox) : Mailbox :=
  if m.closing && !m.slots.any (fun k => k.2 = .committed || k.2 = .cancelled) then
    { m with en := false, closing := false, slots := [], rptr := 0, cptr := 0, dptr := 0 }
  else m

/-- The 1,024 bits of a slot's record. -/
def Mailbox.record (m : Mailbox) (k : Nat) : Nat := ofBytes ((List.range 128).map (fun i => Sparse.get m.data (128 * k + i)))

/-- MAILBOX_CONSUME (13 R292): the dispatcher takes the next committed slot. The BADLAUNCH of a rejected record stands in the log of die 0,
with the CTX of its header and ADDR 0 (DESIGN CHOICE, log entry 88). -/
def execMailboxConsume (mb : Nat) (s : State) : Out :=
  let m := s.mb mb
  let st := m.slot m.dptr
  if !(st = .committed || st = .cancelled) then .next s
  else
    let w := m.record m.dptr
    let s := s.setMb mb ({ m with slots := put m.slots m.dptr .free, dptr := (m.dptr + 1) % 256 } : Mailbox).settle
    if st = .cancelled then .next s
    else
      let h := headerOf w
      let code := s.checkHeader w h (some m.ctx)
      if code = 0 then .next (s.accept h (.mailbox mb))
      else .next (s.logOne 0 0x04 h.ctx 0 (BitVec.ofNat 64 code))

end Sys2Proof.Machine
end

