-- ==== Sys2Proof/Machine/Combine.lean ====
section
/-! DEFINITION. Combining: objects, requests, batches, combiner waves and replies (spec 09 R192 to R204, R207, R208, R459; 18
R404, R405), and the completion of producers (03 R56). -/

namespace Sys2Proof.Machine

/-! ## Producers (03 R56) -/

/-- PRODUCER_COMPLETE (03 R56): the data of a pending producer arrive. A LAUNCH that has still to read its header reads it now, once no
engine owns a line of it (02 R39, 07 R156). -/
def execProducerComplete (p : Party) (id : Nat) (s : State) : Out :=
  match s.grp? p with
  | none => .next s
  | some g => match g.pend.find? (fun q => q.id = id && q.kind != .ocall && q.kind != .drain && q.kind != .icinv) with
    | none => .next s
    | some q => match q.header with
      | none => .next (s.setGrp p (g.complete q))
      | some va => match s.launchStatus p (s.ctxOfParty p) va with
        | (s, none) => .next s
        | (s, some st) => .next (s.setGrp p (g.complete { q with swrites := q.sregs.map (fun n => (n, BitVec.ofNat 32 st)) }))

/-! ## OBIND (09 R193) -/

/-- COMBFAULT of OBIND: a cause, and the walk level of a translation fault. -/
def bindFault (va : DWord) (cause level : Nat) : Cause := ⟨0x0D, level, va, BitVec.ofNat 64 cause⟩

/-- Whether a physical address is homed on this module. -/
def homedHere (pa : Nat) : Bool :=
  match region pa with
  | .hbm _ => true
  | .ct => true
  | _ => false

/-- An object read from its header at home. -/
def State.objectAt (s : State) (va : DWord) (pa ctx : Nat) : Bound :=
  { unit := unitOf pa, hdrVa := va, hdrPa := pa, ctx := ctx, methods := BitVec.ofNat 64 (s.homeRead pa 8)
    window := BitVec.ofNat 64 (s.homeRead (pa + 8) 8), size := s.homeRead (pa + 16) 2, solo := s.homeRead (pa + 18) 1 % 2 = 1
    faulted := false, queue := [] }

/-- The contents of a header that R192 accepts. -/
def State.headerOk (s : State) (pa : Nat) : Bool :=
  let o := s.objectAt 0 pa 0
  s.homeRead (pa + 18) 1 < 2 && (List.range 4).all (fun i => s.homeRead (pa + 0x20 + 8 * i) 8 = 0) && o.size ≤ 8192 &&
    o.size % 64 = 0 && o.window.toNat % 64 = 0 && o.methods.toNat % 8 = 0

/-- Whether a batch on an object is in flight. -/
def State.batchOn (s : State) (pa : Nat) : Bool := s.potluck.waves.any (fun w => w.hdrPa = pa)

/-- What a unit answers to a bind or an unbind: a cause of R203, a wait for the batch in flight, or the state it leaves. -/
inductive BindDone where
  | fault (cause : Nat)
  | wait
  | ok (s : State)

/-- A bind or an unbind at the unit of a header's line, for a context of this module or of a peer (09 R193). R193 does not speak of a
poisoned header: a bind that meets one answers POISON (DESIGN CHOICE, log entry 79). -/
def State.bindAt (s : State) (va : DWord) (pa ctx : Nat) (unbind : Bool) : BindDone :=
  let old := s.boundAt pa
  let mine : Bool := match old with
    | some o => o.ctx = ctx
    | none => !unbind && (s.potluck.bound.filter (fun o => o.unit = unitOf pa)).length < 1024
  if !homedHere pa then .fault 0x13
  else if !unbind && (s.poisoned pa || s.poisoned (pa + 16) || s.poisoned (pa + 32) || s.poisoned (pa + 48)) then .fault 0x09
  else if !unbind && !s.headerOk pa then .fault 0x13
  else if !mine then .fault 0x11
  else if s.batchOn pa then .wait
  else
    let queue := (old.map (fun o => o.queue)).getD []
    let rest := s.potluck.bound.filter (fun o => o.hdrPa != pa)
    if unbind then .ok (({ s with potluck.bound := rest } : State).reply (refuse queue 0x11))
    else .ok (({ s with potluck.bound := rest ++ [{ s.objectAt va pa ctx with queue := queue }] } : State).putHome (pa + 0x13) 1 0)

/-- A bind or an unbind through a peer window: the peer's unit answers by the same rules, done or one of the causes of R193 (13
R294). -/
def peerBindWord (va : DWord) (tgt pa : Nat) (unbind : Bool) (x : Issue) (s : State) : State :=
  match s.peerAsk (partyDie x.party) x.ctx tgt pa (fun a => .peerBind tgt a va unbind x.ctx) 1 with
  | (s, none) => trapWord x (bindFault va 0x01 0) x.active s
  | (s, some c) =>
    match c % 4 with
    | 0 => retire x x.g s
    | 1 => trapWord x (bindFault va 0x01 0) x.active s
    | 2 => trapWord x (bindFault va 0x13 0) x.active s
    | _ => trapWord x (bindFault va 0x11 0) x.active s

/-- OBIND and OBIND.u up to the unit's answer. A header behind the host aperture, for which R193 names no cause, is treated as a peer's
(DESIGN CHOICE, log entry 86). -/
def bindWord (unbind : Bool) (f : FmtV) (x : Issue) (s : State) : State :=
  let va := x.g.spair f.sa.toNat
  match s.resolve x.party va needRw with
  | (s, .error fl) => trapWord x (bindFault va 0x01 fl.level) x.active s
  | (s, .ok t) =>
    if va.toNat % 64 != 0 || leafMs t.leaf then trapWord x (bindFault va 0x13 0) x.active s
    else match region t.pa with
    | .peer tgt => peerBindWord va tgt t.pa unbind x (s.release (partyCore x.party) .system)
    | _ =>
      let s := s.release (partyCore x.party) .device
      match s.bindAt va t.pa x.ctx unbind with
      | .fault c => trapWord x (bindFault va c 0) x.active s
      | .wait => hold s
      | .ok s => retire x x.g s

/-- OBIND (09 R193). -/
def execObind (f : FmtV) (s : State) : Out := laneWord (.obind f) (bindWord false f) s
/-- OBIND.u (09 R193). -/
def execObindU (f : FmtV) (s : State) : Out := laneWord (.obindU f) (bindWord true f) s

/-! ## OCALL (09 R194, 18 R404) -/

/-- The reply of a peer's unit, as a free value: a value, or a fault cause where the first byte is not zero. -/
def peerReply (r : Request) (who : ReplyTo) (s : State) : State :=
  let c := Config.peerByte s.fresh
  let v := Config.peerWord (s.fresh + 1)
  let s := { s with fresh := s.fresh + 2 }
  s.reply [⟨who, v, if c = 0 then none else some c, r.hdrVa, r.meth⟩]

/-- Sends one request: to its unit, or through an aperture. -/
def sendRequest (s : State) (r : Request) : State :=
  match region r.hdrPa with
  | .peer tgt => match s.remote tgt r.hdrPa with
    | some a =>
      let who := r.dest.getD default
      let s := s.emit (.peerOcall tgt a r.meth r.arg r.ctx r.wid r.widths who.blk who.gix who.lane who.vd)
      match r.dest with
      | some who => peerReply r { who with via := some tgt } s
      | none => s
    | none => (s.violation r.unit.die r.ctx (BitVec.ofNat 64 r.hdrPa)).reply (refuse [r] 0x01)
  | _ => { s with potluck.net := s.potluck.net ++ [r] }

/-- OCALL (09 R194, R206; 18 R404). -/
def execOcall (f : FmtV) (s : State) : Out :=
  laneWord (.ocall f) (fun x s =>
    let meth : Byte := f.fn.setWidth 8
    let addrs := x.lanes.map (fun l => (l, aligned 64 (x.g.vpair f.sa.toNat l)))
    let (s, accs, faults) := resolveAll x needRd addrs s
    let widths := s.widthsOf x.party 0
    if s.detOf x.party then
      if s.stageRoom x.g x.ctx < accs.length then waitLog x s
      else
        let r := stageOps x (accs.map (fun a => (a.lane, StagedOp.ocall a.va a.t.pa meth (x.g.vpair f.sb.toNat a.lane) widths))) s
        finishLanes x r.1 (sortFaults faults) r.2
    else
      let s := s.release (partyCore x.party) .device
      let id := s.fresh
      let blk := ((s.blockOfParty x.party).map (fun b => b.uid)).getD 0
      let reqs := accs.map (fun a => (⟨a.va, a.t.pa, unitOf a.t.pa, meth, x.g.vpair f.sb.toNat a.lane, x.ctx, nth 0 x.g.wids a.lane,
        widths, some ⟨blk, x.g.index, a.lane, f.dst.toNat, id, none, false⟩, id⟩ : Request))
      let p : Producer := { Producer.mk0 id .ocall with vregs := [f.dst.toNat, f.dst.toNat + 1], fills := faults.isEmpty
                                                        lanes := maskOf (accs.map (fun a => a.lane)) }
      let g := if accs = [] then x.g.markEmpty p.vregs [] else x.g.issue p
      finishLanes x g (sortFaults faults) (reqs.foldl sendRequest s.next)) s

/-! ## Queues (09 R196) -/

/-- Entries of a unit's queue. -/
def State.unitLoad (s : State) (u : UnitId) : Nat := sum ((s.potluck.bound.filter (fun o => o.unit = u)).map (fun o => o.queue.length))

/-- OCALL_REQUEST_ARRIVE (09 R196): the oldest request on its way to a unit enters its object's queue or is refused. -/
def execOcallRequestArrive (u : UnitId) (s : State) : Out :=
  match s.potluck.net.find? (fun r => r.unit = u) with
  | none => .next s
  | some r =>
    let gone := { s with potluck.net := s.potluck.net.erase r }
    match s.boundAt r.hdrPa with
    | none => .next (gone.reply (refuse [r] 0x11))
    | some o =>
      if o.ctx != r.ctx then .next (gone.reply (refuse [r] 0x11))
      else if o.faulted then .next (gone.reply (refuse [r] 0x10))
      else if 4096 ≤ s.unitLoad u then .next s
      else .next ((gone.updBound r.hdrPa (fun o => { o with queue := o.queue ++ [{ r with stamp := s.fresh }] })).next)

/-! ## Batches (09 R197, R198, R200) -/

/-- The requests of a batch from the front of a list: one method, at most 32, one under SOLO. -/
def batchOf (solo : Bool) (l : List Request) : List Request :=
  match l with
  | [] => []
  | r :: t => if solo then [r] else (r :: t.takeWhile (fun q => q.meth = r.meth)).take 32

/-- The physical lines of a state window, or none where R192 refuses its place. -/
def windowLines (u : UnitId) (ctx : Nat) (va : DWord) : Nat → Nat → State → State × Option (List Nat)
  | 0, _, s => (s, some [])
  | n + 1, i, s =>
    match s.translate (.die u.die) ctx (va + BitVec.ofNat 64 (64 * i)) needRw with
    | (s, .error _) => (s, none)
    | (s, .ok t) =>
      if leafMs t.leaf || !homedHere t.pa then (s, none)
      else match windowLines u ctx va n (i + 1) s with
        | (s, some l) => (s, some (t.pa / 64 :: l))
        | r => r

/-- Start registers of a wave (09 R198). It has no tiles, and no check of a tile's number: a word that reaches one is forbidden (R459). -/
def waveGroup (o : Bound) (reqs : List Request) (pc : DWord) : Group :=
  let n := reqs.length
  let m := BitVec.ofNat 32 (2 ^ n - 1)
  let ix := reqs.zip (List.range n)
  let lane := fun (ri : Request × Nat) =>
    let r := ri.1
    let i := ri.2
    [(i, r.arg.setWidth 32), (32 + i, r.arg.extractLsb' 32 32), (64 + i, r.wid.setWidth 32),
      (96 + i, r.wid.extractLsb' 32 32), (128 + i, r.meth.setWidth 32)]
  let g := { Group.blank with
    alloc := 128, acct := 16, present := m, live := m, tab := [⟨pc, m, .ready, 0, false, true⟩]
    v := Sparse.setAll [] ((ix.map lane).flatten)
    wids := (List.range 32).map (fun i => ((reqs[i]?).map (fun (r : Request) => r.wid)).getD 0) }
  let g := (((g.sset 0 (BitVec.ofNat 32 n)).sset 2 (o.hdrVa.setWidth 32)).sset 3 (o.hdrVa.extractLsb' 32 32)).sset 4 (BitVec.ofNat 32 o.size)
  g.mset 0 m

/-- Starts a batch in a wave context: method entry, window, registers; the queue no longer holds its requests. A refused batch
leaves the object ok; a fault in staging faults it (09 R197, R200, R203). `none`: the batch waits for an engine. -/
def startBatch (o : Bound) (k : Nat) (reqs : List Request) (det : Option Nat) (s : State) : Option State :=
  let meth := (reqs.head?.map (fun r => r.meth)).getD 0
  let (s, lines) := windowLines o.unit o.ctx o.window (o.size / 64) 0 s
  let ls := lines.getD []
  if ls.any (fun l => s.lineOwned (64 * l)) then none
  else
    let (s, ent) : State × Except Nat Nat := match s.translate (.die o.unit.die) o.ctx (o.methods + BitVec.ofNat 64 (8 * meth.toNat)) needRd with
      | (s, .error _) => (s, .error 0x01)
      | (s, .ok t) => match s.loadBytes (.wave o.unit k) t 8 with
        | (s, none) => (s, .error 0x09)
        | (s, some v) => (s, .ok v)
    match ent with
    | .ok 0 => some (s.reply (refuse reqs 0x12))
    | _ =>
      let pc : Nat := match ent with
        | .ok p => p
        | .error _ => 0
      let staged := Sparse.setAll [] (((List.range o.size).map (fun i => (i, s.byte (64 * nth 0 ls (i / 64) + i % 64)))))
      let w : Wave :=
        { unit := o.unit, wslot := k, hdrPa := o.hdrPa, hdrVa := o.hdrVa, ctx := o.ctx, n := reqs.length, meth := meth, reqs := reqs
          lines := ls, windowVa := o.window, staged := staged, size := o.size, words := 0, det := det
          grp := waveGroup o reqs (BitVec.ofNat 64 pc) }
      let s := { s with potluck.waves := s.potluck.waves ++ [w] }
      let poisoned := ls.any (fun l => (List.range 4).any (fun i => s.poisoned (64 * l + 16 * i)))
      some (match ent, lines with
        | .error c, _ => s.methodFault o.unit k c 0
        | _, none => s.methodFault o.unit k 0x01 0
        | _, _ => if poisoned then s.methodFault o.unit k 0x09 0 else s)

/-- A wave context of a unit that is free. -/
def State.freeWave (s : State) (u : UnitId) : Option Nat := (List.range 4).find? (fun k => !s.potluck.waves.any (fun w => w.is u k))

/-- A deferred request as a request without a requester (09 R208). -/
def deferred (ctx : Nat) (e : Staged) : Option Request :=
  match e.op with
  | .ocall va pa m a w => some ⟨va, pa, unitOf pa, m, a, ctx, e.wid, w, none, 0⟩
  | .atomic _ _ _ _ _ => none

/-- The order of deferred requests (09 R208): object, identifier, sequence number, method, argument. Where the page of a header has moved
between two requests, one VA names two places; they are taken one after the other, the lower PA first (DESIGN CHOICE, log entry 88). -/
def callLe (a b : Staged) : Bool :=
  match a.op, b.op with
  | .ocall va pa m x _, .ocall vb pb n y _ =>
    if va != vb then va < vb
    else if pa != pb then pa < pb
    else if a.wid != b.wid then a.wid < b.wid
    else if a.seq != b.seq then a.seq < b.seq
    else if m != n then m < n
    else x ≤ y
  | _, _ => true

/-- Runs the next batch of a launch's deferred requests, if it belongs to the unit (09 R208). -/
def startDeferred (u : UnitId) (k : Nat) (l : Launch) (s : State) : Option State :=
  let calls := sortBy callLe l.staged
  match calls.head?.bind (deferred l.hdr.ctx) with
  | none => none
  | some r0 =>
    let same := calls.filterMap (fun e => match deferred l.hdr.ctx e with
      | some r => if r.hdrPa = r0.hdrPa && r.hdrVa = r0.hdrVa then some r else none
      | none => none)
    let dropN := fun (n : Nat) (s : State) => s.updLaunch l.id (fun l => { l with staged := calls.drop n })
    match region r0.hdrPa with
    | .peer _ => some (dropN 1 (sendRequest s r0))
    | _ =>
      if r0.unit != u then none
      else match s.boundAt r0.hdrPa with
      | none => some (dropN same.length s)
      | some o =>
        if o.ctx != l.hdr.ctx || o.faulted then some (dropN same.length s)
        else if s.batchOn r0.hdrPa then none
        else
          let b := batchOf o.solo same
          startBatch o k b (some l.id) (dropN b.length s)

/-- BATCH_START (09 R197, R208): a free wave context takes the batch whose head request arrived first; deferred requests of a
completing launch are taken when no queued request waits. While an engine owns a line of that object's window, the unit starts no other
object's batch (DESIGN CHOICE, log entry 88). -/
def execBatchStart (u : UnitId) (s : State) : Out :=
  match s.freeWave u with
  | none => .next s
  | some k =>
    let cands := s.potluck.bound.filter (fun o => o.unit = u && o.queue != [] && !s.batchOn o.hdrPa)
    let head := fun (o : Bound) => (o.queue.head?.map (fun r => r.stamp)).getD 0
    match sortBy (fun a b => head a ≤ head b) cands with
    | o :: _ =>
      let b := batchOf o.solo o.queue
      .next ((startBatch o k b none (s.updBound o.hdrPa (fun o => { o with queue := o.queue.drop b.length }))).getD s)
    | [] =>
      let ls := s.launches.filter (fun l => l.stage = .folding && !s.potluck.waves.any (fun w => w.det = some l.id))
      .next ((ls.findSome? (fun l => startDeferred u k l s)).getD s)

/-- WAVE_LIMIT (09 R198): a wave that has issued 4,096 words, or whose every lane is parked, faults with LIMIT. The
faulting PC is that of its lowest entry (DESIGN CHOICE, log entry 88). -/
def execWaveLimit (u : UnitId) (wslot : Nat) (s : State) : Out :=
  match s.potluck.waves.find? (fun w => w.is u wslot) with
  | none => .next s
  | some w =>
    if 4096 ≤ w.words || (w.grp.run.isNone && w.grp.head = .none) then
      .next (s.methodFault u wslot 0x04 (((lowest w.grp.tab).map (fun e => e.pc)).getD 0))
    else .next s

/-! ## Wave words (09 R199, R200) -/

/-- The wave that issues a word. -/
def State.waveOf (s : State) (p : Party) : Option Wave :=
  match p with
  | .wave u k => s.potluck.waves.find? (fun w => w.is u k)
  | _ => none

/-- The window offset of each active lane, or ALIGN or RANGE. -/
def windowOffs (w : Wave) (sa n : Nat) (x : Issue) : List (Nat × Except Cause Nat) :=
  x.lanes.map (fun l =>
    let o := (x.g.vget sa l).toNat
    (l, if o % n != 0 then .error (causeOf 0x05) else if w.size < o + n then .error (causeOf 0x105) else .ok o))

/-- OLD (09 R199). -/
def execOld (f : FmtV) (s : State) : Out :=
  laneWord (.old f) (fun x s =>
    match s.waveOf x.party with
    | none => trapWord x (causeOf 0x01) x.active s
    | some w =>
      let n := 2 ^ (f.fn.toNat % 4)
      let (offs, faults) := splitLanes (windowOffs w f.sa.toNat n x)
      let val := fun (o : Nat) =>
        let v := ofBytes ((List.range n).map (fun i => Sparse.get w.staged (o + i)))
        if f.fn.getLsbD 2 then ofInt 32 (toSigned (8 * n) v) else v
      finishLanes x (putLanes x.g f.dst.toNat (if n = 8 then 2 else 1) (offs.map (fun o => (o.1, val o.2)))) faults s) s

/-- OST (09 R199): the highest lane wins a byte. -/
def execOst (f : FmtV) (s : State) : Out :=
  laneWord (.ost f) (fun x s =>
    match s.waveOf x.party with
    | none => trapWord x (causeOf 0x01) x.active s
    | some w =>
      let n := 2 ^ (f.fn.toNat % 4)
      let (offs, faults) := splitLanes (windowOffs w f.sa.toNat n x)
      let put1 := fun (m : Sparse 8) (o : Nat × Nat) =>
        Sparse.setAll m (((List.range n).zip (toBytes n (x.g.vpair f.sb.toNat o.1).toNat)).map (fun b => (o.2 + b.1, b.2)))
      let st := offs.foldl put1 w.staged
      let s := { s with potluck.waves := updFirst (fun y => y.is w.unit w.wslot) (fun y => { y with staged := st }) s.potluck.waves }
      finishLanes x x.g faults s) s

/-- The replies of a batch from the reply pair of its lanes. -/
def batchReplies (w : Wave) (g : Group) (sa : Nat) : List Reply :=
  (w.reqs.zip (List.range w.reqs.length)).filterMap (fun ri =>
    ri.1.dest.map (fun t => ⟨t, g.vpair sa ri.2, none, w.hdrVa, w.meth⟩))

/-- Writes a wave's window back as one update (09 R200). -/
def State.writeWindow (s : State) (w : Wave) : State :=
  (w.lines.zip (List.range w.lines.length)).foldl (fun s li =>
    (List.range 4).foldl (fun s i =>
      s.putHome (64 * li.1 + 16 * i) 16 (ofBytes ((List.range 16).map (fun b => Sparse.get w.staged (64 * li.2 + 16 * i + b))))) s) s

/-- OCOMMIT and OABORT: they wait for every valid lane, look at the reply registers, then end the wave (09 R200). -/
def endBatch (commit : Bool) (f : FmtV) (x : Issue) (s : State) : State :=
  match s.waveOf x.party with
  | none => trapWord x (causeOf 0x01) x.active s
  | some w =>
    if x.g.live != x.g.present then trapWord x (causeOf 0x108) x.active s
    else if x.mask != x.g.live then awaitLanes x s
    else checkedOps x (specOf (if commit then .ocommit f else .oabort f)).ops (fun x s =>
      let s := { s with potluck.waves := s.potluck.waves.filter (fun y => !y.is w.unit w.wslot) }
      let s := if commit then s.writeWindow w else s
      s.reply (batchReplies w x.g f.sa.toNat)) s

/-- OCOMMIT (09 R200). -/
def execOcommit (f : FmtV) (s : State) : Out := laneWord (.ocommit f) (endBatch true f) s
/-- OABORT (09 R200). -/
def execOabort (f : FmtV) (s : State) : Out := laneWord (.oabort f) (endBatch false f) s

/-! ## Replies (09 R201, R204) -/

/-- Whether an earlier reply goes to the same register of the same lane (09 R201). -/
def replyBlocked (l : List Reply) (ix : Nat) (r : Reply) : Bool :=
  (l.take ix).any (fun q => q.dest.blk = r.dest.blk && q.dest.gix = r.dest.gix && q.dest.lane = r.dest.lane && q.dest.vd = r.dest.vd
    && q.dest.peer = r.dest.peer && (!r.dest.peer || q.dest.via = r.dest.via))

/-- What a reply leaves in a group: its value, or its mark; nothing for a lane that has exited (09 R201, R204). Of several fault replies to
one pair, which one the mark keeps the spec does not say: the first to arrive (DESIGN CHOICE, log entry 86). -/
def Group.takes (g : Group) (r : Reply) : Group :=
  if !hasLane g.live r.dest.lane then g
  else
    let k := 32 * r.dest.vd + r.dest.lane
    match r.fault with
    | none => { g with v := Sparse.set (Sparse.set g.v k (r.value.setWidth 32)) (k + 32) (r.value.extractLsb' 32 32) }
    | some c => if g.marks.any (fun m => m.pair = r.dest.vd / 2) then g
        else { g with marks := g.marks ++ [⟨r.dest.vd / 2, r.obj, c, r.meth⟩] }

/-- A reply lands in a group: its value or its mark, and the pair becomes full when the reply of every executing lane has arrived (09
R194), the discarded ones included. -/
def Group.land (g : Group) (r : Reply) : Group :=
  let g := g.takes r
  match g.pend.find? (fun p => p.id = r.dest.prod) with
  | none => g
  | some p =>
    let left := p.lanes &&& ~~~laneBit r.dest.lane
    if left = 0 then
      let g := { g with pend := g.pend.filter (fun q => q.id != p.id) }
      if p.fills then g.markFull p.vregs [] else g
    else { g with pend := updFirst (fun q => q.id = p.id) (fun q => { q with lanes := left }) g.pend }

/-- A reply lands in its block. -/
def Block.land (b : Block) (r : Reply) : Block :=
  { b with groups := updFirst (fun g => g.index = r.dest.gix) (fun g => g.land r) b.groups }

/-- The reply in the image of a saved set's block (09 R201). -/
def State.replyImage (s : State) (v : SavedSet) (r : Reply) : State :=
  let hd := ((s.launchOf v.launch).map (fun l => l.hdr)).getD default
  ((List.range v.blocks.length).zip v.blocks).foldl (fun s ib =>
    match (if ib.2.uid = r.dest.blk then ib.2.groups.find? (fun g => g.index = r.dest.gix) else none) with
    | some g => s.imageReply hd.ctx hd ib.2 (saveVa (s.ctxOf hd.ctx) hd v.blocks v.area ib.1) g r.dest.lane r.dest.vd
    | none => s) s

/-- Delivers a reply: to its resident block, to its saved image, or nowhere; `none` while the block is being saved or
restored (09 R201). -/
def State.deliver (s : State) (r : Reply) : Option State :=
  if r.dest.peer then
    some (match r.dest.via with
      | some port => if s.plat.linksDown.contains port then s else s.emit (.peerReply port r.dest.blk r.dest.gix r.dest.lane r.dest.vd r.value r.fault)
      | none => s)
  else match s.blockUid r.dest.blk with
  | some b =>
    if b.groups.any (fun g => g.saving) then none
    else some ((s.updBlock b.uid (fun b => b.land r)).acquire (some b.core) .device)
  | none =>
    let saved := s.sched.saved.map (fun v => { v with blocks := updFirst (fun b => b.uid = r.dest.blk) (fun b => b.land r) v.blocks })
    some (saved.foldl (fun s v => s.replyImage v r) { s with sched.saved := saved })

/-- The reply at an index lands, if it may. -/
def takeReply (ix : Nat) (fault : Bool) (s : State) : State :=
  match s.potluck.replies[ix]? with
  | none => s
  | some r =>
    if r.fault.isSome != fault || replyBlocked s.potluck.replies ix r then s
    else match s.deliver r with
      | none => s
      | some t => { t with potluck.replies := dropNth t.potluck.replies ix }

/-- OCALL_REPLY (09 R201). -/
def execOcallReply (ix : Nat) (s : State) : Out := .next (takeReply ix false s)
/-- FAULT_REPLY (09 R204). -/
def execFaultReply (ix : Nat) (s : State) : Out := .next (takeReply ix true s)

end Sys2Proof.Machine
end

