-- ==== Sys2Proof/Machine/Tiles.lean ====
section
/-! DEFINITION. What `CFGWR` holds of a tile: node words, targets, taps and stream records (spec 10 R217 to R219, R229),
the checks on them (10, 11 R251), tile blocks, their CRC and placement (11 R244 to R246), and reaching stacks, tiles
and runs. -/

namespace Sys2Proof.Machine

/-! ## Stacks, tiles, runs -/

/-- A stack fabric. -/
def State.stackOf (s : State) (k : Nat) : Stack := nth Stack.blank s.fabrics k

/-- Changes a stack fabric. -/
def State.updStack (s : State) (k : Nat) (f : Stack → Stack) : State := { s with fabrics := setNth s.fabrics k (f (s.stackOf k)) }

/-- A tile by its index 8 × y + x. -/
def Stack.tile (k : Stack) (i : Nat) : Tile := nth Tile.blank k.tiles i

/-- Changes a tile. -/
def Stack.updTile (k : Stack) (i : Nat) (f : Tile → Tile) : Stack := { k with tiles := setNth k.tiles i (f (k.tile i)) }

/-- A tile of the machine. -/
def State.tile (s : State) (k i : Nat) : Tile := (s.stackOf k).tile i

/-- Changes a tile of the machine. -/
def State.updTile (s : State) (k i : Nat) (f : Tile → Tile) : State := s.updStack k (fun st => st.updTile i f)

/-- The index of a tile's name. -/
def tileIx (t : TileId) : Nat := 8 * t.y + t.x

/-- A node slot's state. -/
def Tile.nodeSt (t : Tile) (n : Nat) : NodeSt := nth NodeSt.blank t.node n

/-- Changes a node slot's state. -/
def Tile.setNode (t : Tile) (n : Nat) (d : NodeSt) : Tile := { t with node := setNth t.node n d }

/-- A stream record's state. -/
def Tile.stream (t : Tile) (r : Nat) : StreamSt := nth StreamSt.blank t.streams r

/-- Changes a stream record's state. -/
def Tile.setStream (t : Tile) (r : Nat) (d : StreamSt) : Tile := { t with streams := setNth t.streams r d }

/-- Whether a run is the one in a slot of a region. -/
def FabRun.is (r : FabRun) (rid slot : Nat) : Bool := r.rid = rid && r.slot = slot

/-- The run in a slot of a region. -/
def Stack.run (k : Stack) (rid slot : Nat) : Option FabRun := k.runs.find? (fun r => r.is rid slot)

/-- Changes the run in a slot of a region. -/
def Stack.updRun (k : Stack) (rid slot : Nat) (f : FabRun → FabRun) : Stack :=
  { k with runs := updFirst (fun r => r.is rid slot) f k.runs }

/-- Changes a run of the machine. -/
def State.updRun (s : State) (k : Nat) (r : FabRun) (f : FabRun → FabRun) : State :=
  s.updStack k (fun st => st.updRun r.rid r.slot f)

/-- Whether a run is neither DONE nor KILLED (11 R254). -/
def RunSt.live (st : RunSt) : Bool := st != .done && st != .killed && st != .none

/-- Whether a run's graph is moving. -/
def RunSt.moving (st : RunSt) : Bool := st = .running || st = .draining

/-- Whether a run holds its region's tiles (11 R256). -/
def RunSt.holds (st : RunSt) : Bool := st = .loading || st.moving

/-- The value CFGSTAT reports of a state (11 R254). -/
def RunSt.val : RunSt → Nat
  | .none => 0
  | .pending => 1
  | .loading => 2
  | .running => 3
  | .draining => 4
  | .drained => 5
  | .done => 6
  | .killed => 7

/-- The run whose graph moves on a tile. -/
def Stack.activeAt (k : Stack) (i : Nat) : Option FabRun := k.runs.find? (fun r => r.st.moving && r.tiles.contains i)

/-- The run that holds a tile, its image being loaded or its graph moving (11 R256). -/
def Stack.holderAt (k : Stack) (i : Nat) : Option FabRun := k.runs.find? (fun r => r.st.holds && r.tiles.contains i)

/-! ## Regions (11 R241) -/

/-- A rectangle of tiles. -/
structure Rect where
  x : Nat
  y : Nat
  w : Nat
  h : Nat
  deriving DecidableEq, Repr

/-- The tiles of a rectangle, row by row. -/
def Rect.tiles (r : Rect) : List Nat :=
  ((List.range r.h).map (fun j => (List.range r.w).map (fun (i : Nat) => 8 * (r.y + j) + r.x + i))).flatten

/-- The largest of a list of numbers. -/
def maxNat (l : List Nat) : Nat := l.foldl (fun a b => if a < b then b else a) 0

/-- The rectangle that a set of tiles forms, if it does. -/
def rectOf (l : List Nat) : Option Rect :=
  match minNat (l.map (fun i => i % 8)), minNat (l.map (fun i => i / 8)) with
  | some x, some y =>
    let r : Rect := ⟨x, y, maxNat (l.map (fun i => i % 8)) - x + 1, maxNat (l.map (fun i => i / 8)) - y + 1⟩
    if r.w * r.h = l.length then some r else none
  | _, _ => none

/-- The region of a number and a context, as its owner entries form it. -/
def Stack.region (k : Stack) (rid ctx : Nat) : Option Rect :=
  rectOf ((List.range 64).filter (fun i => (k.tile i).ownV && (k.tile i).ownRid = rid && (k.tile i).ownCtx = ctx))

/-- A region word's rectangle, if it names one (11 R241); other values of its RSV bits are ignored (00 R5). -/
def wordRect (w : Word) : Option Rect :=
  let r : Rect := ⟨bits w.toNat 0 3, bits w.toNat 3 3, bits w.toNat 6 3 + 1, bits w.toNat 9 3 + 1⟩
  if r.x + r.w ≤ 8 && r.y + r.h ≤ 8 then some r else none

/-- Stack and number of a region word. -/
def wordStack (w : Word) : Nat := bits w.toNat 12 3
/-- Region number of a region word. -/
def wordRid (w : Word) : Nat := bits w.toNat 15 6

/-- The rectangle of a region word that names a region of a context. -/
def State.wordRegion (s : State) (ctx : Nat) (w : Word) : Option Rect :=
  match wordRect w, (s.stackOf (wordStack w)).region (wordRid w) ctx with
  | some a, some b => if a = b then some a else none
  | _, _ => none

/-- The region word of a rectangle. -/
def regionWord (k rid : Nat) (r : Rect) : Word :=
  BitVec.ofNat 32 (rid * 2 ^ 15 + k * 2 ^ 12 + (r.h - 1) * 512 + (r.w - 1) * 64 + r.y * 8 + r.x)

/-! ## Node words, targets, taps, records -/

/-- NOP8 of a node word (10 R217). -/
def nwOp (w : DWord) : Nat := (w.extractLsb' 56 8).toNat
/-- GRD. -/
def nwGrd (w : DWord) : Bool := w.getLsbD 55
/-- TY. -/
def nwTy (w : DWord) : Nat := (w.extractLsb' 52 3).toNat
/-- PRM. -/
def nwPrm (w : DWord) : Bool := w.getLsbD 51
/-- SUB. -/
def nwSub (w : DWord) : Nat := (w.extractLsb' 48 3).toNat
/-- NIMM16. -/
def nwImm (w : DWord) : Nat := (w.extractLsb' 32 16).toNat
/-- TGT0 or TGT1. -/
def nwTgt (w : DWord) (p : Nat) : Nat := if p = 0 then (w.extractLsb' 16 16).toNat else (w.extractLsb' 0 16).toNat

/-- The lane type code of a node type (10 R217, 14 R306). -/
def nodeTy (n : Nat) : Nat := nth 0 [0, 1, 8, 10, 9, 6, 14, 15] n

/-- Column of a target (10 R218). -/
def tgX (t : Nat) : Nat := bits t 10 3
/-- Row. -/
def tgY (t : Nat) : Nat := bits t 13 3
/-- SLOT. -/
def tgSlot (t : Nat) : Nat := bits t 6 4
/-- POS. -/
def tgPos (t : Nat) : Nat := bits t 4 2
/-- TAPSEL. -/
def tgTap (t : Nat) : Nat := bits t 2 2
/-- MEM. -/
def tgMem (t : Nat) : Bool := t.testBit 1
/-- The tile of a target. -/
def tgTile (t : Nat) : Nat := 8 * tgY t + tgX t
/-- The input a target names. -/
def tgDest (t : Nat) : Dest := if tgMem t then .record (tgSlot t) else .node (tgSlot t) (tgPos t - 1)

/-- BAR of a tap entry (10 R219). -/
def tapBar (e : BitVec 128) : DWord := e.extractLsb' 0 64
/-- MODE of a tap entry. -/
def tapMode (e : BitVec 128) : Nat := (e.extractLsb' 64 2).toNat

/-- The fields of a stream record (10 R229); unused levels count 1 with stride 0. -/
structure Rec where
  base : DWord
  mode : Nat
  esz : Nat
  nlev : Nat
  blev : Nat
  ctap : Nat
  gate : Bool
  thr : Byte
  tgt : Nat
  cnt : List Nat
  strd : List Int
  gbar : DWord
  gph : Word
  hscl : Byte
  deriving DecidableEq, Repr

/-- The fields of a record's 64 bytes. -/
def recOf (r : BitVec 512) : Rec :=
  let nlev := (r.extractLsb' 69 2).toNat + 1
  { base := r.extractLsb' 0 64, mode := (r.extractLsb' 64 2).toNat, esz := (r.extractLsb' 66 3).toNat, nlev := nlev
    blev := (r.extractLsb' 71 2).toNat, ctap := (r.extractLsb' 73 2).toNat, gate := r.getLsbD 75, thr := r.extractLsb' 76 8
    tgt := (r.extractLsb' 96 16).toNat
    cnt := (List.range 4).map (fun i => if i < nlev then (r.extractLsb' (128 + 32 * i) 24).toNat else 1)
    strd := (List.range 4).map (fun i => if i < nlev then (r.extractLsb' (256 + 32 * i) 32).toInt else 0)
    gbar := r.extractLsb' 384 64, gph := r.extractLsb' 448 32, hscl := r.extractLsb' 480 8 }

/-- Element size in bits; 0 for the refused codes. -/
def Rec.bits (r : Rec) : Nat := nth 0 [4, 8, 16, 32, 64, 128] r.esz
/-- Elements of a burst: one iteration of level BLEV (10 R230). -/
def Rec.blen (r : Rec) : Nat := (r.cnt.take r.blev).foldl (fun a b => a * b) 1
/-- Elements of a token: those of a payload (R230), or one to an index, or to an index and data pair (R232). -/
def Rec.perToken (r : Rec) : Nat := if r.mode = 2 then 16 else if r.mode = 3 then 8 else 512 / r.bits
/-- Elements of a pass. -/
def Rec.total (r : Rec) : Nat := r.cnt.foldl (fun a b => a * b) 1
/-- Element offset of a position within a pass (10 R230). -/
def Rec.offset (r : Rec) (pos : Nat) : Int :=
  ((r.cnt.zip r.strd).foldl (fun (a : Int × Nat) cs => (a.1 + ((a.2 % cs.1 : Nat) : Int) * cs.2, a.2 / cs.1)) (0, pos)).1

/-- A tile's record, if it is not empty (11 R244). -/
def Tile.recAt (t : Tile) (n : Nat) : Option Rec :=
  let r := nth 0 t.recs n
  if r = 0 then none else some (recOf r)

/-- A tile's node word; 0 where the slot is empty. -/
def Tile.word (t : Tile) (n : Nat) : DWord := nth 0 t.nodes n

/-- A word of the parameter table. -/
def Tile.param (t : Tile) (i : Nat) : Word := nth 0 t.params i

/-- STEER with paths 2 and 3 (10 R223). -/
def isX4 (w : DWord) : Bool := nwOp w = 0xD0 && w.getLsbD 48

/-- The target of an output path; 0 where the path does not exist. -/
def Tile.path (t : Tile) (w : DWord) (p : Nat) : Nat :=
  if p < 2 then nwTgt w p
  else if isX4 w then bits (t.param (nwImm w % 256)).toNat (16 * (p - 2)) 16
  else 0

/-- The existing output paths of a node. -/
def Tile.paths (t : Tile) (w : DWord) : List Nat := (List.range 4).filter (fun p => t.path w p != 0)

/-! ## The checks of CFGWR on a tile's contents (11 R251 check 7) -/

/-- A VA field that is malformed (11 R245). -/
def badVa (v : DWord) : Bool :=
  let n := (v.extractLsb' 60 4).toNat
  8 < n || (n != 0 && v.extractLsb' 57 3 != 0)

/-- A VA field resolved with the run's bases (11 R245). -/
def resolveVa (bases : List DWord) (v : DWord) : DWord :=
  let n := (v.extractLsb' 60 4).toNat
  if n = 0 then v else nth 0 bases (n - 1) + (v.extractLsb' 0 57).setWidth 64

/-- Node types that an operation accepts (10 R217, 15 R326, and the entries of each node). -/
def nodeTypes (op : Nat) : List Nat :=
  if [0x04, 0x06, 0x07, 0x0A, 0x0B, 0x0D, 0x10, 0x12, 0x14, 0x16, 0x18, 0x1C, 0x20].contains op then [0, 1]
  else if 0x30 ≤ op && op ≤ 0x35 then [2]
  else match op with
    | 0x22 => [0, 1, 2, 3, 4, 5, 6]
    | 0x24 => [2, 3, 4]
    | 0x25 => [3, 4, 5, 6]
    | 0x26 => [3, 4, 5, 6]
    | 0x40 => [5]
    | 0x41 => [6, 7]
    | 0x42 => [5]
    | 0x43 => [1]
    | 0x44 => [0, 2]
    | 0xD0 => List.range 8
    | 0xD1 => List.range 8
    | 0xD2 => List.range 8
    | 0xD3 => List.range 7
    | 0xD4 => [0, 1, 2]
    | 0xD5 => [2, 3, 4, 5]
    | 0xD6 => [0, 1, 2]
    | 0xD7 => [3]
    | 0xD8 => [3, 4, 5, 6, 7]
    | 0xD9 => [0, 2]
    | 0xDA => [1]
    | 0xDB => [0, 1, 2]
    | 0xDC => List.range 8
    | _ => []

/-- Whether an operation accepts a SUB code with a type. -/
def subOk (op ty sub : Nat) : Bool :=
  match op with
  | 0x04 => sub ≤ 1
  | 0x06 => sub ≤ 1
  | 0x07 => sub ≤ 1
  | 0x20 => sub ≤ 6
  | 0x25 => sub < 32 / tyWidth (nodeTy ty)
  | 0x26 => sub < 32 / tyWidth (nodeTy ty)
  | 0x30 => sub ≤ 3
  | 0x31 => sub ≤ 1
  | 0x32 => sub ≤ 3
  | 0x35 => true
  | 0x40 => sub ≤ 3
  | 0x41 => sub = 0 || (sub = 1 && ty = 7)
  | 0x42 => sub ≤ 1
  | 0xD0 => sub ≤ 1
  | 0xD1 => sub ≤ 1
  | 0xD5 => sub ≤ 1
  | 0xD8 => sub = 0 || ((sub = 1 || sub = 2) && ty = 5) || (sub = 3 && ty = 6)
  | _ => sub = 0

/-- The binary and ternary operations (15 R326), which PRM may make unary. -/
def takesPrm (op : Nat) : Bool :=
  [0x04, 0x06, 0x07, 0x0A, 0x0B, 0x0D, 0x10, 0x12, 0x14, 0x16, 0x18, 0x20, 0x30, 0x31, 0x32, 0x33, 0x34, 0x35, 0x40, 0x41, 0x42,
    0x43, 0x44].contains op

/-- Whether an operation is one of the unary ones. -/
def isUnary (op : Nat) : Bool := op = 0x1C || op = 0x24 || op = 0x25 || op = 0x26

/-- Whether an operation accepts an immediate. -/
def immOk (op imm sub : Nat) (prm : Bool) : Bool :=
  match op with
  | 0x32 => prm || imm % 256 = 0
  | 0x44 => imm < 2 ^ 13 && (prm || imm % 256 = 0)
  | 0x24 => imm < 32 && imm % 16 != 15
  | 0xD0 => if sub = 1 then imm < 256 else imm = 0
  | 0xD3 => imm % 256 ≤ 240
  | 0xD4 => imm ≤ 253
  | 0xD5 => imm ≤ 248
  | 0xD8 => imm != 0
  | 0xD9 => imm < 256
  | _ => if takesPrm op then imm = 0 || (prm && imm < 256) else imm = 0

/-- Operations on which GRD is refused whatever their targets (10 R220 and the entries of the nodes). -/
def noGuard (op : Nat) : Bool := [0x22, 0x44, 0xD0, 0xD1, 0xD2, 0xD8, 0xD9, 0xDA].contains op

/-- Whether a nonzero target is one that a tile may hold (10 R218, R219). -/
def Tile.targetOk (t : Tile) (i : Nat) (region : List Nat) (g : Nat) : Bool :=
  !g.testBit 0 && tgPos g != 0 && region.contains (tgTile g)
    && (tgTap g = 0 || tapMode (nth 0 t.taps (tgTap g - 1)) != 3)
    && (!tgMem g || (tgPos g = 1 && tgSlot g < 4 && !(tgTile g = i && match t.recAt (tgSlot g) with
      | some r => r.mode = 0
      | none => false)))

/-- Whether a node slot's word obeys 10 for a tile at an index of a region. -/
def Tile.nodeOk (t : Tile) (i : Nat) (region : List Nat) (slot : Nat) : Bool :=
  let w := t.word slot
  let op := nwOp w
  let ps := t.paths w
  let tgs := ps.map (fun p => t.path w p)
  w = 0 || ((nodeTypes op).contains (nwTy w) && subOk op (nwTy w) (nwSub w) && immOk op (nwImm w) (nwSub w) (nwPrm w)
    && (!nwPrm w || takesPrm op)
    && (!nwGrd w || (!noGuard op && (op = 0xDC || tgs.any (fun g => tgMem g || tgTap g != 0))))
    && tgs.all (fun g => t.targetOk i region g)
    && (op != 0x24 || cvtfLegal (nodeTy (nwTy w)) (nwImm w % 16) (nwImm w / 16))
    && (op != 0xDC || tgs.isEmpty)
    && (op != 0xDA || (nwTgt w 1 = 0 && tgMem (nwTgt w 0) && tgTile (nwTgt w 0) = i && match t.recAt (tgSlot (nwTgt w 0)) with
      | some r => 2 ≤ r.mode
      | none => false))
    && (op != 0xD8 || (List.range slot).all (fun n => nwOp (t.word n) != 0xD8))
    && (op != 0xD9 || ((List.range (slot + 1)).foldl (fun a n => if nwOp (t.word n) = 0xD9 then a + nwImm (t.word n) + 1 else a) 0 ≤ 256)))

/-- Whether a stride of a record's 64 bytes is odd, be its level used or not (10 R229). -/
def oddStride (r : BitVec 512) : Bool := (List.range 4).any (fun i => r.getLsbD (256 + 32 * i))

/-- Whether a stream record obeys 10 R229, R232, R233. -/
def Tile.recOk (t : Tile) (i : Nat) (region : List Nat) (n : Nat) : Bool :=
  match t.recAt n with
  | none => true
  | some r =>
    let feeds := ((List.range 16).map (fun (k : Nat) => (t.paths (t.word k)).map (fun p => (nwOp (t.word k), t.path (t.word k) p)))).flatten
    let mine := feeds.filter (fun og => tgMem og.2 && tgTile og.2 = i && tgSlot og.2 = n)
    !badVa r.base && !badVa r.gbar && r.bits != 0 && r.blev < r.nlev && (r.cnt.take r.nlev).all (fun c => c != 0)
    && r.blen ≤ 65536 * r.perToken
    && (r.esz != 0 || 2 ≤ r.mode || (!r.base.getLsbD 0 && !oddStride (nth 0 t.recs n)))
    && (r.bits ≤ 8 || r.base.toNat % (r.bits / 8) = 0)
    && (!r.gate || r.gbar.toNat % 16 = 0)
    && (r.ctap = 0 || tapMode (nth 0 t.taps (r.ctap - 1)) = 3 || tapMode (nth 0 t.taps (r.ctap - 1)) = 0)
    && (if r.mode = 0 || r.mode = 2 then r.tgt = 0 || t.targetOk i region r.tgt else r.tgt = 0)
    && (r.mode != 2 || (r.tgt != 0 && !tgMem r.tgt && (tgTile r.tgt != i || nwOp (t.word (tgSlot r.tgt)) = 0xDB)
        && mine.any (fun og => og.1 = 0xDA) && mine.all (fun og => og.1 = 0xDA)))
    && (r.mode != 3 || r.bits ≤ 32)

/-- Whether a tap entry obeys 10 R219 and 11 R245. -/
def Tile.tapOk (t : Tile) (n : Nat) : Bool :=
  let e := nth 0 t.taps n
  !badVa (tapBar e) && (tapMode e = 0 || (tapBar e).toNat % 16 = 0)

/-- The parameter words that a node's entry checks (16 R358, 17 R376). -/
def Tile.paramOk (t : Tile) (slot : Nat) : Bool :=
  let w := t.word slot
  let n := (t.param (nwImm w + 2)).toNat
  (nwOp w != 0xD4 || (1 ≤ n && n ≤ 2 ^ 20))
    && (nwOp w != 0xD5 || genValid (genOfWords ((List.range 8).map (fun i => t.param (nwImm w + i)))))

/-- The lowest item that check 7 refuses: slots 0 to 15, records 16 to 19, taps 20 to 22, parameters 23 (11 R249). -/
def Tile.badItem (t : Tile) (i : Nat) (region : List Nat) : Option Nat :=
  ((List.range 16).find? (fun n => !t.nodeOk i region n)).or
    ((((List.range 4).find? (fun n => !t.recOk i region n)).map (fun n => 16 + n)).or
      ((((List.range 3).find? (fun n => !t.tapOk n)).map (fun n => 20 + n)).or
        (if (List.range 16).any (fun n => !t.paramOk n) then some 23 else none)))

/-! ## Tile blocks (11 R244) -/

/-- NSLOT of a block's first word. -/
def blkSlots (ws : List DWord) : Nat := ((nth 0 ws 0).extractLsb' 8 8).toNat
/-- NREC. -/
def blkRecs (ws : List DWord) : Nat := ((nth 0 ws 0).extractLsb' 16 8).toNat
/-- NPARAM. -/
def blkParams (ws : List DWord) : Nat := ((nth 0 ws 0).extractLsb' 32 16).toNat
/-- The CRC field. -/
def blkCrc (ws : List DWord) : Nat := ((nth 0 ws 1).extractLsb' 0 32).toNat

/-- Whether a block's count fields are in range. -/
def blkCountsOk (ws : List DWord) : Bool := blkSlots ws ≤ 16 && blkRecs ws ≤ 4 && blkParams ws ≤ 256

/-- Length of a block in words. -/
def blkLen (ws : List DWord) : Nat := 3 + blkSlots ws + 6 + 8 * blkRecs ws + (blkParams ws + 1) / 2

/-- The number that n words from one on form, the first lowest. -/
def wordsAt (ws : List DWord) (at_ n : Nat) : Nat :=
  ((List.range n).map (fun (i : Nat) => (nth 0 ws (at_ + i)).toNat * 2 ^ (64 * i))).foldl (fun a b => a + b) 0

/-- The contents that a CFGWR of count 0 leaves in a tile (11 R251): the owner entry and the counters stay. -/
def Tile.erase (t : Tile) : Tile :=
  { Tile.blank with ownV := t.ownV, ownCtx := t.ownCtx, ownRid := t.ownRid, drops := t.drops, ecc := t.ecc }

/-- A tile with a block's contents. -/
def Tile.load (t : Tile) (ws : List DWord) : Tile :=
  let ns := blkSlots ws
  let nr := blkRecs ws
  let pb := 9 + ns + 8 * nr
  { t.erase with
    loaded := true
    words := ws
    domains := nth 0 ws 2
    nodes := (List.range 16).map (fun i => if i < ns then nth 0 ws (3 + i) else 0)
    taps := (List.range 3).map (fun i => BitVec.ofNat 128 (wordsAt ws (3 + ns + 2 * i) 2))
    recs := (List.range 4).map (fun i => if i < nr then BitVec.ofNat 512 (wordsAt ws (9 + ns + 8 * i) 8) else 0)
    params := (List.range (blkParams ws)).map (fun i => (nth 0 ws (pb + i / 2)).extractLsb' (32 * (i % 2)) 32) }

/-- Adds to a list of places without repetition. -/
def addOnce (l : List (Nat × Nat)) (x : Nat × Nat) : List (Nat × Nat) := if l.contains x then l else l ++ [x]

/-- The target fields of a block, as word and bit (11 R244); only those whose POS is not 00 are placed. -/
def blkTargets (ws : List DWord) : List (Nat × Nat) :=
  let ns := blkSlots ws
  let nr := blkRecs ws
  let pb := 9 + ns + 8 * nr
  let nodes := ((List.range ns).map (fun n => [(3 + n, 16), (3 + n, 0)])).flatten
  let recs := ((List.range nr).map (fun n =>
    let m := bits (nth 0 ws (10 + ns + 8 * n)).toNat 0 2
    if m = 0 || m = 2 then [(10 + ns + 8 * n, 32)] else [])).flatten
  let steers := ((List.range ns).map (fun n =>
    let w := nth 0 ws (3 + n)
    let i := nwImm w % 256
    if isX4 w && i < blkParams ws then [(pb + i / 2, 32 * (i % 2)), (pb + i / 2, 32 * (i % 2) + 16)] else [])).flatten
  ((nodes ++ recs ++ steers).foldl addOnce []).filter (fun p => bits (nth 0 ws p.1).toNat (p.2 + 4) 2 != 0)

/-- Replaces the 16-bit field of a word. -/
def setField (ws : List DWord) (p : Nat × Nat) (v : Nat) : List DWord :=
  setNth ws p.1 ((nth 0 ws p.1 &&& ~~~(0xFFFF#64 <<< p.2)) ||| (BitVec.ofNat 64 (v % 2 ^ 16) <<< p.2))

/-- A block placed: every target's column and row advanced, modulo 8 (11 R246). -/
def place (ws : List DWord) (dx dy : Nat) : List DWord :=
  (blkTargets ws).foldl (fun ws p =>
    let t := bits (nth 0 ws p.1).toNat p.2 16
    setField ws p (t % 2 ^ 10 + ((tgX t + dx) % 8) * 2 ^ 10 + ((tgY t + dy) % 8) * 2 ^ 13)) ws

/-- One bit of CRC-32C. -/
def crcStep (c : Nat) : Nat := if c % 2 = 1 then (c / 2) ^^^ 0x82F63B78 else c / 2

/-- CRC-32C of bytes, from the initial value to the final inversion. -/
def crc32c (l : List Byte) : Nat :=
  (l.foldl (fun c b => (List.range 8).foldl (fun c _ => crcStep c) (c ^^^ b.toNat)) 0xFFFFFFFF) ^^^ 0xFFFFFFFF

/-- The bytes of words, least significant first. -/
def wordBytes (ws : List DWord) : List Byte := (ws.map (fun w => toBytes 8 w.toNat)).flatten

/-- The CRC of a block: the CRC field and every placed target's column and row taken as zero (11 R244). -/
def blockCrc (ws : List DWord) : Nat :=
  let z := (blkTargets ws).foldl (fun ws p => setField ws p (bits (nth 0 ws p.1).toNat p.2 10)) ws
  crc32c (wordBytes (setNth z 1 (nth 0 z 1 &&& 0xFFFFFFFF00000000#64)))

end Sys2Proof.Machine
end

