-- ==== Sys2Proof/Machine/Tokens.lean ====
section
/-! DEFINITION. Tokens between tiles (spec 10 R212 to R219, R235): arcs, domains, sending with taps, queues, arrival and
the Baton; the run's status word (11 R258); completion taps (10 R231) and containment (11 R263); refresh (R238). -/

namespace Sys2Proof.Machine

/-! ## The run's counters (11 R258) -/

/-- The run as it stands now. -/
def State.now (s : State) (k : Nat) (r : FabRun) : FabRun := ((s.stackOf k).run r.rid r.slot).getD r

/-- FTILE of a tile. -/
def ftileOf (i : Nat) : Byte := BitVec.ofNat 8 (0x80 + i)

/-- The first fault is recorded; later ones are not (11 R258). -/
def State.recordErr (s : State) (k : Nat) (r : FabRun) (err i : Nat) : State :=
  s.updRun k r (fun r => if r.err = 0 then { r with err := err, ftile := ftileOf i } else r)

/-- Length mismatches are counted, wrapping. -/
def State.mismatched (s : State) (k : Nat) (r : FabRun) (n : Nat) : State :=
  s.updRun k r (fun r => { r with mismatch := r.mismatch + BitVec.ofNat 32 n })

/-! ## Arcs and domains -/

/-- An arc: its source, output path and target field. -/
structure Arc where
  src : Source
  path : Nat
  tgt : Nat
  deriving DecidableEq, Repr

/-- The node slots of a tile that hold a word. -/
def Tile.slots (t : Tile) : List Nat := (List.range 16).filter (fun n => t.word n != 0)

/-- Whether a record sends tokens: READ or GATHER. -/
def Rec.sends (r : Rec) : Bool := r.mode = 0 || r.mode = 2
/-- Whether a record writes memory. -/
def Rec.writes (r : Rec) : Bool := r.mode = 1 || r.mode = 3

/-- The records of a tile that are not empty. -/
def Tile.recList (t : Tile) : List (Nat × Rec) := (List.range 4).filterMap (fun n => (t.recAt n).map (fun r => (n, r)))

/-- The arcs that start in a tile. -/
def Tile.arcs (t : Tile) (i : Nat) : List Arc :=
  let nodes := (t.slots.map (fun n => (t.paths (t.word n)).map (fun p =>
    (⟨.node (i % 8) (i / 8) n, p, t.path (t.word n) p⟩ : Arc)))).flatten
  let recs := t.recList.filterMap (fun nr =>
    if nr.2.sends && nr.2.tgt != 0 then some (⟨.record (i % 8) (i / 8) nr.1, 0, nr.2.tgt⟩ : Arc) else none)
  nodes ++ recs

/-- The arcs of a run's graph. -/
def Stack.arcs (k : Stack) (r : FabRun) : List Arc := (r.tiles.map (fun i => (k.tile i).arcs i)).flatten

/-- The domain of a node slot (11 R244). -/
def Tile.domain (t : Tile) (n : Nat) : Nat := bits t.domains.toNat (4 * n) 4

/-- The domain of a stream record: that of the node its TGT names, or of every node that targets it; 0 where these
place it in two domains or none (11 R263). -/
def Stack.recDomain (k : Stack) (r : FabRun) (i n : Nat) : Nat :=
  match (k.tile i).recAt n with
  | none => 0
  | some rc =>
    if rc.sends then
      if rc.tgt != 0 && !tgMem rc.tgt then (k.tile (tgTile rc.tgt)).domain (tgSlot rc.tgt) else 0
    else
      let ds := (k.arcs r).filterMap (fun a => match a.src with
        | .node x y sl => if tgMem a.tgt && tgTile a.tgt = i && tgSlot a.tgt = n then some ((k.tile (8 * y + x)).domain sl) else none
        | .record _ _ _ => none)
      match ds with
      | [] => 0
      | d :: t => if t.all (fun e => e = d) then d else 0

/-- The domain of an arc's source. -/
def Stack.srcDomain (k : Stack) (r : FabRun) : Source → Nat
  | .node x y n => (k.tile (8 * y + x)).domain n
  | .record x y n => k.recDomain r (8 * y + x) n

/-- The domain of an input. -/
def Stack.destDomain (k : Stack) (r : FabRun) (i : Nat) : Dest → Nat
  | .node n _ => (k.tile i).domain n
  | .record n => k.recDomain r i n

/-- Whether a domain of a run is sealed. -/
def FabRun.isSealed (r : FabRun) (d : Nat) : Bool := r.sealed_.getLsbD d

/-- The domains that hold a node or a record of the run. -/
def Stack.domains (k : Stack) (r : FabRun) : List Nat :=
  let ds := (r.tiles.map (fun (i : Nat) => (k.tile i).slots.map (fun n => (k.tile i).domain n)
    ++ (k.tile i).recList.map (fun nr => k.recDomain r i nr.1))).flatten
  (List.range 16).filter (fun d => ds.contains d)

/-! ## Queues (10 R211, R235) -/

/-- The key of an input's queue. -/
def destKey : Dest → Nat
  | .node n p => 3 * n + p
  | .record r => 48 + r

/-- The tokens in an input's edge buffer. -/
def Tile.queue (t : Tile) (q : Nat) : List Token := lookD [] t.edges q

/-- Replaces the tokens of an input. -/
def Tile.setQueue (t : Tile) (q : Nat) (l : List Token) : Tile :=
  { t with edges := if l = [] then del t.edges q else put t.edges q l }

/-- Appends a token to an input; the arrival of a burst's head at MERGE is noted (10 R223). -/
def Tile.push (t : Tile) (q : Nat) (tok : Token) : Tile :=
  let t := t.setQueue q (t.queue q ++ [tok])
  if q < 48 && q % 3 < 2 && tok.h && nwOp (t.word (q / 3)) = 0xD1 then
    let d := t.nodeSt (q / 3)
    t.setNode (q / 3) { d with arrived := d.arrived ++ [q % 3] }
  else t

/-- The escape token moves into the next free entry of its edge buffer (10 R235). -/
def Tile.settle (t : Tile) : Tile :=
  match t.escape with
  | some (q, tok) => if (t.queue q).length < 8 then { t.push q tok with escape := none } else t
  | none => t

/-- The token at the head of an input, and the tile without it. -/
def Tile.pop (t : Tile) (q : Nat) : Option (Token × Tile) :=
  match t.queue q with
  | [] => none
  | tok :: rest => some (tok, (t.setQueue q rest).settle)

/-! ## Sending -/

/-- Whether an arc has credit for one token: fewer than eight of its tokens are in the mesh. -/
def Stack.credit (k : Stack) (src : Source) (p : Nat) : Bool :=
  decide ((k.flights.filter (fun f => f.src = src && f.path = p)).length < 8)

/-- An arrival of count 1 that a tap makes (10 R219): the state, and whether it faulted (05 R118). -/
def State.tapArrive (s : State) (k : Nat) (r : FabRun) (bar : DWord) : State × Bool :=
  let va := resolveVa r.bases bar
  if va.toNat % 16 != 0 then (s, true)
  else match s.translate (.die (k / 4)) r.ctx va needRw with
  | (s, .error _) => (s, true)
  | (s, .ok t) => match s.arrive (k / 4) r.ctx t 1 with
    | .done s => (s, false)
    | .barfault s => (s, true)
    | .poison s => (s, true)

/-- A tap entry of a tile fires; a fault is recorded and changes nothing else (10 R219). -/
def State.fireTap (s : State) (k : Nat) (r : FabRun) (i n : Nat) : State :=
  match s.tapArrive k r (tapBar (nth 0 (s.tile k i).taps n)) with
  | (s, false) => s
  | (s, true) => s.recordErr k r 6 i

/-- Sends a token on an arc from a tile, and fires the arc's tap (10 R219, R220). A drain token fires none. -/
def State.send (s : State) (k : Nat) (r : FabRun) (i : Nat) (a : Arc) (tok : Token) : State :=
  let f : Flight := ⟨a.src, a.path, tgX a.tgt, tgY a.tgt, tgDest a.tgt, tok, false⟩
  let s := s.updStack k (fun st => { st with flights := st.flights ++ [f] })
  if tgTap a.tgt = 0 || tok.d then s
  else
    let m := tapMode (nth 0 (s.tile k i).taps (tgTap a.tgt - 1))
    if m = 1 || (m = 2 && tok.t) then s.fireTap k r i (tgTap a.tgt - 1) else s

/-- A drain token of a context (10 R212). -/
def drainToken (ctx : Nat) : Token := { (default : Token) with d := true, ctx := BitVec.ofNat 8 ctx, scl := 127 }

/-- A tail with E (10 R214): sideband of a token, H and SEQ as the open burst of the arc has them (R213). -/
def errTail (tok : Token) (code sent : Nat) : Token :=
  { tok with d := false, e := true, t := true, h := sent = 0, seq := BitVec.ofNat 16 sent, val := 0, payload := BitVec.ofNat 512 code }

/-- A token with the sideband of a context and nothing else. -/
def plainToken (ctx : Nat) : Token := { (default : Token) with ctx := BitVec.ofNat 8 ctx, scl := 127, val := 32 }

/-! ## Completion taps (10 R231, 07 R161, 11 R263) -/

/-- The writing records of a run: tile, record, passes done, whether its domain is sealed, and CTAP. -/
def Stack.writers (k : Stack) (r : FabRun) : List (Nat × Nat × Nat × Bool × Nat) :=
  (r.tiles.map (fun (i : Nat) => ((k.tile i).recList.filter (fun nr => nr.2.writes)).map (fun nr =>
    (i, nr.1, ((k.tile i).stream nr.1).passes, r.isSealed (k.recDomain r i nr.1), nr.2.ctap)))).flatten

/-- Fires every completion entry that a writing record names, once; it ends fabric ownership (07 R159, R161). A disabled entry
that a record names is no completion tap. -/
def State.fireCompletion (s : State) (k : Nat) (r : FabRun) : State :=
  let named := ((s.stackOf k).writers r).filterMap (fun w => if w.2.2.2.2 = 0 then none else some (w.1, w.2.2.2.2 - 1))
  let taps := (named.foldl addOnce []).filter (fun en => tapMode (nth 0 (s.tile k en.1).taps en.2) = 3)
  let s := taps.foldl (fun s en => s.fireTap k r en.1 en.2) s
  if taps = [] then s else s.updRun k r (fun r => { r with owned := [], ownOver := true })

/-- Fires the completion taps of n passes. -/
def State.firePasses (k : Nat) (r : FabRun) : Nat → State → State
  | 0, s => s
  | n + 1, s => State.firePasses k r n ((s.updRun k r (fun r => { r with tapped := r.tapped + 1 })).fireCompletion k r)

/-- Completion taps that are due: for every pass that each unsealed writing record has completed; once more when all of
them are sealed (10 R231, 11 R263). -/
def State.completeTaps (s : State) (k : Nat) (r : FabRun) : State :=
  let ws := (s.stackOf k).writers (s.now k r)
  match minNat ((ws.filter (fun w => !w.2.2.2.1)).map (fun w => w.2.2.1)) with
  | some p =>
    let s := s.updRun k r (fun r => { r with slowest := BitVec.ofNat 32 p })
    State.firePasses k r (p - (s.now k r).tapped) s
  | none =>
    if ws = [] || (s.now k r).tapEnd then s
    else State.firePasses k r 1 (s.updRun k r (fun r => { r with tapEnd := true }))

/-! ## Containment (11 R263) -/

/-- Whether the elements of loop levels from an element on touch bytes [lo, lo + 64) of the VA space. -/
def reaches (base : Int) (size : Int) (lo : Int) : List (Nat × Int) → Int → Bool
  | [], off => decide (base + off * size / 8 < lo + 64) && decide (lo < base + (off * size + size + 7) / 8)
  | (c, st) :: rest, off => (List.range c).any (fun i => reaches base size lo rest (off + (i : Int) * st))

/-- Whether a line of a VA lies in a record's address range (11 R263): all of its footprint for a GATHER or SCATTER. -/
def Rec.covers (rc : Rec) (bases : List DWord) (line : Nat) : Bool :=
  2 ≤ rc.mode || reaches (resolveVa bases rc.base).toNat rc.bits (64 * line : Nat) (rc.cnt.zip rc.strd) 0

/-- Ends fabric ownership of the lines that only newly sealed writing records reach (11 R263). -/
def Stack.endOwned (k : Stack) (r : FabRun) : List Owned :=
  let ws := (k.writers r).filterMap (fun w => ((k.tile w.1).recAt w.2.1).map (fun rc => (rc, w.2.2.2.1)))
  let lines := (r.owned.map (fun (o : Owned) => (List.range (o.len / 64)).map (fun (j : Nat) =>
    ({ va := o.va + 64 * j, pa := o.pa + 64 * j, len := 64 } : Owned)))).flatten
  lines.filter (fun o =>
    !(ws.any (fun w => w.2 && w.1.covers r.bases (o.va / 64)) && !ws.any (fun w => !w.2 && w.1.covers r.bases (o.va / 64))))

/-- The domain of the input with a queue key. -/
def Stack.keyDomain (k : Stack) (r : FabRun) (i q : Nat) : Nat := if q < 48 then (k.tile i).domain (q / 3) else k.recDomain r i (q - 48)

/-- The sealed domains of a run to which a node slot or a record of a tile belongs (11 R263). -/
def Stack.sealedIn (k : Stack) (r : FabRun) (i : Nat) : BitVec 16 :=
  let t := k.tile i
  let here := t.slots.map (fun n => t.domain n) ++ t.recList.map (fun nr => k.recDomain r i nr.1)
  r.sealed_ &&& here.foldl (fun m d => m ||| (1#16 <<< d)) 0

/-- A tile whose nodes and records of sealed domains hold nothing, and which keeps that they are sealed until it is next loaded. -/
def Stack.clearSealed (k : Stack) (r : FabRun) (i : Nat) : Stack :=
  let t := k.tile i
  let esc := t.escape.filter (fun e => !r.isSealed (k.keyDomain r i e.1))
  let gone := t.slots.filter (fun n => r.isSealed (t.domain n))
  let recs := (t.recList.map (fun nr => nr.1)).filter (fun n => r.isSealed (k.recDomain r i n))
  let t := gone.foldl (fun (t : Tile) n =>
    { t with node := setNth t.node n { NodeSt.blank with cnt := (t.nodeSt n).cnt }
             edges := del (del (del t.edges (3 * n)) (3 * n + 1)) (3 * n + 2) }) t
  let t := recs.foldl (fun (t : Tile) n => { t with edges := del t.edges (48 + n) }) t
  k.updTile i (fun _ => { t with escape := esc, sealedDoms := t.sealedDoms ||| k.sealedIn r i })

/-- The code in an E tail. -/
def Token.code (t : Token) : Nat := t.payload.toNat % 256

/-- Lane of a payload. -/
def Token.lane (t : Token) (i : Nat) : Nat := (t.payload.extractLsb' (32 * i) 32).toNat

/-! ## The watchdog's count (10 R237, R239) -/

/-- Elements still to fetch for a READ token or a GATHER token: their offsets, in order. -/
def readOffsets (rc : Rec) (d : StreamSt) (head : Option Token) : List Int :=
  match head with
  | some tok => ((List.range ((tok.val + 1) / 2)).drop d.buf.length).map (fun j => (tok.lane j : Int))
  | none =>
    let room := 512 / rc.bits - d.buf.length
    let left := if d.buf != [] && d.pos % rc.blen = 0 then 0 else rc.blen - d.pos % rc.blen
    (List.range (if room < left then room else left)).map (fun (j : Nat) => rc.offset (d.pos + j))

/-- The elements of a token that remain to be written: value and element offset, none past the burst's last address
(10 R230); for SCATTER the data and index of each lane pair (R232). -/
def writeElems (rc : Rec) (d : StreamSt) (tok : Token) : List (Nat × Option Int) :=
  if rc.mode = 3 then
    ((List.range ((tok.val + 3) / 4)).drop d.ti).map (fun j => (tok.lane (2 * j + 1), some (tok.lane (2 * j) : Int)))
  else
    let n := tok.val * 16 / rc.bits
    ((List.range n).drop d.ti).map (fun (j : Nat) =>
      let e := d.bi + (j - d.ti)
      ((tok.payload.extractLsb' (rc.bits * j) rc.bits).toNat, if e < rc.blen then some (rc.offset (d.pos + e)) else none))

/-- Whether a record of a run has a command of its channel pending (10 R239): elements to read, elements of a token at its input to
write, poison to mark, or writes on their way to the banks. A full assembly buffer, an owed E tail and a drained record ask nothing
of the channel. -/
def Tile.commanding (r : FabRun) (t : Tile) (nr : Nat × Rec) : Bool :=
  let d := t.stream nr.1
  let rc := nr.2
  d.phase = .active && !d.drained && match rc.mode, t.queue (48 + nr.1) with
    | 0, _ => !d.etail && readOffsets rc d none != [] && !(r.st = .draining && d.seq = 0 && d.buf = [])
    | 2, [] => false
    | 2, tok :: _ => !d.etail && !tok.e && readOffsets rc d (some tok) != []
    | _, [] => d.passEnd
    | _, tok :: _ => d.passEnd || (if tok.e then tok.code = 2 && d.touched != [] else (writeElems rc d tok).any (fun e => e.2.isSome))

/-- The records of a tile with a command pending, in unsealed domains of the run that moves on it. -/
def Stack.busyRecs (k : Stack) (r : FabRun) (i : Nat) : List (Nat × Rec) :=
  (k.tile i).recList.filter (fun nr => (k.tile i).commanding r nr && !r.isSealed (k.recDomain r i nr.1))

/-- Whether a watchdog count runs in a tile: a command is pending (10 R239). -/
def Stack.counting (k : Stack) (i : Nat) : Bool :=
  match k.activeAt i with
  | some r => k.busyRecs r i != []
  | none => false

/-- Ends the watchdog counts of a stack's tiles in which no command is pending any more: the next count of such a tile is under FBCTL as
it stands when it starts (10 R237). -/
def Stack.settleCounts (k : Stack) : Stack :=
  (List.range 64).foldl (fun (st : Stack) i =>
    if (k.tile i).wdKept.isSome && !k.counting i then st.updTile i (fun t => { t with wdKept := none }) else st) k

/-- Whether an arc's open burst has sent tokens: how many. -/
def Stack.sentOn (k : Stack) (a : Arc) : Nat :=
  match a.src with
  | .node x y n => nth 0 ((k.tile (8 * y + x)).nodeSt n).nseq a.path
  | .record x y n => ((k.tile (8 * y + x)).stream n).seq

/-- The tile of a source. -/
def srcTile : Source → Nat
  | .node x y _ => 8 * y + x
  | .record x y _ => 8 * y + x

/-- A run becomes DONE: its fabric ownership ends (11 R257). -/
def State.runDone (s : State) (k : Nat) (r : FabRun) : State := s.updRun k r (fun r => { r with st := .done, owned := [] })

/-- Absorbs every token on its way to a run's tiles (11 R263). -/
def State.absorbAll (s : State) (k : Nat) (r : FabRun) : State :=
  s.updStack k (fun st => { st with flights := st.flights.filter (fun f => !r.tiles.contains (8 * f.y + f.x)) })

/-- Seals domains of a run for a fault at a tile (11 R263): the first fault is recorded, leaving arcs get SEALED, what
the domains hold is dropped, ownership ends in part, completion taps follow, and a RUNNING run whose every domain is
sealed is DONE, with what is still in the mesh absorbed. A SEALED tail has THR 0 and SCL 127 whatever the open burst carried (DESIGN
CHOICE, log entry 85). -/
def State.seal (s : State) (k : Nat) (r : FabRun) (doms : List Nat) (err i : Nat) : State :=
  let s := s.recordErr k r err i
  let st0 := s.stackOf k
  let r0 := s.now k r
  let new := doms.filter (fun d => !r0.isSealed d)
  let r1 := { r0 with sealed_ := new.foldl (fun m d => m ||| (1#16 <<< d)) r0.sealed_ }
  let leave := (st0.arcs r0).filter (fun a => new.contains (st0.srcDomain r0 a.src)
    && !r1.isSealed (st0.destDomain r0 (tgTile a.tgt) (tgDest a.tgt)))
  let s := s.updRun k r (fun _ => r1)
  let s := leave.foldl (fun s a => s.send k r (srcTile a.src) a (errTail (plainToken r.ctx) 4 (st0.sentOn a))) s
  let s := s.updStack k (fun st => r.tiles.foldl (fun st i => st.clearSealed r1 i) st)
  let s := s.updStack k (fun st => st.updRun r.rid r.slot (fun x => { x with owned := st.endOwned x }))
  let s := s.completeTaps k r
  let r2 := s.now k r
  let s := if r2.st = .running && ((s.stackOf k).domains r2).all r2.isSealed then (s.runDone k r).absorbAll k r else s
  s.updStack k Stack.settleCounts

/-- A tile fault seals every domain with a node in the tile, and the domains of the items that failed (11 R263). -/
def State.tileFault (s : State) (k : Nat) (r : FabRun) (err i : Nat) (items : List Nat) : State :=
  let t := s.tile k i
  s.seal k r (t.slots.map (fun n => t.domain n) ++ items) err i

/-! ## Arrival and the Baton (10 R215, R235) -/

/-- Whether a flight is the first of its arc in the mesh. -/
def firstOfArc (l : List Flight) (ix : Nat) (f : Flight) : Bool := (l.take ix).all (fun g => !(g.src = f.src && g.path = f.path))

/-- Whether a channel of some tiles counts a stream reply for a context: one that is on its way (10 R216). -/
def Stack.replies (k : Stack) (ctx : Nat) (tiles : List Nat) : Bool :=
  k.flights.any (fun f => f.tok.ctx.toNat = ctx && (match f.src with
    | .record x y _ => tiles.contains (8 * y + x)
    | .node _ _ _ => false))

/-- Removes a token from the mesh; a killed region whose channels count no more replies is forgotten (10 R216). -/
def State.dropFlight (s : State) (k ix : Nat) : State :=
  s.updStack k (fun st =>
    let st : Stack := { st with flights := dropNth st.flights ix }
    { st with released := st.released.filter (fun l => st.replies l.1 l.2) })

/-- The columns or rows that a token enters on its way from one to another. -/
def meshSteps (a b : Nat) : List Nat :=
  if a ≤ b then (List.range (b - a)).map (fun i => a + i + 1) else (List.range (a - b)).map (fun i => a - i - 1)

/-- The input ports of switches that a token passes, in dimension order (10 R235): the local port (4) of its own, then those from
the west or east (3, 2) along X, then those from the north or south (0, 1) along Y. -/
def Flight.route (f : Flight) : List (Nat × Nat) :=
  let i := srcTile f.src
  (i, 4) :: ((meshSteps (i % 8) f.x).map (fun x => (8 * (i / 8) + x, if i % 8 ≤ f.x then 3 else 2))
    ++ (meshSteps (i / 8) f.y).map (fun y => (8 * y + f.x, if i / 8 ≤ f.y then 0 else 1)))

/-- The port of its destination's switch at which a token waits. -/
def Flight.port (f : Flight) : Nat × Nat := f.route.getLastD (0, 4)

/-- Whether a token stands behind one that a full edge buffer holds, on a port of its way (10 R235). -/
def blockedAt (l : List Flight) (ix : Nat) (f : Flight) : Bool := !f.held && (l.take ix).any (fun g => g.held && f.route.contains g.port)

/-- Keeps a token in its destination's switch. -/
def State.holdFlight (s : State) (k ix : Nat) : State :=
  s.updStack k (fun st => { st with flights := match st.flights[ix]? with
    | some f => setNth st.flights ix { f with held := true }
    | none => st.flights })

/-- TOKEN_ARRIVE (10 R215, R235): the first token of an arc reaches its input, unless one that a full edge buffer holds stands before
it on a port. A token of another context is dropped and counted, a sealed domain absorbs it, a drain token leaves its mark, and a
full edge buffer holds it in its switch. -/
def execTokenArrive (k ix : Nat) (s : State) : Out :=
  let st := s.stackOf k
  match st.flights[ix]? with
  | none => .next s
  | some f =>
    let i := 8 * f.y + f.x
    let t := st.tile i
    let q := destKey f.dest
    if !firstOfArc st.flights ix f || blockedAt st.flights ix f then .next s
    else if !t.ownV || BitVec.ofNat 8 t.ownCtx != f.tok.ctx then
      let s := (s.dropFlight k ix).updTile k i (fun t => { t with drops := t.drops + 1 })
      match st.holderAt i with
      | some r => .next (s.updRun k r (fun r => { r with dropped := r.dropped + 1 }))
      | none => .next s
    else if (match st.activeAt i with
        | some r => r.isSealed (st.destDomain r i f.dest)
        | none => false) then .next (s.dropFlight k ix)
    else if f.tok.d then
      .next ((s.dropFlight k ix).updTile k i (fun t => { t with dmarks := t.dmarks ++ [(q, f.src, f.path)] }))
    else if 8 ≤ (t.queue q).length then .next (s.holdFlight k ix)
    else .next ((s.dropFlight k ix).updTile k i (fun t => t.push q f.tok))

/-- BATON_ESCAPE (10 R235): a packet that a full edge buffer holds in its switch moves to its destination's empty escape buffer. The
Baton passes every switch within 64 clocks, so its place decides only when, as the threshold does (log entry 79). -/
def execBatonEscape (k ix : Nat) (s : State) : Out :=
  let st := s.stackOf k
  match st.flights[ix]? with
  | none => .next s
  | some f =>
    let i := 8 * f.y + f.x
    let t := st.tile i
    match st.activeAt i with
    | none => .next s
    | some r =>
      if f.held && firstOfArc st.flights ix f && t.ownV && BitVec.ofNat 8 t.ownCtx = f.tok.ctx && !f.tok.d
          && !r.isSealed (st.destDomain r i f.dest) && 8 ≤ (t.queue (destKey f.dest)).length && t.escape.isNone then
        .next ((s.dropFlight k ix).updTile k i (fun t => { t with escape := some (destKey f.dest, f.tok) }))
      else .next s

/-! ## Refresh (10 R238) -/

/-- The run that moves on a tile, if any. -/
def State.moving (s : State) (k i : Nat) : Option FabRun := (s.stackOf k).activeAt i

/-- BANK_REFRESH (10 R238): a bank that refreshes queues the command it missed, up to 16. -/
def execBankRefresh (t : TileId) (bank : Nat) (s : State) : Out :=
  .next (s.updTile t.stack (tileIx t) (fun x =>
    let n := lookD 0 x.catchup bank
    if n < 16 then { x with catchup := put x.catchup bank (n + 1) } else x))

/-- Every catch-up queue replays one command. -/
def Tile.drainCatchup (t : Tile) : Tile :=
  { t with catchup := (t.catchup.map (fun bn => (bn.1, bn.2 - 1))).filter (fun bn => bn.2 != 0) }

end Sys2Proof.Machine
end

