-- ==== Sys2Proof/Machine/Nodes.lean ====
section
/-! DEFINITION. The firing rules of fabric nodes (spec 10 R220 to R228, R233, R259): one event of a node slot sends what it
owes, discards the rest of an unequal input, sends an owed E tail, fires, or forwards drain. -/

namespace Sys2Proof.Machine

/-! ## What a firing does -/

/-- A firing: the tile after it, flags for MXFL, and counts of mismatches and NaN keys. -/
structure Fire where
  tile : Tile
  mx : Flags
  mism : Nat
  nan : Nat

/-- A firing that counts nothing. -/
def fire (t : Tile) : Option Fire := some ⟨t, 0, 0, 0⟩

/-- What a body of a node needs to know beside its tile: slot, node word, run, and whether arcs feed L. -/
structure NodeCtx where
  n : Nat
  w : DWord
  run : FabRun
  fedL : Bool

/-- All output paths. -/
def allPaths : Nat := 15

/-- Appends a result to what a node will send. -/
def NodeSt.give (d : NodeSt) (paths : Nat) (tok : Token) : NodeSt := { d with out := d.out ++ [(paths, tok)] }

/-- Tokens at the heads of input positions, taken from their queues; none where one is missing. -/
def Tile.popAll (t : Tile) (n : Nat) : List Nat → Option (List Token × Tile)
  | [] => some ([], t)
  | p :: ps => match t.pop (3 * n + p) with
    | none => none
    | some (tok, t1) => match Tile.popAll t1 n ps with
      | none => none
      | some (l, t2) => some (tok :: l, t2)

/-- The payload of 32-bit lanes. -/
def lanesPay (l : List Nat) : BitVec 512 :=
  BitVec.ofNat 512 ((l.zip (List.range l.length)).foldl (fun a vi => a + (vi.1 % 2 ^ 32) * 2 ^ (32 * vi.2)) 0)

/-- A payload with the bits beyond VAL halves zero (10 R213). -/
def maskPay (p : BitVec 512) (val : Nat) : BitVec 512 := p &&& BitVec.ofNat 512 (2 ^ (16 * val) - 1)

/-- E tails on inputs (10 R214): the others are discarded up to their tails, and an E tail is owed. -/
def owe (d : NodeSt) (ps : List Nat) (toks : List Token) (head : Token) : NodeSt :=
  { d with skip := (ps.zip toks).filterMap (fun pt => if pt.2.t then none else some pt.1)
           errs := (toks.filter (fun t => t.e)).map Token.code, head := head }

/-! ## Elementwise nodes (10 R220 to R222) -/

/-- One 32-bit lane of a shared operation (10 R221), with R given: the lane instruction of the same code under RNE. -/
def Tile.elemOp (t : Tile) (w : DWord) (a b : Nat) : Nat × Flags :=
  let op := nwOp w
  let ty := nodeTy (nwTy w)
  let sub := nwSub w
  let imm := nwImm w
  let s0 := sub % 2 = 1
  let s1 := sub / 2 % 2 = 1
  match op with
  | 0x04 => intResult ty s0 (intOf ty a + intOf ty b)
  | 0x06 => intResult ty s0 (intOf ty a - intOf ty b)
  | 0x07 => intResult ty s0 (intOf ty a * intOf ty b)
  | 0x0A => (if intOf ty a ≤ intOf ty b then a else b, 0)
  | 0x0B => (if intOf ty a ≤ intOf ty b then b else a, 0)
  | 0x0D => (a &&& b, 0)
  | 0x10 => (a ||| b, 0)
  | 0x12 => (a ^^^ b, 0)
  | 0x14 => (shlVal 32 a b, 0)
  | 0x16 => (shrVal 32 a b, 0)
  | 0x18 => (sarVal 32 a b, 0)
  | 0x1C => (popcount 32 a, 0)
  | 0x20 => (if icmp sub ty (intOf ty a) (intOf ty b) then 1 else 0, 0)
  | 0x24 =>
    let sty := imm % 16
    let x := if sty = 2 || sty = 3 then a + (Config.laneHigh (BitVec.ofNat 32 a)).toNat * 2 ^ 32 else a
    let r := convert ty sty 0 (imm / 16 % 2 = 1) x
    (placeTy ty r.1, r.2)
  | 0x25 =>
    let e := packElem ty 0 a
    ((e.1 % 2 ^ tyWidth ty) <<< (tyWidth ty * sub), e.2)
  | 0x26 => unpackElem ty (bits a (tyWidth ty * sub) (tyWidth ty))
  | 0x30 => fadd32 0 ((f32 a).flipIf s1) ((f32 b).flipIf s0)
  | 0x31 => fmul32 0 (f32 a) ((f32 b).flipIf s0)
  | 0x32 => ffma32 0 s0 (f32 a) (f32 b) ((f32 (t.param (imm / 256)).toNat).flipIf s1)
  | 0x33 => fmm fp32 false a b
  | 0x34 => fmm fp32 true a b
  | 0x35 =>
    let r := fcmp sub (f32 a) (f32 b)
    (if r.1 then 1 else 0, r.2)
  | 0x40 => dotResult (idp4Sum s0 s1 a b)
  | 0x41 => idp8Val (ty = 15) s0 a b 0
  | 0x42 => dotResult (isqd4Sum s0 a b)
  | 0x43 => (popcount 32 (a ^^^ b), 0)
  | _ => pqSum ty (fun o => ofBytes ((List.range 4).map (fun j => Sparse.get t.pq (512 * (imm / 256 % 32) + o + j)))) a b

/-- Operations that send predicate tokens. -/
def isPred (op : Nat) : Bool := op = 0x20 || op = 0x35

/-- The result token of a firing on L and, unless R is a parameter or absent, R. -/
def Tile.elemToken (t : Tile) (w : DWord) (a : Token) (b : Option Token) : Token × Flags :=
  let val := match b with
    | some b => if b.val < a.val then b.val else a.val
    | none => a.val
  let x : Token := { a with payload := maskPay a.payload val }
  let prm := (t.param (nwImm w % 256)).toNat
  let rl := fun (i : Nat) => match b with
    | some b => ({ b with payload := maskPay b.payload val } : Token).lane i
    | none => if nwPrm w then prm else 0
  let res := (List.range ((val + 1) / 2)).map (fun i => t.elemOp w (x.lane i) (rl i))
  let mx := orFlags (res.map (fun r => r.2))
  if isPred (nwOp w) then
    let m := (res.zip (List.range res.length)).foldl (fun a ri => a + ri.1.1 % 2 * 2 ^ ri.2) 0
    ({ a with payload := BitVec.ofNat 512 m, val := 8 }, mx)
  else ({ a with payload := maskPay (lanesPay (res.map (fun r => r.1))) val, val := val }, mx)

/-- SEL's result (19 R422): elements of L or R at the width of TY, by the bits of P. -/
def selToken (w : DWord) (a b p : Token) : Token :=
  let wid := tyWidth (nodeTy (nwTy w))
  let val := if b.val < a.val then b.val else a.val
  let m := (List.range (512 / wid)).foldl (fun (m : BitVec 512) e =>
    let src := if p.payload.getLsbD e then a.payload else b.payload
    m ||| (src &&& (BitVec.ofNat 512 (2 ^ wid - 1) <<< (wid * e)))) 0
  { a with payload := maskPay m val, val := val }

/-- The inputs an elementwise or select node needs (10 R220). -/
def needs (w : DWord) : List Nat :=
  (if isUnary (nwOp w) || nwPrm w then [0] else [0, 1]) ++ (if nwOp w = 0x22 || nwGrd w then [2] else [])

/-- A pair's lengths (10 R213, R222): the result with T as both tails have it, the node with what an unequal end makes it
owe, and the mismatches. -/
def pairEnd (d : NodeSt) (a : Token) (b : Option Token) (out : Token) : Token × NodeSt × Nat :=
  match b with
  | none => (out, d, 0)
  | some b =>
    let m := if a.val = b.val then 0 else 1
    if a.t = b.t then (out, d, m)
    else ({ out with t := false }, { d with skip := [if a.t then 1 else 0], errs := [1], head := if a.t then a else b }, m + 1)

/-- An elementwise firing (10 R220 to R222). One whose guard bit is clear sends nothing; that it still sets its flags, counts its
mismatches and owes a LENMIS tail the spec does not say (DESIGN CHOICE, log entry 85). -/
def elementwiseBody (c : NodeCtx) (t : Tile) : Option Fire :=
  let ps := needs c.w
  if nwOp c.w = 0x44 && (t.queue (3 * c.n + 2) != [] || (t.nodeSt c.n).pos != 0) then none
  else match t.popAll c.n ps with
  | none => none
  | some (toks, t1) =>
    let d := t1.nodeSt c.n
    let a := nth default toks 0
    if toks.any (fun x => x.e) then fire (t1.setNode c.n (owe d ps toks a))
    else
      let b := if ps.contains 1 then some (nth default toks 1) else none
      let p := if ps.contains 2 then some (nth default toks (ps.length - 1)) else none
      let r := match p, b with
        | some p, some b => if nwOp c.w = 0x22 then (selToken c.w a b p, 0) else t1.elemToken c.w a (some b)
        | _, _ => t1.elemToken c.w a b
      let e := pairEnd d a b r.1
      let pass := match p with
        | some p => nwOp c.w = 0x22 || p.payload.getLsbD 0
        | none => true
      some ⟨t1.setNode c.n (if pass then e.2.1.give allPaths e.1 else e.2.1), r.2, e.2.2, 0⟩

/-! ## Sources (10 R220) -/

/-- Tokens of a source's burst. -/
def burstTokens (t : Tile) (w : DWord) : Nat :=
  match nwOp w with
  | 0xD3 => nwImm w / 256 + 1
  | 0xD4 => ((t.param (nwImm w % 256 + 2)).toNat + 15) / 16
  | _ => 2 * tyWidth (nodeTy (nwTy w))

/-- CONST's token (16 R357). -/
def constToken (t : Tile) (w : DWord) : BitVec 512 × Nat × Flags :=
  (lanesPay ((List.range 16).map (fun e => (t.param (nwImm w % 256 + e)).toNat)), 32, 0)

/-- COUNT's token j (16 R358): START + STEP × x, rounded once in `.f32`. -/
def countToken (t : Tile) (w : DWord) (j : Nat) : BitVec 512 × Nat × Flags :=
  let p := nwImm w % 256
  let start := (t.param p).toNat
  let step := (t.param (p + 1)).toNat
  let n := (t.param (p + 2)).toNat
  let m := if 16 ≤ n - 16 * j then 16 else n - 16 * j
  let l := (List.range m).map (fun e =>
    let x := 16 * j + e
    if nwTy w = 2 then ffma32 0 false (f32 step) (.fin false x 0) (f32 start) else ((start + step * x) % 2 ^ 32, (0 : Flags)))
  (lanesPay (l.map (fun r => r.1)), 2 * m, orFlags (l.map (fun r => r.2)))

/-- GEN's token j of its burst (10 R227, 17 R376): the B operand column by column. -/
def genToken (t : Tile) (w : DWord) (r : FabRun) (adv : Word) (j : Nat) : BitVec 512 × Nat × Flags :=
  let g := genOfWords ((List.range 8).map (fun i => t.param (nwImm w % 256 + i)))
  let tr := nwSub w = 1
  let g := if tr then genSetWord g 4 (genCol0 g + adv) else genSetWord g 3 (genRow0 g + adv)
  let ty := nodeTy (nwTy w)
  let wid := tyWidth ty
  let key := genKey g r.widths r.wid
  let l := (List.range (512 / wid)).map (fun e =>
    let x := j * (512 / wid) + e
    let c := genCoord g tr (x % 32) (x / 32)
    genElem g ty key c.1 c.2)
  (BitVec.ofNat 512 ((l.zip (List.range l.length)).foldl (fun a ri => a + (ri.1.1 % 2 ^ wid) * 2 ^ (wid * ri.2)) 0), 32
    , orFlags (l.map (fun r => r.2)))

/-- A source fires (10 R220): a trigger burst is consumed up to its tail, then one token of the owed burst is sent. A guarded source
takes one P token for the burst, which is sent whole or not at all; a burst not sent sets no flag. A source that no arc triggers stops
when the run drains (11 R259 step 3). -/
def sourceBody (token : Tile → DWord → NodeSt → BitVec 512 × Nat × Flags) (c : NodeCtx) (t : Tile) : Option Fire :=
  let d := t.nodeSt c.n
  if !d.owed then
    match t.pop (3 * c.n) with
    | none => none
    | some (tok, t1) =>
      let d := t1.nodeSt c.n
      if !tok.t then fire t1
      else if tok.e then fire (t1.setNode c.n { d with errs := [tok.code], head := plainToken c.run.ctx })
      else fire (t1.setNode c.n { d with owed := true })
  else if !c.fedL && c.run.st = .draining then none
  else match t.popAll c.n (if nwGrd c.w && d.pos = 0 then [2] else []) with
    | none => none
    | some (ps, t1) =>
      let d := t1.nodeSt c.n
      let p := nth { plainToken c.run.ctx with payload := 1 } ps 0
      let gen := genOfWords ((List.range 8).map (fun i => t1.param (nwImm c.w % 256 + i)))
      let next := if nwOp c.w = 0xD5 && genAdv gen then d.adv + 32 else d.adv
      if p.e then
        fire (t1.setNode c.n { d with errs := [p.code], head := plainToken c.run.ctx, owed := false, pos := 0 })
      else if !p.payload.getLsbD 0 then fire (t1.setNode c.n { d with owed := false, adv := next })
      else
        let r := token t1 c.w d
        let last := decide (burstTokens t1 c.w ≤ d.pos + 1)
        let tok : Token := { plainToken c.run.ctx with
          seq := BitVec.ofNat 16 d.pos, h := d.pos = 0, t := last, val := r.2.1, payload := r.1 }
        let d1 := { d with owed := !last, pos := if last then 0 else d.pos + 1, adv := if last then next else d.adv }
        some ⟨t1.setNode c.n (d1.give allPaths tok), r.2.2, 0, 0⟩

/-! ## Control nodes (10 R223) -/

/-- STEER (19 R427). -/
def steerBody (c : NodeCtx) (t : Tile) : Option Fire :=
  let d := t.nodeSt c.n
  match d.path, t.queue (3 * c.n) with
  | _, [] => none
  | some p, _ =>
    match t.pop (3 * c.n) with
    | none => none
    | some (tok, t1) =>
      let d := { t1.nodeSt c.n with path := if tok.t then none else some p }
      fire (t1.setNode c.n (if p < 4 then d.give (2 ^ p) tok else d))
  | none, l :: _ =>
    match t.pop (3 * c.n + 2) with
    | none => none
    | some (p, t1) =>
      let d := t1.nodeSt c.n
      if p.e then fire (t1.setNode c.n { d with skip := [0], errs := [p.code], head := l })
      else
        let way := p.payload.toNat % 4
        if t1.path c.w way != 0 then fire (t1.setNode c.n { d with path := some way })
        else some ⟨t1.setNode c.n { d with path := some 4 }, 0, 1, 0⟩

/-- FILTER (17 R372): an E tail on P ends in P's code, whatever L carries. -/
def filterBody (c : NodeCtx) (t : Tile) : Option Fire :=
  match t.popAll c.n [0, 2] with
  | some ([l, p], t1) =>
    let d := t1.nodeSt c.n
    if p.e then fire (t1.setNode c.n { owe d [0] [l] l with errs := [p.code], cnt := 0 })
    else
      let tok := { l with h := d.cnt = 0, seq := BitVec.ofNat 16 d.cnt }
      let on := l.e || p.payload.getLsbD 0
      let d1 := { d with cnt := if l.t then 0 else if on then d.cnt + 1 else d.cnt }
      fire (t1.setNode c.n (if on then d1.give allPaths tok
        else if l.t then d1.give allPaths { tok with payload := 0, val := 0 } else d1))
  | _ => none

/-- MERGE (18 R399): ORDERED takes L and R in turn, ARRIVAL the burst whose head came first; deterministic runs are
ORDERED. -/
def mergeBody (c : NodeCtx) (t : Tile) : Option Fire :=
  let d := t.nodeSt c.n
  let ordered := nwSub c.w = 0 || c.run.det
  let cur := match d.path with
    | some p => some p
    | none => if ordered then some (if d.turn then 1 else 0) else d.arrived.head?
  match cur with
  | none => none
  | some p => match t.pop (3 * c.n + p) with
    | none => none
    | some (tok, t1) =>
      let d := t1.nodeSt c.n
      let d1 := { d with
        path := if tok.t then none else some p
        turn := if tok.t then p = 0 else d.turn
        arrived := if tok.h then d.arrived.erase p else d.arrived }
      fire (t1.setNode c.n (d1.give allPaths tok))

/-! ## Whole-burst nodes (10 R225 to R228) -/

/-- A one-burst result with the head's CTX and THR (16 R334). -/
def resultToken (head : Token) (val : Nat) (pay : BitVec 512) : Token :=
  { head with d := false, scl := 127, seq := 0, h := true, t := true, e := false, val := val, payload := pay }

/-- ACC's or BFPSUM's firing: the sums' start, and one token added. -/
def sumBody (start : List Word) (add : List Word → Token → List (Nat × Flags)) (val : Nat) (c : NodeCtx) (t : Tile) : Option Fire :=
  match t.popAll c.n (if nwGrd c.w then [0, 2] else [0]) with
  | none => none
  | some (toks, t1) =>
    let d := t1.nodeSt c.n
    let a := nth default toks 0
    let p := nth default toks 1
    if toks.any (fun x => x.e) then
      fire (t1.setNode c.n { owe d (if nwGrd c.w then [0, 2] else [0]) toks a with lanes := [] })
    else
      let opened := a.h || d.lanes = []
      let head := if opened then a else d.head
      let r := add (if opened then start else d.lanes) a
      let sums := r.map (fun x => BitVec.ofNat 32 x.1)
      let d1 := { d with lanes := if a.t then [] else sums, head := head }
      let pass := a.t && (!nwGrd c.w || p.payload.getLsbD 0)
      some ⟨t1.setNode c.n (if pass then d1.give allPaths (resultToken head val (lanesPay (r.map (fun x => x.1)))) else d1)
        , orFlags (r.map (fun x => x.2)), 0, 0⟩

/-- ACC (16 R334). -/
def accBody (c : NodeCtx) (t : Tile) : Option Fire :=
  let fp := nwTy c.w = 2
  sumBody (List.replicate 16 (if fp then 0x80000000#32 else 0)) (fun acc a =>
    (acc.zip (List.range 16)).map (fun xi =>
      if fp then fadd32 0 (f32 xi.1.toNat) (f32 (a.lane xi.2)) else ((xi.1.toNat + a.lane xi.2) % 2 ^ 32, (0 : Flags)))) 32 c t

/-- BFPSUM (16 R350): 32 BF16 elements as one K-block added to lane 0. The SCL of the burst's head scales nothing here, nor in ACC and the
dot nodes: of the nodes, MMAN alone has a rule that applies it (DESIGN CHOICE, log entry 88). -/
def bfpsumBody (c : NodeCtx) (t : Tile) : Option Fire :=
  sumBody [0#32] (fun acc a =>
    let es := (List.range 32).map (fun i => bf16.value (a.payload.extractLsb' (16 * i) 16).toNat)
    [kblock fp32 (f32 (nth 0 acc 0).toNat) es (es.any FV.isNan) (es.any FV.isSnan)]) 2 c t

/-- The format code of MMAN's elements (18 R400, 08 R170). -/
def mmanFmt (w : DWord) : Nat :=
  match nwSub w, nwTy w with
  | 0, 3 => 0
  | 0, 4 => 1
  | 0, 5 => 5
  | 0, 6 => 6
  | 0, _ => 7
  | 1, _ => 2
  | 2, _ => 3
  | _, _ => 4

/-- Row x of an operand held as tokens: its 32 elements (10 R226). -/
def mmanRow (fmt : Nat) (buf : List (BitVec 512)) (x : Nat) : List FV × Flags :=
  let w := mfmtBits fmt
  let per := 512 / w
  let elem := fun (w' i : Nat) => ((nth 0 buf (i * w' / 512)).extractLsb' (i * w' % 512) w').toNat
  if fmt = 7 then i4o ((List.range 16).map (fun i => elem 8 (16 * x + i)))
  else ((List.range 32).map (fun (k : Nat) =>
    let e := ((nth 0 buf ((32 * x + k) / per)).extractLsb' (w * ((32 * x + k) % per)) w).toNat
    if fmt = 5 || fmt = 6 then fvInt (toSigned w e) else (tyFmt (mfmtTy fmt)).value e), 0)

/-- One K-block of MMAN on the accumulator (10 R226): R100 for unscaled integers, else R98. -/
def mmanBlock (w : DWord) (d : NodeSt) (acc : Sparse 32) : Sparse 32 × Flags :=
  let fmt := mmanFmt w
  let int := (fmt = 5 || fmt = 6) && d.ascl = 127 && d.bscl = 127
  let a := (List.range 32).map (fun r => mmanRow fmt d.abuf r)
  let b := (List.range 32).map (fun c => mmanRow fmt d.bbuf c)
  let fl := orFlags ((a ++ b).map (fun r => r.2))
  ((a.zip (List.range 32)).foldl (fun (st : Sparse 32 × Flags) ar =>
    (b.zip (List.range 32)).foldl (fun (st : Sparse 32 × Flags) bc =>
      let key := 32 * ar.2 + bc.2
      let v := gmmaStep int (Sparse.get st.1 key).toNat (some (ar.1.1, bc.1.1, d.ascl.toNat, d.bscl.toNat))
      (Sparse.set st.1 key (BitVec.ofNat 32 v.1), st.2 ||| v.2)) st) (acc, fl))

/-- The 64 tokens of the accumulator; poisoned rows are zero, and an E tail with POISON follows (10 R226, R240). -/
def mmanTokens (t : Tile) (head : Token) : List (Nat × Token) :=
  let bad := t.accPoison != 0
  let toks := (List.range 64).map (fun (j : Nat) =>
    let row := if t.accPoison.getLsbD (j / 2) then List.replicate 16 0
      else (List.range 16).map (fun c => (Sparse.get t.acc (16 * j + c)).toNat)
    (allPaths, { resultToken head 32 (lanesPay row) with seq := BitVec.ofNat 16 j, h := j = 0, t := j = 63 && !bad }))
  toks ++ (if bad then [(allPaths, errTail head 2 64)] else [])

/-- The accumulator is sent and cleared. -/
def mmanSend (n : Nat) (t : Tile) : Tile :=
  let d := t.nodeSt n
  { (t.setNode n { d with out := d.out ++ mmanTokens t d.head, cnt := 0 }) with acc := [] }

/-- MMAN takes one token of A or B (10 R226); with both bursts in, a K-block is added, and after NIMM16 of them the
accumulator is sent. A burst that ends short of a K-block sends the partial accumulator; tokens past a K-block are
discarded and counted. -/
def mmanBody (c : NodeCtx) (t : Tile) : Option Fire :=
  let d := t.nodeSt c.n
  let full := 2 * mfmtBits (mmanFmt c.w)
  let pick := if !d.aend && t.queue (3 * c.n) != [] then some 0
    else if !d.bend && t.queue (3 * c.n + 1) != [] then some 1 else none
  match pick with
  | none => none
  | some p => match t.pop (3 * c.n + p) with
    | none => none
    | some (tok, t1) =>
      let d := t1.nodeSt c.n
      if tok.e then
        let other := if p = 0 then d.bend else d.aend
        fire { (t1.setNode c.n { d with
          skip := if other then [] else [1 - p], errs := [tok.code], head := tok, abuf := [], bbuf := [], aend := false
          bend := false, cnt := 0 }) with acc := [] }
      else
        let buf := if p = 0 then d.abuf else d.bbuf
        let past := decide (full ≤ buf.length)
        let buf := if past then buf else buf ++ [maskPay tok.payload tok.val]
        let d1 := if p = 0 then { d with abuf := buf, aend := tok.t, ascl := if tok.h then tok.scl else d.ascl
                                         head := if tok.h then tok else d.head }
          else { d with bbuf := buf, bend := tok.t, bscl := if tok.h then tok.scl else d.bscl }
        let m := if past then 1 else 0
        if !(d1.aend && d1.bend) then some ⟨t1.setNode c.n d1, 0, m, 0⟩
        else
          let d2 := { d1 with abuf := [], bbuf := [], aend := false, bend := false }
          if d1.abuf.length = full && d1.bbuf.length = full then
            let r := mmanBlock c.w d1 t1.acc
            let t2 := { (t1.setNode c.n { d2 with cnt := d.cnt + 1 }) with acc := r.1 }
            some ⟨if nwImm c.w ≤ d.cnt + 1 then mmanSend c.n t2 else t2, r.2, m, 0⟩
          else some ⟨mmanSend c.n (t1.setNode c.n d2), 0, m, 0⟩

/-- Strict order of TOPKN's pairs: key, then payload (10 R228). -/
def topLe (ty : Nat) (a b : Word × Word) : Bool :=
  let lt := keyLt ty a.1.toNat b.1.toNat
  let gt := keyLt ty b.1.toNat a.1.toNat
  lt || (!gt && a.2 ≤ b.2)

/-- TOPKN's burst: eight pairs a token, key in the even lane (19 R431). -/
def topTokens (head : Token) (l : List (Word × Word)) : List (Nat × Token) :=
  let n := (l.length + 7) / 8
  if n = 0 then [(allPaths, resultToken head 0 0)]
  else (List.range n).map (fun (j : Nat) =>
    let part := (l.drop (8 * j)).take 8
    let pay := lanesPay ((part.map (fun kv => [kv.1.toNat, kv.2.toNat])).flatten)
    (allPaths, { resultToken head (4 * part.length) pay with seq := BitVec.ofNat 16 j, h := j = 0, t := j + 1 = n }))

/-- TOPKN takes a pair of tokens (10 R228, 19 R431). -/
def topknBody (c : NodeCtx) (t : Tile) : Option Fire :=
  match t.popAll c.n [0, 1] with
  | some ([a, b], t1) =>
    let d := t1.nodeSt c.n
    if a.e || b.e then fire (t1.setNode c.n { owe d [0, 1] [a, b] a with keys := [] })
    else
      let ty := nodeTy (nwTy c.w)
      let val := if b.val < a.val then b.val else a.val
      let pairs := (List.range ((val + 1) / 2)).map (fun i => (BitVec.ofNat 32 (a.lane i), BitVec.ofNat 32 (b.lane i)))
      let good := pairs.filter (fun kv => !keyNan ty kv.1.toNat)
      let keys := (good.foldl (fun l kv => insertBy (topLe ty) kv l) d.keys).take (nwImm c.w % 256 + 1)
      let head := if a.h then a else d.head
      let nan := pairs.length - good.length
      let m := if a.val = b.val then 0 else 1
      if a.t && b.t then
        let outs := if t1.topkPoison then [(allPaths, errTail head 2 0)] else topTokens head keys
        some ⟨t1.setNode c.n { d with keys := [], head := head, out := outs }, 0, m, nan⟩
      else if a.t || b.t then
        let e := pairEnd { d with keys := [] } a (some b) a
        some ⟨t1.setNode c.n e.2.1, 0, e.2.2, nan⟩
      else some ⟨t1.setNode c.n { d with keys := keys, head := head }, 0, m, nan⟩
  | _ => none

/-! ## Memory and discard nodes (10 R233, R220), PQ tables (18 R413) -/

/-- PART passes an index token to its record, GATHR a reply token to its targets, in order (18 R409, 17 R375). An E tail on a guard
ends the burst (10 R214). -/
def passBody (c : NodeCtx) (t : Tile) : Option Fire :=
  match t.popAll c.n (if nwGrd c.w then [0, 2] else [0]) with
  | none => none
  | some (toks, t1) =>
    let a := nth default toks 0
    let p := nth default toks 1
    if nwGrd c.w && toks.any (fun x => x.e) then fire (t1.setNode c.n (owe (t1.nodeSt c.n) [0, 2] toks a))
    else fire (t1.setNode c.n (if !nwGrd c.w || a.e || p.payload.getLsbD 0 then (t1.nodeSt c.n).give allPaths a else t1.nodeSt c.n))

/-- SINK counts data tokens (19 R424). -/
def sinkBody (c : NodeCtx) (t : Tile) : Option Fire :=
  match t.popAll c.n (if nwGrd c.w then [0, 2] else [0]) with
  | none => none
  | some (toks, t1) =>
    let d := t1.nodeSt c.n
    let on := !nwGrd c.w || (nth default toks 1).payload.getLsbD 0
    if nwGrd c.w && toks.any (fun x => x.e) then fire (t1.setNode c.n (owe d [0, 2] toks (nth default toks 0)))
    else fire (t1.setNode c.n (if on && !(nth default toks 0).e then { d with cnt := (d.cnt + 1) % 2 ^ 32 } else d))

/-- A token of a PQ table burst is written from group G upward; words past the region are dropped and counted once
(18 R413). An E tail ends the burst and passes on as R214 says. -/
def tableBody (c : NodeCtx) (t : Tile) : Option Fire :=
  match t.pop (3 * c.n + 2) with
  | none => none
  | some (p, t1) =>
    let d := t1.nodeSt c.n
    if p.e then
      let mid := nth 0 d.nseq 0 != 0 || nth 0 d.nseq 1 != 0
      fire (t1.setNode c.n { d with pos := 0, errs := [p.code], head := p
                                    skip := if !mid then [] else if nwPrm c.w then [0] else [0, 1] })
    else
      let base := 512 * (nwImm c.w / 256 % 32)
      let words := (List.range (p.val / 2)).map (fun e => (base + 4 * (d.pos + e), p.lane e))
      let kept := words.filter (fun aw => aw.1 < 16384)
      let pq := kept.foldl (fun (m : Sparse 8) aw =>
        Sparse.setAll m ((toBytes 4 aw.2).zip (List.range 4) |>.map (fun bi => (aw.1 + bi.2, bi.1)))) t1.pq
      let past := kept.length < words.length && base + 4 * d.pos ≤ 16384
      some ⟨{ (t1.setNode c.n { d with pos := if p.t then 0 else d.pos + words.length }) with pq := pq }, 0, if past then 1 else 0, 0⟩

/-! ## One event of a node -/

/-- The paths of a mask that exist. -/
def outPaths (t : Tile) (w : DWord) (mask : Nat) : List Nat := (t.paths w).filter (fun p => mask.testBit p)

/-- Sends the first token a node owes on the arcs of its mask; an E tail takes H and SEQ from each arc's open burst. None
where an arc has no credit. -/
def State.emitNode (s : State) (k : Nat) (r : FabRun) (i n : Nat) : Option State :=
  let t := s.tile k i
  let w := t.word n
  let d := t.nodeSt n
  match d.out with
  | [] => some s
  | (mask, tok) :: rest =>
    let src := Source.node (i % 8) (i / 8) n
    let ps := outPaths t w mask
    if !ps.all (fun p => (s.stackOf k).credit src p) then none
    else
      let sent := fun (p : Nat) => nth 0 d.nseq p
      let s := ps.foldl (fun s p => s.send k r i ⟨src, p, t.path w p⟩ (if tok.e then errTail tok tok.code (sent p) else tok)) s
      let nseq := (List.range 4).map (fun p => if !ps.contains p then sent p else if tok.t then 0 else sent p + 1)
      some (s.updTile k i (fun t => t.setNode n { t.nodeSt n with out := rest, nseq := nseq }))

/-- One token of an input that is being discarded leaves, up to its tail; an E tail's code is kept (10 R214, R222), but for STEER
and FILTER, whose E tail carries the P token's code (19 R427, 17 R372). -/
def discardOne (t : Tile) (n : Nat) : List Nat → Option Tile
  | [] => none
  | p :: ps => match t.pop (3 * n + p) with
    | none => discardOne t n ps
    | some (tok, t1) =>
      let d := t1.nodeSt n
      some (t1.setNode n { d with skip := if tok.t then d.skip.filter (fun q => q != p) else d.skip
                                  errs := if tok.e && nwOp (t.word n) != 0xD0 && nwOp (t.word n) != 0xD2 then d.errs ++ [tok.code] else d.errs })

/-- What a node does before its own body: discards, then sends the owed E tail with the lowest code. It fires only with credit on every
target (10 R224). -/
def nodeBody (credit : Bool) (body : NodeCtx → Tile → Option Fire) (c : NodeCtx) (t : Tile) : Option Fire :=
  let d := t.nodeSt c.n
  if d.skip != [] then (discardOne t c.n d.skip).map (fun t => ⟨t, 0, 0, 0⟩)
  else match minNat d.errs with
    | some code => fire (t.setNode c.n ({ d with errs := [] }.give allPaths (errTail d.head code 0)))
    | none => if credit then body c t else none

/-- Arcs into a node slot from unsealed sources. -/
def Stack.feeds (k : Stack) (r : FabRun) (i n : Nat) : List Arc :=
  (k.arcs r).filter (fun a => tgTile a.tgt = i && !tgMem a.tgt && tgSlot a.tgt = n && !r.isSealed (k.srcDomain r a.src))

/-- Drain passes a node (10 R222, 11 R259 step 4): a drain token has reached every connected input, nothing more can
fire, and every target has credit; one drain token goes to every existing path, and the node fires no more. -/
def State.drainNode (s : State) (k : Nat) (r : FabRun) (i n : Nat) : State :=
  let st := s.stackOf k
  let t := st.tile i
  let w := t.word n
  let src := Source.node (i % 8) (i / 8) n
  let marked := (st.feeds r i n).all (fun a => t.dmarks.contains (destKey (tgDest a.tgt), a.src, a.path))
  if r.st = .draining && marked && !(nwOp w = 0x44 && t.queue (3 * n + 2) != []) && (t.paths w).all (fun p => st.credit src p) then
    let s := (t.paths w).foldl (fun s p => s.send k r i ⟨src, p, t.path w p⟩ (drainToken r.ctx)) s
    s.updTile k i (fun t => t.setNode n { t.nodeSt n with frozen := true })
  else s

/-- One event of the node in a slot, for the operations that the event is about: the node of a moving run, neither
frozen nor sealed, sends what it owes, or fires as `body` says and sends its first result, or forwards drain. Without
inputs or without credit nothing changes. -/
def nodeEvent (t : TileId) (n : Nat) (ops : Nat → Bool) (body : NodeCtx → Tile → Option Fire) (s : State) : Out :=
  let k := t.stack
  let i := tileIx t
  match s.moving k i with
  | none => .next s
  | some r =>
    let st := s.stackOf k
    let tl := st.tile i
    let w := tl.word n
    if w = 0 || !ops (nwOp w) || (tl.nodeSt n).frozen || r.isSealed (tl.domain n) then .next s
    else if (tl.nodeSt n).out != [] then .next ((s.emitNode k r i n).getD s)
    else
      let fedL := (st.arcs r).any (fun a => tgTile a.tgt = i && !tgMem a.tgt && tgSlot a.tgt = n && tgPos a.tgt = 1)
      match nodeBody ((tl.paths w).all (fun p => st.credit (.node t.x t.y n) p)) body ⟨n, w, r, fedL⟩ tl with
      | none => .next (s.drainNode k r i n)
      | some f =>
        let s1 := (s.updTile k i (fun _ => f.tile)).updRun k r (fun r =>
          { r with mxfl := r.mxfl ||| f.mx, mismatch := r.mismatch + BitVec.ofNat 32 f.mism, nankey := r.nankey + BitVec.ofNat 32 f.nan })
        .next ((s1.emitNode k r i n).getD s)

/-- ELEMENTWISE_FIRE (10 R221): the shared operations but SEL, PQACC's pairs among them. -/
def execElementwiseFire (t : TileId) (n : Nat) (s : State) : Out :=
  nodeEvent t n (fun op => op != 0x22 && (takesPrm op || isUnary op)) elementwiseBody s

/-- SEL_NODE (19 R422). -/
def execSelNode (t : TileId) (n : Nat) (s : State) : Out := nodeEvent t n (fun op => op = 0x22) elementwiseBody s

/-- CONST (16 R357). -/
def execConstN (t : TileId) (n : Nat) (s : State) : Out :=
  nodeEvent t n (fun op => op = 0xD3) (sourceBody (fun t w _ => constToken t w)) s

/-- COUNT (16 R358). -/
def execCountN (t : TileId) (n : Nat) (s : State) : Out :=
  nodeEvent t n (fun op => op = 0xD4) (sourceBody (fun t w d => countToken t w d.pos)) s

/-- GEN (17 R376). -/
def execGenN (t : TileId) (n : Nat) (s : State) : Out :=
  nodeEvent t n (fun op => op = 0xD5) (fun c => sourceBody (fun t w d => genToken t w c.run d.adv d.pos) c) s

/-- STEER (19 R427). -/
def execSteerN (t : TileId) (n : Nat) (s : State) : Out := nodeEvent t n (fun op => op = 0xD0) steerBody s

/-- FILTER (17 R372). -/
def execFilterN (t : TileId) (n : Nat) (s : State) : Out := nodeEvent t n (fun op => op = 0xD2) filterBody s

/-- MERGE (18 R399). -/
def execMergeN (t : TileId) (n : Nat) (s : State) : Out := nodeEvent t n (fun op => op = 0xD1) mergeBody s

/-- ACC (16 R334). -/
def execAccN (t : TileId) (n : Nat) (s : State) : Out := nodeEvent t n (fun op => op = 0xD6) accBody s

/-- BFPSUM (16 R350). -/
def execBfpsumN (t : TileId) (n : Nat) (s : State) : Out := nodeEvent t n (fun op => op = 0xD7) bfpsumBody s

/-- MMAN (18 R400). -/
def execMmanN (t : TileId) (n : Nat) (s : State) : Out := nodeEvent t n (fun op => op = 0xD8) mmanBody s

/-- TOPKN (19 R431). -/
def execTopknN (t : TileId) (n : Nat) (s : State) : Out := nodeEvent t n (fun op => op = 0xD9) topknBody s

/-- Index tokens that PART has sent to its GATHER record and reply tokens that GATHR has not sent on: what the reordering state holds
(10 R233); a SCATTER record has no GATHR. -/
def State.gatherHeld (s : State) (t : TileId) (n : Nat) : Nat :=
  let st := s.stackOf t.stack
  let tl := st.tile (tileIx t)
  let rec_ := tgSlot (nwTgt (tl.word n) 0)
  match tl.recAt rec_ with
  | none => 0
  | some rc =>
    if rc.mode != 2 then 0
    else
      let g := st.tile (tgTile rc.tgt)
      (tl.queue (48 + rec_)).length + (g.queue (3 * tgSlot rc.tgt)).length + (g.nodeSt (tgSlot rc.tgt)).out.length
        + (st.flights.filter (fun f => f.src = .node t.x t.y n || f.src = .record t.x t.y rec_)).length

/-- PART (18 R409). It issues nothing while GATHR's reordering state holds 64 tokens (10 R233). -/
def execPartN (t : TileId) (n : Nat) (s : State) : Out :=
  if 64 ≤ s.gatherHeld t n then .next s else nodeEvent t n (fun op => op = 0xDA) passBody s

/-- GATHR (17 R375). -/
def execGathrN (t : TileId) (n : Nat) (s : State) : Out := nodeEvent t n (fun op => op = 0xDB) passBody s

/-- SINK (19 R424). -/
def execSinkN (t : TileId) (n : Nat) (s : State) : Out := nodeEvent t n (fun op => op = 0xDC) sinkBody s

/-- PQACC_TABLE_LOAD (18 R413). -/
def execPqaccTableLoad (t : TileId) (n : Nat) (s : State) : Out := nodeEvent t n (fun op => op = 0x44) tableBody s

end Sys2Proof.Machine
end

