-- ==== Sys2Proof/Machine/Streams.lean ====
section
/-! DEFINITION. Stream records (spec 10 R229 to R234, R240; 11 R262): addresses, walks and stalls, gates, reads, writes,
passes, and drain. -/

namespace Sys2Proof.Machine

/-! ## Addresses and walks -/

/-- The address of an element at an element offset: its VA, and whether it is the high nibble of its byte (10 R230). -/
def Rec.addr (rc : Rec) (bases : List DWord) (off : Int) : DWord × Bool :=
  let bit := ((resolveVa bases rc.base).toNat : Int) * 8 + (rc.bits : Int) * off
  (BitVec.ofInt 64 (bit / 8), bit / 4 % 2 = 1)

/-- Bytes of an element, at least one. -/
def Rec.bytes (rc : Rec) : Nat := if rc.bits < 8 then 1 else rc.bits / 8

/-- Whether an element lies in the declared footprints (10 R230). -/
def FabRun.inFootprint (r : FabRun) (va n : Nat) : Bool := (r.fpR ++ r.fpW).any (fun f => f.1 ≤ va && va + n ≤ f.1 + f.2)

/-- What an access of a stream needs (06 R133, R141). -/
def streamNeed (k : Nat) (write : Bool) : Need := ⟨!write, write, false, some k⟩

/-- What a stream meets at an element: its place in memory, a miss of the stream TLB, or an unrecoverable fault with its
ERR code (11 R258, R262). -/
inductive Elem where
  | at_ (pa : Nat)
  | miss (va : DWord)
  | bad (err : Nat)

/-- Looks an element up: a base beyond 57 bits is an unresolvable fault (11 R245), so is an address outside the
footprints, and a miss of the stream TLB starts a walk. -/
def State.streamElem (s : State) (k : Nat) (r : FabRun) (rc : Rec) (off : Int) (write : Bool) : Elem :=
  let va := (rc.addr r.bases off).1
  if (resolveVa r.bases rc.base).extractLsb' 57 7 != 0 then .bad 3
  else if !r.inFootprint va.toNat rc.bytes then .bad 4
  else match s.tlbFind (.stack k) r.ctx va.toNat with
    | none => .miss va
    | some e => if permits e.leaf (streamNeed k write) && (!write || e.leaf.getLsbD 8) then .at_ (e.frame + va.toNat % 2 ^ e.size)
      else .miss va

/-- A VA's mapping as the page tables give it, for steps 2 and 3 of R158 and for R160. -/
def State.mapped (s : State) (die ctx va : Nat) : Option Nat :=
  match (s.translate (.die die) ctx (BitVec.ofNat 64 va) ⟨false, false, false, none⟩).2 with
  | .ok t => some t.pa
  | .error _ => none

/-- The pieces of a VA range within 4 KiB pages, in whole lines: VA and length. -/
def linePieces (va len : Nat) : List (Nat × Nat) :=
  let lo := va / 64 * 64
  let hi := (va + len + 63) / 64 * 64
  (List.range (hi / 4096 + 1 - lo / 4096)).filterMap (fun (j : Nat) =>
    let a := if 4096 * (lo / 4096 + j) < lo then lo else 4096 * (lo / 4096 + j)
    let b := if hi < 4096 * (lo / 4096 + j + 1) then hi else 4096 * (lo / 4096 + j + 1)
    if a < b then some (a, b - a) else none)

/-- The tiles of a stack with a run's graph: those that a drain saved, where it has (11 R259). -/
def Stack.asSaved (k : Stack) (r : FabRun) : Stack :=
  (r.tiles.zip r.image).foldl (fun (st : Stack) it => st.updTile it.1 (fun _ => it.2)) k

/-- Lines of a page of the write footprint pass into fabric ownership (07 R158): they leave the L2 and the RDCs. Ownership that a completion
tap or a sealing has ended stays ended (R159). -/
def State.ownPiece (s : State) (k : Nat) (r : FabRun) (p : Nat × Nat) : State :=
  match s.mapped (k / 4) r.ctx p.1 with
  | none => s
  | some pa =>
    let st := s.stackOf k
    ((s.cleanL2 pa p.2).rdcDrop pa p.2).updRun k r (fun r =>
      let l := if r.owned.any (fun o => o.va = p.1 && o.pa = pa) then r.owned else r.owned ++ [⟨p.1, pa, p.2⟩]
      { r with owned := if r.ownOver then [] else if r.sealed_ = 0 then l else (st.asSaved r).endOwned { r with owned := l } })

/-- Ownership of the pages of the write footprint that hold a VA, after its walk (07 R158, R159). -/
def State.ownPage (s : State) (k : Nat) (r : FabRun) (va : Nat) : State :=
  let ps := (r.fpW.map (fun f => linePieces f.1 f.2)).flatten.filter (fun p => p.1 / 4096 = va / 4096)
  ps.foldl (fun s p => s.ownPiece k r p) s

/-! ## One event of a record -/

/-- The record of a moving run that an event is about, unless its domain is sealed or drain has passed it. -/
def State.streamAt (s : State) (t : TileId) (n : Nat) : Option (FabRun × Rec × StreamSt) :=
  let i := tileIx t
  match s.moving t.stack i, (s.tile t.stack i).recAt n with
  | some r, some rc =>
    let st := (s.tile t.stack i).stream n
    if 4 ≤ n || r.isSealed ((s.stackOf t.stack).recDomain r i n) || st.drained then none else some (r, rc, st)
  | _, _ => none

/-- Replaces a record's state. -/
def State.setStream (s : State) (t : TileId) (n : Nat) (d : StreamSt) : State :=
  s.updTile t.stack (tileIx t) (fun x => x.setStream n d)

/-- The arc on which a record sends. -/
def recArc (t : TileId) (n : Nat) (rc : Rec) : Arc := ⟨.record t.x t.y n, 0, rc.tgt⟩

/-- Whether a record may send a token. -/
def State.recCredit (s : State) (t : TileId) (n : Nat) (rc : Rec) : Bool :=
  rc.tgt = 0 || (s.stackOf t.stack).credit (.record t.x t.y n) 0

/-- Sends a record's token, if it has a target. -/
def State.recSend (s : State) (t : TileId) (n : Nat) (rc : Rec) (r : FabRun) (tok : Token) : State :=
  if rc.tgt = 0 then s else s.send t.stack r (tileIx t) (recArc t n rc) tok

/-- An E tail of a record, with its thread tag and scale as every token of the record (10 R214, R229). -/
def recTail (rc : Rec) (r : FabRun) (code sent : Nat) : Token := errTail { plainToken r.ctx with thr := rc.thr, scl := rc.hscl } code sent

/-- The GATHR node that a GATHER record feeds sends what it has been given, then an E tail with STREAM (17 R375). -/
def State.gatherFails (s : State) (k : Nat) (r : FabRun) (t : TileId) (n : Nat) (rc : Rec) : State :=
  let src := Source.record t.x t.y n
  let st := s.stackOf k
  let j := tgTile rc.tgt
  let sl := tgSlot rc.tgt
  let tl := st.tile j
  let d := tl.nodeSt sl
  let w := tl.word sl
  let toks := d.out.map (fun o => o.2) ++ tl.queue (3 * sl) ++ (st.flights.filter (fun f => f.src = src)).map (fun f => f.tok)
  let sent := fun (p : Nat) => toks.foldl (fun a tok => if tok.t then 0 else a + 1) (nth 0 d.nseq p)
  let arc := fun (p : Nat) => (⟨.node (j % 8) (j / 8) sl, p, tl.path w p⟩ : Arc)
  let s := s.updStack k (fun st => { st with flights := st.flights.filter (fun f => f.src != src) })
  let s := (tl.paths w).foldl (fun s p =>
    (toks.foldl (fun s tok => s.send k r j (arc p) tok) s).send k r j (arc p) (recTail rc r 5 (sent p))) s
  s.updTile k j (fun x => (x.setQueue (3 * sl) []).setNode sl { x.nodeSt sl with out := [], nseq := List.replicate 4 0 })

/-- An unrecoverable fault of a record: its burst ends in an E tail with STREAM (10 R214), which GATHR sends for a GATHER record, and
its domain is sealed (11 R262, R263). -/
def State.streamFails (s : State) (t : TileId) (n : Nat) (r : FabRun) (rc : Rec) (err : Nat) : State :=
  let k := t.stack
  let d := (s.tile k (tileIx t)).stream n
  let s := if rc.mode = 2 && !tgMem rc.tgt then s.gatherFails k r t n rc
    else if rc.sends then
      (s.recSend t n rc r (recTail rc r 5 d.seq)).setStream t n { d with seq := 0, buf := [] }
    else s
  s.seal k r [(s.stackOf k).recDomain r (tileIx t) n] err (tileIx t)

/-- Removes the fault records of a stream that wait for an answer. -/
def State.dropFault (s : State) (t : TileId) (n : Nat) : State :=
  s.updStack t.stack (fun st => { st with faults := st.faults.filter (fun f => !(f.x = t.x && f.y = t.y && f.recNo = n)) })

/-- XNP or NONLOCAL stalls the stream and goes to a Ranger; any other translation fault is unrecoverable (11 R262). -/
def State.streamFault (s : State) (t : TileId) (n : Nat) (r : FabRun) (rc : Rec) (d : StreamSt) (va : DWord) (f : Flt) : State :=
  if f.cause = 0x06 || f.cause = 0x0A then
    let s := s.setStream t n { d with phase := .stalled, va := va, cause := f.cause, level := f.level, answer := 0, retry := false }
    s.updStack t.stack (fun st => { st with faults := st.faults ++ [⟨t.x, t.y, n, va, f.cause, f.level⟩] })
  else s.streamFails t n r rc 3

/-- A stalled stream that was answered moves on while the run is RUNNING: it retries, or its domain is sealed (11 R262). -/
def State.takeAnswer (s : State) (t : TileId) (n : Nat) (r : FabRun) (rc : Rec) : State :=
  let d := (s.tile t.stack (tileIx t)).stream n
  if d.phase != .stalled || d.answer = 0 then s
  else if d.answer = 2 then s.streamFails t n r rc 3
  else s.setStream t n { d with phase := if rc.gate && !d.opened then .waiting else .walking, answer := 0, retry := true }

/-- A retried walk that succeeds counts as a resolved fault (11 R258, 23 R451). -/
def State.resolved (s : State) (k : Nat) (r : FabRun) (d : StreamSt) : State :=
  if d.retry then s.updRun k r (fun r => { r with sfaults := r.sfaults + 1 }) else s

/-! ## The watchdog's count (10 R237, R239) -/

/-- A write of FBCTL (10 R237): a count that runs keeps the WDOFF under which it started. -/
def Stack.setFbctl (k : Stack) (v : Word) : Stack :=
  let k := k.settleCounts
  let off := k.fbctl.getLsbD 20
  let k1 := (List.range 64).foldl (fun (st : Stack) i =>
    if k.counting i then st.updTile i (fun t => { t with wdKept := some (t.wdKept.getD off) }) else st) k
  { k1 with fbctl := v }

/-- An event of a record is over: a command of its channel that it completed restarts the watchdog count, and none pending ends it; the
next count is under FBCTL as it stands then (10 R237, R239). -/
def State.recount (s0 s : State) (t : TileId) (n : Nat) : State :=
  let i := tileIx t
  let d0 := (s0.tile t.stack i).stream n
  let d := (s.tile t.stack i).stream n
  let done := match s0.moving t.stack i with
    | some r => ((s0.stackOf t.stack).busyRecs r i).any (fun nr => nr.1 = n) && { d with phase := d0.phase, va := d0.va } != d0
    | none => false
  if (s.tile t.stack i).wdKept.isSome && (done || !(s.stackOf t.stack).counting i) then
    s.updTile t.stack i (fun x => { x with wdKept := none })
  else s

/-! ## Walks (06 R141) -/

/-- Writes back the dirty L2 lines of the read footprint in a page that holds a VA, after its walk: what R158 does for the pages that are
mapped when the run begins is done for one that is mapped since (07 R158, 11 R262). -/
def State.cleanPage (s : State) (k : Nat) (r : FabRun) (va : Nat) : State :=
  let ps := (r.fpR.map (fun f => linePieces f.1 f.2)).flatten.filter (fun p => p.1 / 4096 = va / 4096)
  ps.foldl (fun s p => match s.mapped (k / 4) r.ctx p.1 with
    | some pa => s.cleanL2 pa p.2
    | none => s) s

/-- The end of a stream's walk. -/
def State.streamWalk (s : State) (t : TileId) (n : Nat) : State :=
  match s.streamAt t n with
  | none => s
  | some (r, rc, d) =>
    if d.phase != .walking then s
    else match s.translate (.stack t.stack) r.ctx d.va (streamNeed t.stack rc.writes) with
      | (s, .error f) => (s.streamFault t n r rc d d.va f)
      | (s, .ok _) =>
        let s := (s.resolved t.stack r d).setStream t n { d with phase := .active, retry := false }
        (if rc.writes then s.ownPage t.stack r d.va.toNat else s.cleanPage t.stack r d.va.toNat)

/-- STREAM_WALK_COMPLETE (11 R262, 06 R141): the walk of a stream TLB miss ends. -/
def execStreamWalkComplete (t : TileId) (n : Nat) (s : State) : Out := .next (s.recount (s.streamWalk t n) t n)

/-! ## Gates (10 R231, 07 R160) -/

/-- Writes back the dirty L2 lines of a record's read range, which may lie in either footprint (07 R160, 10 R230). -/
def State.cleanRange (s : State) (k : Nat) (r : FabRun) (rc : Rec) : State :=
  let ps := ((r.fpR ++ r.fpW).map (fun f => linePieces f.1 f.2)).flatten
  let lines := (ps.map (fun (p : Nat × Nat) => (List.range (p.2 / 64)).map (fun (j : Nat) => p.1 + 64 * j))).flatten
  (lines.filter (fun va => rc.covers r.bases (va / 64))).foldl (fun s va =>
    match s.mapped (k / 4) r.ctx va with
    | some pa => s.cleanL2 pa 64
    | none => s) s

/-- The PHASE of a gating barrier as a stack reads it at its home (05 R117, 10 R231); none where it is poisoned or no memory. -/
def State.gatePhase (s : State) (k ctx pa : Nat) : State × Option Nat :=
  match s.engineRead (k / 4) ctx 0x40#64 pa with
  | (s, none) => (s, none)
  | (s, some v) => (s, some (bits v 64 32))

/-- A gated record looks at its barrier. -/
def State.gateLook (s : State) (t : TileId) (n : Nat) : State :=
  match s.streamAt t n with
  | none => s
  | some (r, rc, d) =>
    let va := resolveVa r.bases rc.gbar
    if d.phase != .waiting || r.st != .running then s
    else match s.translate (.die (t.stack / 4)) r.ctx va needRd with
      | (s, .error f) => (s.streamFault t n r rc d va f)
      | (s, .ok tr) =>
        let d1 := { d with retry := false }
        let s := s.resolved t.stack r d
        match s.gatePhase t.stack r.ctx tr.pa with
        | (s, none) => (s.setStream t n d1)
        | (s, some ph) =>
          if ph = d.gate.toNat then (s.setStream t n d1)
          else
            let s := if rc.sends then s.cleanRange t.stack r rc else s
            (s.setStream t n { d1 with phase := .active, opened := true })

/-- STREAM_GATE_OPEN (10 R231): a gated record that sees its barrier's phase differ from G begins a pass. -/
def execStreamGateOpen (t : TileId) (n : Nat) (s : State) : Out := .next (s.recount (s.gateLook t n) t n)

/-! ## Passes -/

/-- What a record is after a pass (10 R231). -/
def passDone (rc : Rec) (r : FabRun) (d : StreamSt) : StreamSt :=
  let n := d.passes + 1
  { d with
    pos := 0, passes := n, opened := false, passEnd := false
    gate := if rc.gate then d.gate + 1 else d.gate
    phase := if !rc.gate || (r.passes != 0 && r.passes.toNat ≤ n) then .done else .waiting }

/-- A writing record ends its pass. -/
def State.writePass (s : State) (t : TileId) (n : Nat) : State :=
  match s.streamAt t n with
  | none => s
  | some (r, rc, d) =>
    if !d.passEnd then s
    else ((s.setStream t n (passDone rc r d)).completeTaps t.stack r)

/-- WRITE_PASS_COMPLETE (10 R231): the writes of a pass have been performed at their banks. -/
def execWritePassComplete (t : TileId) (n : Nat) (s : State) : Out := .next (s.recount (s.writePass t n) t n)

/-! ## Reads (10 R230, R232, R240) -/

/-- The value of an element at its place, from DRAM, and whether its sector is poisoned: then it reads zero. -/
def State.bankRead (s : State) (rc : Rec) (pa : Nat) (hi : Bool) : Nat × Bool :=
  if s.poisoned pa then (0, true)
  else
    let x := ofBytes ((List.range rc.bytes).map (fun j => s.dramByte (pa + j)))
    (if rc.bits = 4 then (if hi then x / 16 else x % 16) else x, false)

/-- Why filling a token ended. -/
inductive Filled where
  | ready
  | miss (va : DWord)
  | bad (err : Nat)

/-- Fetches elements into the assembly buffer until one misses or faults. -/
def fillFrom (k : Nat) (r : FabRun) (rc : Rec) (s : State) : List Int → StreamSt → StreamSt × Filled
  | [], d => (d, .ready)
  | off :: rest, d =>
    match s.streamElem k r rc off false with
    | .bad e => (d, .bad e)
    | .miss va => (d, .miss va)
    | .at_ pa =>
      let v := s.bankRead rc pa (rc.addr r.bases off).2
      fillFrom k r rc s rest { d with buf := d.buf ++ [v.1], pos := if rc.mode = 0 then d.pos + 1 else d.pos, pois := d.pois || v.2 }

/-- The payload of elements of a width. -/
def packPay (w : Nat) (l : List Nat) : BitVec 512 :=
  BitVec.ofNat 512 ((l.zip (List.range l.length)).foldl (fun a vi => a + (vi.1 % 2 ^ w) * 2 ^ (w * vi.2)) 0)

/-- The token that a full assembly buffer makes, and the record after it (10 R230, R240). -/
def readToken (rc : Rec) (r : FabRun) (d : StreamSt) : Token × StreamSt :=
  let last := d.pos % rc.blen = 0
  let tok : Token := { plainToken r.ctx with
    scl := rc.hscl, thr := rc.thr, seq := BitVec.ofNat 16 d.seq, h := d.seq = 0, t := last && !d.pois
    val := (d.buf.length * rc.bits + 15) / 16, payload := packPay rc.bits d.buf }
  let d1 := { d with buf := [], seq := if last && !d.pois then 0 else d.seq + 1, etail := last && d.pois }
  (tok, if last && !d.pois && d.pos = rc.total then passDone rc r d1 else d1)

/-- The reply to an index token (17 R375): the data in its lanes, zero beyond VAL (10 R213), with the record's thread tag and scale
(10 R229); lanes of elements wider than 32 bits are free. -/
def gatherToken (rc : Rec) (d : StreamSt) (head : Token) : Token × StreamSt :=
  let vals := if rc.bits ≤ 32 then d.buf
    else (d.buf.zip (List.range d.buf.length)).map (fun vi => (Config.wideLane vi.1 vi.2).toNat)
  let last := head.t
  let tok := { head with t := last && !d.pois, payload := BitVec.ofNat 512 ((lanesPay vals).toNat % 2 ^ (16 * head.val)), thr := rc.thr, scl := rc.hscl }
  let pos := if last then d.pos + rc.blen else d.pos
  (tok, { d with buf := [], pos := pos, seq := if last && !d.pois then 0 else d.seq + 1, etail := last && d.pois })

/-- A GATHER record whose bursts of a pass are all in ends the pass. -/
def gatherEnd (rc : Rec) (r : FabRun) (d : StreamSt) : StreamSt :=
  if rc.mode = 2 && !d.etail && d.seq = 0 && rc.total ≤ d.pos then passDone rc r d else d

/-- The E tail that a poisoned burst ends with. -/
def sendEtail (t : TileId) (n : Nat) (r : FabRun) (rc : Rec) (d : StreamSt) (s : State) : State :=
  if !s.recCredit t n rc then s
  else
    let s := s.recSend t n rc r (recTail rc r 2 d.seq)
    let d1 := { d with seq := 0, pois := false, etail := false }
    s.setStream t n (if rc.mode = 0 && d.pos = rc.total then passDone rc r d1 else gatherEnd rc r d1)

/-- Fills and sends one token of a READ record, or of a GATHER record for the index token at its input. -/
def readStep (t : TileId) (n : Nat) (r : FabRun) (rc : Rec) (d : StreamSt) (head : Option Token) (s : State) : State :=
  let k := t.stack
  match fillFrom k r rc s (readOffsets rc d head) d with
  | (d, .bad e) => (s.setStream t n d).streamFails t n r rc e
  | (d, .miss va) => s.setStream t n { d with phase := .walking, va := va }
  | (d, .ready) =>
    if !s.recCredit t n rc then s.setStream t n d
    else
      let s := s.updTile k (tileIx t) Tile.drainCatchup
      match head with
      | none =>
        let r2 := readToken rc r d
        (s.recSend t n rc r r2.1).setStream t n r2.2
      | some tok =>
        let r2 := gatherToken rc d tok
        let s := s.updTile k (tileIx t) (fun x => match x.pop (48 + n) with
          | some p => p.2
          | none => x)
        (s.recSend t n rc r r2.1).setStream t n (gatherEnd rc r r2.2)

/-- Arcs from unsealed sources into a record. -/
def Stack.recFeeds (k : Stack) (r : FabRun) (i n : Nat) : List Arc :=
  (k.arcs r).filter (fun a => tgTile a.tgt = i && tgMem a.tgt && tgSlot a.tgt = n && !r.isSealed (k.srcDomain r a.src))

/-- Whether a drain token has reached a record on every arc into it. -/
def State.recMarked (s : State) (t : TileId) (n : Nat) (r : FabRun) : Bool :=
  ((s.stackOf t.stack).recFeeds r (tileIx t) n).all (fun a => (s.tile t.stack (tileIx t)).dmarks.contains (48 + n, a.src, a.path))

/-- Drain passes a sending record at a burst boundary, or where it stands stalled or waiting (11 R259 steps 1 and 3). -/
def drainReader (t : TileId) (n : Nat) (r : FabRun) (rc : Rec) (d : StreamSt) (s : State) : State :=
  if s.recCredit t n rc then
    (s.recSend t n rc r (drainToken r.ctx)).setStream t n { d with drained := true }
  else s

/-- One event of a record that sends. -/
def State.readStream (s : State) (t : TileId) (n : Nat) : State :=
  match s.streamAt t n with
  | none => s
  | some (r, rc, d) =>
    let tl := s.tile t.stack (tileIx t)
    let q := tl.queue (48 + n)
    let boundary := d.seq = 0 && d.buf = [] && !d.etail
    if !rc.sends then s
    else if r.st = .draining && d.phase != .walking && s.recMarked t n r && (d.phase != .active || (boundary && (rc.mode = 0 || q = []))) then
      (drainReader t n r rc d s)
    else if d.phase != .active || tl.computeOff then s
    else if d.etail then (sendEtail t n r rc d s)
    else if tl.catchup.any (fun bn => 16 ≤ bn.2) then (s.updTile t.stack (tileIx t) Tile.drainCatchup)
    else if rc.mode = 0 then (readStep t n r rc d none s)
    else match q with
      | [] => s
      | tok :: _ =>
        if !tok.e then (readStep t n r rc d (some tok) s)
        else if !s.recCredit t n rc then s
        else
          let s := s.updTile t.stack (tileIx t) (fun x => match x.pop (48 + n) with
            | some p => p.2
            | none => x)
          let d1 := { d with pos := d.pos + rc.blen, seq := 0, pois := false }
          ((s.recSend t n rc r (errTail { tok with thr := rc.thr, scl := rc.hscl } tok.code d.seq)).setStream t n (gatherEnd rc r d1))

/-- READ_STREAM_TOKEN (10 R230, R238): the record sends an owed E tail, or fills and sends one token; a full catch-up
queue only drains; at a burst boundary of a draining run it stops and sends its drain token. -/
def execReadStreamToken (t : TileId) (n : Nat) (s : State) : Out := .next (s.recount (s.readStream t n) t n)

/-! ## Writes (10 R230, R232, R240) -/

/-- Stores an element at its place; a 4-bit element keeps the other nibble. -/
def State.bankWrite (s : State) (rc : Rec) (pa : Nat) (hi : Bool) (v : Nat) : State :=
  if rc.bits = 4 then
    let old := s.homeRead pa 1
    s.homeWrite true pa 1 (if hi then old % 16 + 16 * (v % 16) else old / 16 * 16 + v % 16)
  else s.homeWrite true pa rc.bytes (v % 2 ^ rc.bits)

/-- Writes elements until one misses or faults; elements past the burst are counted once (10 R230). -/
def writeFrom (k : Nat) (r : FabRun) (rc : Rec) : List (Nat × Option Int) → StreamSt → State → State × StreamSt × Filled
  | [], d, s => (s, d, .ready)
  | (_, none) :: rest, d, s =>
    let s := if d.past then s else s.mismatched k r 1
    writeFrom k r rc rest { d with past := true, ti := d.ti + 1 } s
  | (v, some off) :: rest, d, s =>
    match s.streamElem k r rc off true with
    | .bad e => (s, d, .bad e)
    | .miss va => (s, d, .miss va)
    | .at_ pa => writeFrom k r rc rest { d with bi := d.bi + 1, ti := d.ti + 1, touched := insNat d.touched ((rc.addr r.bases off).1.toNat / 16) }
        (s.bankWrite rc pa (rc.addr r.bases off).2 v)

/-- A burst's tail at a writing record (10 R230, R240): a short one is counted unless it is an E tail, and an E tail with
POISON marks every sector the burst has touched, where its address leads now. -/
def burstEnd (k : Nat) (r : FabRun) (rc : Rec) (d : StreamSt) (tok : Token) (s : State) : State × StreamSt :=
  let s := if tok.e && tok.code = 2 then
      (d.touched.foldl (fun s x => match s.translate (.stack k) r.ctx (BitVec.ofNat 64 (16 * x)) (streamNeed k true) with
        | (s, .ok t) => s.setPoison t.pa true
        | (s, .error _) => s) s).updRun k r (fun r =>
        { r with poisonsec := r.poisonsec + BitVec.ofNat 32 d.touched.length })
    else if !tok.e && rc.mode = 1 && d.bi < rc.blen then s.mismatched k r 1 else s
  let pos := d.pos + rc.blen
  (s, { d with pos := pos, bi := 0, past := false, touched := [], passEnd := rc.total ≤ pos })

/-- One event of a record that writes. -/
def State.writeStream (s : State) (t : TileId) (n : Nat) : State :=
  match s.streamAt t n with
  | none => s
  | some (r, rc, d) =>
    let k := t.stack
    let tl := s.tile k (tileIx t)
    let q := tl.queue (48 + n)
    if !rc.writes || d.passEnd then s
    else if r.st = .draining && d.phase != .walking && s.recMarked t n r && (d.phase != .active || q = []) then
      (s.setStream t n { d with drained := true })
    else if d.phase != .active || tl.computeOff then s
    else match q with
      | [] => s
      | tok :: _ =>
        match writeFrom k r rc (if tok.e then [] else writeElems rc d tok) d s with
        | (s, d, .bad e) => ((s.setStream t n d).streamFails t n r rc e)
        | (s, d, .miss va) => (s.setStream t n { d with phase := .walking, va := va })
        | (s, d, .ready) =>
          let s := s.updTile k (tileIx t) (fun x => match x.pop (48 + n) with
            | some p => p.2
            | none => x)
          let d := { d with ti := 0 }
          let e := if tok.t then burstEnd k r rc d tok s else (s, d)
          (e.1.setStream t n e.2)

/-- WRITE_STREAM_ELEMENT (10 R230, R232): the record stores the elements of the token at its input. Drain passes it when
nothing more can arrive or be stored. -/
def execWriteStreamElement (t : TileId) (n : Nat) (s : State) : Out := .next (s.recount (s.writeStream t n) t n)

/-! ## Watchdogs and errors (10 R239, R240) -/

/-- CHANNEL_WATCHDOG (10 R239): with a fabric command pending and the watchdog on when the count started (R237), the channel leaves
compute mode, the tile's accumulator and top-k store read as poisoned, its streams send E tails with WDOG, the event is logged, and the
tile's fault is contained. -/
def execChannelWatchdog (t : TileId) (s : State) : Out :=
  let i := tileIx t
  match s.moving t.stack i with
  | none => .next s
  | some r =>
    let st := s.stackOf t.stack
    let tl := st.tile i
    let busy := st.busyRecs r i
    if tl.wdKept.getD (st.fbctl.getLsbD 20) || busy = [] then .next s
    else
      let s := s.updTile t.stack i (fun x =>
        { x with computeOff := true, accPoison := BitVec.allOnes 32, topkPoison := true, fault := true, wdKept := none })
      let s := busy.foldl (fun s nr =>
        if nr.2.sends && nr.2.tgt != 0 then s.send t.stack r i (recArc t nr.1 nr.2) (recTail nr.2 r 3 (tl.stream nr.1).seq) else s) s
      let s := s.updTile t.stack i (fun x => busy.foldl (fun (x : Tile) nr => x.setStream nr.1 { x.stream nr.1 with seq := 0, buf := [] }) x)
      let s := s.logPlain (t.stack / 4) 0x0A r.ctx 0
      .next (s.tileFault t.stack r 2 i (busy.map (fun nr => st.recDomain r i nr.1)))

/-- FABRIC_ECC_ERROR (10 R240). An uncorrectable error faults the tile, which seals every domain with a node in it and the domain of
the item that failed (11 R263): at once where a run moves on the tile, else when a run starts on what the tile holds
(State.startFaults). A corrected error counts in the status word of the run that holds the tile. -/
def execFabricEccError (t : TileId) (what : EccWhat) (s : State) : Out :=
  let i := tileIx t
  let k := t.stack
  let fault := fun (s : State) (items : FabRun → List Nat) =>
    let s := s.updTile k i (fun x => { x with fault := true })
    match s.moving k i with
    | some r => s.tileFault k r 1 i (items r)
    | none => s
  match what with
  | .corrected =>
    let s := s.updTile k i (fun x => { x with ecc := x.ecc + 1 })
    match (s.stackOf k).holderAt i with
    | some r => .next (s.updRun k r (fun r => { r with eccc := r.eccc + 1 }))
    | none => .next s
  | .nodeWord n => .next (fault s (fun _ => [(s.tile k i).domain n]))
  | .streamRecord n =>
    .next (fault (s.updTile k i (fun x => { x with badRecs := insNat x.badRecs n })) (fun r => [(s.stackOf k).recDomain r i n]))
  | .paramWord => .next (fault s (fun _ => []))
  | .edgeToken q ix =>
    if ((s.tile k i).queue q).length ≤ ix then .next s
    else
      .next ((fault (s.updTile k i (fun x => (x.setQueue q (dropNth (x.queue q) ix)).settle))
        (fun r => [(s.stackOf k).keyDomain r i q])).updStack k Stack.settleCounts)
  | .accRow row => .next (fault (s.updTile k i (fun x => { x with accPoison := x.accPoison ||| (1#32 <<< row) })) (fun _ => []))
  | .topk => .next (fault (s.updTile k i (fun x => { x with topkPoison := true })) (fun _ => []))

/-- Tiles that faulted while no run moved on them, and still hold what failed, seal a run's domains when it starts (10 R240, 11 R263). -/
def State.startFaults (s : State) (k : Nat) (r : FabRun) : State :=
  r.tiles.foldl (fun s (i : Nat) =>
    let st := s.stackOf k
    let t := st.tile i
    let doms := t.slots.map (fun n => t.domain n) ++ t.badRecs.map (fun n => st.recDomain r i n)
    if t.fault && !doms.all (s.now k r).isSealed then s.tileFault k (s.now k r) 1 i (t.badRecs.map (fun n => st.recDomain r i n)) else s) s

end Sys2Proof.Machine
end

