-- ==== Sys2Proof/Machine/Images.lean ====
section
/-! DEFINITION. Configuration images and the Hamper (spec 11 R243, R252, R253, 10 R236): the header's checks, tile blocks
and tables, targets, rates, and room. -/

namespace Sys2Proof.Machine

/-- A status of a configuration instruction (11 R249): code and detail. -/
structure Status where
  code : Nat
  detail : Nat
  deriving DecidableEq, Repr

/-- The status word. -/
def Status.word (t : Status) : Word := BitVec.ofNat 32 (t.code + 256 * (t.detail % 256))

/-! ## The image (11 R243) -/

/-- The header field of n bytes at a byte offset of an image held as words. -/
def imgField (ws : List DWord) (off n : Nat) : Nat := bits (nth 0 ws (off / 8)).toNat (8 * (off % 8)) (8 * n)

/-- The fields of an image's header. -/
structure ImgHdr where
  hx : Nat
  hy : Nat
  w : Nat
  h : Nat
  nfpr : Nat
  nfpw : Nat
  nrate : Nat
  tileOff : Nat
  fpOff : Nat
  rateOff : Nat
  len : Nat
  deriving DecidableEq, Repr

/-- The header of an image. -/
def imgHdr (ws : List DWord) : ImgHdr :=
  { hx := imgField ws 8 1 % 8, hy := imgField ws 8 1 / 8 % 8, w := imgField ws 9 1, h := imgField ws 10 1
    nfpr := imgField ws 11 1 % 16, nfpw := imgField ws 11 1 / 16, nrate := imgField ws 12 2, tileOff := imgField ws 16 4
    fpOff := imgField ws 20 4, rateOff := imgField ws 24 4, len := imgField ws 28 4 }

/-- The header field that is wrong, by its offset (11 R249 FORMAT). -/
def badHeader (ws : List DWord) : Option Nat :=
  let h := imgHdr ws
  let checks : List (Nat × Bool) :=
    [(0x00, imgField ws 0 4 = 0x4B344346), (0x04, imgField ws 4 2 = 1), (0x06, imgField ws 6 2 = 0), (0x08, imgField ws 8 1 < 64),
      (0x09, 1 ≤ h.w && h.w ≤ 8), (0x0A, 1 ≤ h.h && h.h ≤ 8), (0x0B, h.nfpr ≤ 8 && h.nfpw ≤ 8), (0x0E, imgField ws 14 2 = 0),
      (0x1C, 128 ≤ h.len && h.len ≤ 131072), (0x10, 128 ≤ h.tileOff && h.tileOff ≤ h.len && h.tileOff % 8 = 0),
      (0x14, h.fpOff + 16 * (h.nfpr + h.nfpw) ≤ h.len), (0x18, h.rateOff + 8 * h.nrate ≤ h.len),
      (0x20, (List.range 8).all (fun i => nth 0 ws (4 + i) = 0))]
  (checks.find? (fun c => !c.2)).map (fun c => c.1)

/-- The bytes of an image. -/
def imgBytes (ws : List DWord) (len : Nat) : List Byte := (wordBytes ws).take len

/-- A 64-bit number at a byte offset of an image, which need not be aligned. -/
def imgWord (l : List Byte) (off : Nat) : DWord := BitVec.ofNat 64 (ofBytes ((l.drop off).take 8))

/-- n tile blocks from a word on; none where one runs past the end or has a count out of range. -/
def imgBlocks (ws : List DWord) (len : Nat) : Nat → Nat → Option (List (List DWord))
  | 0, _ => some []
  | n + 1, at_ =>
    let b := ws.drop at_
    if len < 8 * at_ + 24 || !blkCountsOk b || len < 8 * (at_ + blkLen b) then none
    else (imgBlocks ws len n (at_ + blkLen b)).map (fun rest => b.take (blkLen b) :: rest)

/-- The digest of an image: all of it but the DIGEST field (11 R243). -/
def imgDigest (l : List Byte) : BitVec 256 := digestOf (l.take 0x60 ++ l.drop 0x80)

/-- The tables of an image: footprints and rates; the offset of the header field of a malformed one (11 R249). -/
def imgTables (l : List Byte) (h : ImgHdr) : Except Nat (List (DWord × DWord) × List DWord) :=
  let fps := (List.range (h.nfpr + h.nfpw)).map (fun i => (imgWord l (h.fpOff + 16 * i), imgWord l (h.fpOff + 16 * i + 8)))
  let rates := (List.range h.nrate).map (fun i => imgWord l (h.rateOff + 8 * i))
  if fps.any (fun f => badVa f.1 || f.2 = 0 || 2 ^ 40 < f.2.toNat) then .error 0x14
  else if rates.any (fun r => r.extractLsb' 48 16 != 0) then .error 0x18
  else .ok (fps, rates)

/-! ## Targets (11 R252 check 7) -/

/-- Whether a target of the placed image names a slot with a word, or a record that is not empty. -/
def Stack.targetLands (k : Stack) (g : Nat) : Bool :=
  let t := k.tile (tgTile g)
  if tgMem g then (t.recAt (tgSlot g)).isSome else t.word (tgSlot g) != 0

/-- The first tile of a region, by its index in the region, with a target that lands nowhere. -/
def Stack.badTarget (k : Stack) (tiles : List Nat) : Option Nat :=
  ((List.range tiles.length).zip tiles).findSome? (fun ni =>
    if ((k.tile ni.2).arcs ni.2).all (fun a => k.targetLands a.tgt) then none else some ni.1)

/-! ## Rates (10 R236) -/

/-- Whether an arc obeys R218 and R233 at the tile in which it ends: a MEM target names no READ record, only a PART node of its
own tile feeds a GATHER record, and a GATHER record's target is a GATHR node. -/
def arcOk (src dst : Tile) (i : Nat) (a : Arc) : Bool :=
  if tgMem a.tgt then match dst.recAt (tgSlot a.tgt), a.src with
    | none, _ => true
    | some r, .node _ _ n => r.mode != 0 && (r.mode != 2 || (tgTile a.tgt = i && nwOp (src.word n) = 0xDA))
    | some r, .record _ _ _ => r.mode != 0 && r.mode != 2
  else match a.src with
    | .node _ _ _ => true
    | .record _ _ n => match src.recAt n with
      | some r => r.mode != 2 || nwOp (dst.word (tgSlot a.tgt)) = 0xDB
      | none => true

/-- The item of a tile's contents in which an arc begins (11 R249). -/
def srcItem : Source → Nat
  | .node _ _ n => n
  | .record _ _ n => 16 + n

/-- The item of a tile's contents that a target names. -/
def tgItem (g : Nat) : Nat := if tgMem g then 16 + tgSlot g else tgSlot g

/-- The lowest item of a tile's contents that check 7 of CFGWR refuses (11 R251): for itself, or for an arc between it and a tile of
the region that is loaded (10 R218, R233). -/
def Stack.badItem (k : Stack) (t : Tile) (i : Nat) (region : List Nat) : Option Nat :=
  let others := region.filter (fun j => j != i && (k.tile j).loaded)
  let leaving := (t.arcs i).filterMap (fun a =>
    let dst := if tgTile a.tgt = i then some t else if others.contains (tgTile a.tgt) then some (k.tile (tgTile a.tgt)) else none
    match dst with
    | some d => if arcOk t d i a then none else some (srcItem a.src)
    | none => none)
  let entering := (others.map (fun j => ((k.tile j).arcs j).filterMap (fun a =>
    if tgTile a.tgt = i && !arcOk (k.tile j) t j a then some (tgItem a.tgt) else none))).flatten
  minNat ((t.badItem i region).toList ++ leaving ++ entering)

/-- Whether an operation is STEER, MERGE or FILTER. -/
def isDynamic (op : Nat) : Bool := op = 0xD0 || op = 0xD1 || op = 0xD2

/-- An arc for the rate table: source tile and slot, target without TAPSEL, and whether it is static (else it is a stream
arc into a MEM target). -/
structure RateArc where
  src : Nat
  tgt : Nat
  static : Bool
  deriving DecidableEq, Repr

/-- A target field without TAPSEL. -/
def noTap (g : Nat) : Nat := g - 4 * tgTap g

/-- The arcs that a rate table may or must name. -/
def Stack.rateArcs (k : Stack) (tiles : List Nat) : List RateArc :=
  (tiles.map (fun (i : Nat) => ((k.tile i).arcs i).filterMap (fun a => match a.src with
    | .record _ _ _ => none
    | .node _ _ n =>
      let src := 16 * i + n
      if tgMem a.tgt then some (⟨src, noTap a.tgt, false⟩ : RateArc)
      else if isDynamic (nwOp ((k.tile i).word n)) || isDynamic (nwOp ((k.tile (tgTile a.tgt)).word (tgSlot a.tgt))) then none
      else some ⟨src, noTap a.tgt, true⟩))).flatten

/-- A rate entry placed: source, target, tokens sent and taken. -/
structure Rate where
  src : Nat
  tgt : Nat
  sent : Nat
  taken : Nat
  deriving DecidableEq, Repr

/-- A rate entry, its places advanced as the image's are (11 R246). -/
def rateOf (e : DWord) (dx dy : Nat) : Rate :=
  let mv := fun (t : Nat) => t % 2 ^ 10 + ((tgX t + dx) % 8) * 2 ^ 10 + ((tgY t + dy) % 8) * 2 ^ 13
  let s := mv (bits e.toNat 0 16)
  let d := mv (bits e.toNat 16 16)
  ⟨16 * tgTile s + tgSlot s, noTap d, bits e.toNat 32 8, bits e.toNat 40 8⟩

/-- A static arc between node numbers with its rate and the number of its entry. -/
structure Edge where
  a : Nat
  b : Nat
  num : Nat
  den : Nat
  ix : Nat
  deriving DecidableEq, Repr

/-- The nodes reached from a set in one more step along arcs. -/
def reachStep (es : List Edge) (set : List Nat) : List Nat :=
  es.foldl (fun s e => if s.contains e.a then insNat s e.b else s) set

/-- The nodes reached from a set in n steps. -/
def reachN (es : List Edge) : Nat → List Nat → List Nat
  | 0, set => set
  | n + 1, set => reachN es n (reachStep es set)

/-- One sweep that gives a potential to every node next to one that has it. -/
def potSweep (es : List Edge) (pot : List (Nat × Nat × Nat)) : List (Nat × Nat × Nat) :=
  es.foldl (fun pot e => match look? pot e.a, look? pot e.b with
    | some p, none => put pot e.b (p.1 * e.num, p.2 * e.den)
    | none, some p => put pot e.a (p.1 * e.den, p.2 * e.num)
    | _, _ => pot) pot

/-- n sweeps; where one changes nothing, the first node without a potential begins at 1. -/
def potN (es : List Edge) : Nat → List (Nat × Nat × Nat) → List (Nat × Nat × Nat)
  | 0, pot => pot
  | n + 1, pot =>
    let p2 := potSweep es pot
    let p3 := if p2.length != pot.length then p2
      else match es.find? (fun e => (look? pot e.a).isNone) with
        | some e => put pot e.a (1, 1)
        | none => pot
    potN es n p3

/-- The entry of an arc that lies on a cycle whose product of sent over taken is not 1, as no product with a rate of 0 is. -/
def badCycle (es : List Edge) : Option Nat :=
  let inner := es.filter (fun e => (reachN es es.length [e.b]).contains e.a)
  let pot := potN inner (3 * inner.length + 3) []
  (inner.find? (fun e => e.num = 0 || e.den = 0 || match look? pot e.a, look? pot e.b with
    | some p, some q => p.1 * e.num * q.2 != q.1 * p.2 * e.den
    | _, _ => false)).map (fun e => e.ix)

/-- The rate entry that R236 refuses; a static arc without an entry gives the number of entries. -/
def Stack.badRate (k : Stack) (tiles : List Nat) (rates : List Rate) : Option Nat :=
  let arcs := k.rateArcs tiles
  let ixs := (List.range rates.length).zip rates
  let names := fun (r : Rate) (a : RateArc) => a.src = r.src && a.tgt = r.tgt
  match ixs.find? (fun ir => !(ir.2.sent ≤ 8 && ir.2.taken ≤ 8 && arcs.any (names ir.2))) with
  | some ir => some ir.1
  | none =>
    if arcs.any (fun a => a.static && !rates.any (fun r => names r a)) then some rates.length
    else badCycle (ixs.filterMap (fun ir =>
      if arcs.any (fun a => a.static && names ir.2 a) then
        some (⟨ir.2.src, 16 * tgTile ir.2.tgt + tgSlot ir.2.tgt, ir.2.sent, ir.2.taken, ir.1⟩ : Edge) else none))

/-! ## The Hamper (11 R253) -/

/-- Whether a run made from an entry keeps it. -/
def Stack.referenced (k : Stack) (ix : Nat) : Bool := k.runs.any (fun r => r.entry = ix && r.st.live)

/-- Units in use. -/
def Stack.unitsUsed (k : Stack) : Nat := (k.hamper.map (fun e => e.units)).foldl (fun a b => a + b) 0

/-- The entry that gives way next: lowest priority, then the next after the round-robin pointer. -/
def Stack.victim (k : Stack) (prio : Nat) : Option HamperEntry :=
  let cands := k.hamper.filter (fun e => !k.referenced e.ix && e.prio ≤ prio)
  match minNat (cands.map (fun e => e.prio)) with
  | none => none
  | some p =>
    let eq := sortBy (fun (a b : HamperEntry) => decide (a.ix ≤ b.ix)) (cands.filter (fun e => e.prio = p))
    (eq.find? (fun e => k.hamRr ≤ e.ix)).or eq.head?

/-- Room for an image of some units: entries give way one at a time; none where no choice makes room (R253). -/
def Stack.makeRoom (units prio : Nat) : Nat → Stack → Option Stack
  | 0, k => if k.unitsUsed + units ≤ 4096 && k.hamper.length < 256 then some k else none
  | n + 1, k =>
    if k.unitsUsed + units ≤ 4096 && k.hamper.length < 256 then some k
    else match k.victim prio with
      | none => none
      | some e => Stack.makeRoom units prio n { k with hamper := k.hamper.filter (fun x => x.ix != e.ix), hamRr := (e.ix + 1) % 256 }

/-- The next generation of an index (11 R248). -/
def nextGen (l : List (Nat × Nat)) (ix : Nat) : Nat := (lookD 0 l ix + 1) % 65536

/-- A Hamper handle (11 R248). -/
def hamperHandle (k : Nat) (e : HamperEntry) : Word := BitVec.ofNat 32 (e.ix + 256 * k + 65536 * e.gen)

/-- Installs an entry at the lowest free index with its next generation. -/
def Stack.install (k : Stack) (e : HamperEntry) : Stack × HamperEntry :=
  let ix := ((List.range 256).find? (fun i => !k.hamper.any (fun x => x.ix = i))).getD 0
  let e := { e with ix := ix, gen := nextGen k.hamGen ix }
  ({ k with hamper := k.hamper ++ [e], hamGen := put k.hamGen ix e.gen }, e)

/-! ## Memory operands (11 R250) -/

/-- Reads n 64-bit words for a configuration instruction, or answers the fault code. -/
def cfgRead (p : Party) (s : State) (va : DWord) : Nat → Nat → List DWord → State × Except Nat (List DWord)
  | 0, _, acc => (s, .ok acc)
  | n + 1, i, acc =>
    let a := va + BitVec.ofNat 64 (8 * i)
    if a.toNat % 8 != 0 then (s, .error 0x05)
    else match s.resolve p a needRd with
      | (s, .error f) => (s, .error f.cause)
      | (s, .ok t) => match s.engineRead (partyDie p) (s.ctxOfParty p) t.leaf (t.pa / 16 * 16) with
        | (s, none) => (s, .error 0x1B)
        | (s, some v) => cfgRead p s va n (i + 1) (acc ++ [BitVec.ofNat 64 (bits v (8 * (t.pa % 16)) 64)])

/-- The pieces of n bytes from a VA that lie in one 16-byte sector each: address and bytes. -/
def sectorPieces (va : DWord) (n : Nat) : List (DWord × Nat) :=
  let o := va.toNat % 16
  if n = 0 then []
  else (List.range ((o + n + 15) / 16)).map (fun j =>
    let lo := if j = 0 then o else 0
    let hi := if 16 * (j + 1) ≤ o + n then 16 else o + n - 16 * j
    (va + BitVec.ofNat 64 (16 * j + lo - o), hi - lo))

/-- Reads k bytes of one sector of a context, as firmware does; none where the translation fails. A peer is asked, and a place that has no
memory answers a violation, as for an engine (13 R295, R300); poisoned bytes are free (DESIGN CHOICE, log entry 16). -/
def State.readPiece (s : State) (die ctx : Nat) (va : DWord) (k : Nat) : State × Option (List Byte) :=
  let free := fun (s : State) => (({ s with fresh := s.fresh + k } : State), some ((List.range k).map (fun i => Config.poisonByte (s.fresh + i))))
  match s.translate (.die die) ctx va needRd with
  | (s, .error _) => (s, none)
  | (s, .ok t) =>
    if ownMemory t.pa then
      (if s.poisoned t.pa then free s else (s, some ((List.range k).map (fun i => s.byte (t.pa + i)))))
    else match s.engineRead die ctx t.leaf (t.pa / 16 * 16) with
      | (s, none) => free s
      | (s, some v) => (s, some ((List.range k).map (fun i => BitVec.ofNat 8 (bits v (8 * (t.pa % 16 + i)) 8))))

/-- Reads pieces of a context in order, up to one that fails. -/
def readPieces (die ctx : Nat) : List (DWord × Nat) → State → List Byte → State × Option (List Byte)
  | [], s, acc => (s, some acc)
  | p :: ps, s, acc => match s.readPiece die ctx p.1 p.2 with
    | (s, none) => (s, none)
    | (s, some l) => readPieces die ctx ps s (acc ++ l)

/-- Reads n bytes of a context from a VA, as firmware does; none where a translation fails. -/
def State.readVa (s : State) (die ctx : Nat) (va : DWord) (n : Nat) : State × Option (List Byte) :=
  readPieces die ctx (sectorPieces va n) s []

end Sys2Proof.Machine
end

