-- ==== Sys2Proof/Machine/Slh.lean ====
section
/-! DEFINITION. Verification of an SLH-DSA-SHA2-128s signature (spec 11 R242), which the spec names and FIPS 205 gives: n = 16 bytes,
7 layers of trees of height 9, 14 FORS trees of height 12, chains of 16 steps. The signature is of the pure form with an empty context
(PRESUMED, log entry 11). -/

namespace Sys2Proof.Machine

/-- An address of FIPS 205 in its short form: layer, tree, type, and three words. -/
structure SlhAdrs where
  layer : Nat
  tree : Nat
  ty : Nat
  w1 : Nat
  w2 : Nat
  w3 : Nat
  deriving DecidableEq, Repr

/-- The n bytes of a number, most significant first. -/
def beBytes (n x : Nat) : List Byte := (toBytes n x).reverse

/-- The 22 bytes of an address. -/
def SlhAdrs.bytes (a : SlhAdrs) : List Byte :=
  beBytes 1 a.layer ++ beBytes 8 a.tree ++ beBytes 1 a.ty ++ beBytes 4 a.w1 ++ beBytes 4 a.w2 ++ beBytes 4 a.w3

/-- The functions F, H and T of FIPS 205: a hash keyed by the public seed and an address. -/
def slhHash (seed : List Byte) (a : SlhAdrs) (m : List Byte) : List Byte :=
  (sha256 (seed ++ List.replicate 48 0 ++ a.bytes ++ m)).take 16

/-- The first n digits of b bits of a string, most significant first. -/
def slhDigits (b n : Nat) (l : List Byte) : List Nat :=
  (List.range n).map (fun i => bigEndian l / 2 ^ (8 * l.length - b * (i + 1)) % 2 ^ b)

/-- Part i of a string of 16-byte parts. -/
def slhPart (l : List Byte) (i : Nat) : List Byte := (l.drop (16 * i)).take 16

/-- s steps of a chain from step i on. -/
def slhChain (seed : List Byte) (a : SlhAdrs) : Nat → Nat → List Byte → List Byte
  | 0, _, x => x
  | s + 1, i, x => slhChain seed a s (i + 1) (slhHash seed { a with w3 := i } x)

/-- Climbs a tree from a node of an index along an authentication path. -/
def slhClimb (seed : List Byte) (a : SlhAdrs) (auth : List Byte) : Nat → Nat → Nat → List Byte → List Byte
  | 0, _, _, x => x
  | n + 1, j, ix, x =>
    let y := slhPart auth j
    slhClimb seed a auth n (j + 1) (ix / 2) (slhHash seed { a with w2 := j + 1, w3 := ix / 2 } (if ix % 2 = 0 then x ++ y else y ++ x))

/-- The FORS public key of a signature part and a message digest. -/
def slhFors (seed sig md : List Byte) (tree leaf : Nat) : List Byte :=
  let a : SlhAdrs := ⟨0, tree, 3, leaf, 0, 0⟩
  let roots := ((List.range 14).zip (slhDigits 12 14 md)).map (fun (id : Nat × Nat) =>
    let part := sig.drop (16 * 13 * id.1)
    let ix := 4096 * id.1 + id.2
    slhClimb seed a (part.drop 16) 12 0 ix (slhHash seed { a with w3 := ix } (part.take 16)))
  slhHash seed ⟨0, tree, 4, leaf, 0, 0⟩ roots.flatten

/-- The one-time public key of a signature part and a message of 16 bytes. -/
def slhWots (seed sig m : List Byte) (layer tree leaf : Nat) : List Byte :=
  let d := slhDigits 4 32 m
  let sum := (d.map (fun x => 15 - x)).foldl (fun a b => a + b) 0
  let all := d ++ slhDigits 4 3 (beBytes 2 (16 * sum))
  let ends := ((List.range 35).zip all).map (fun (id : Nat × Nat) =>
    slhChain seed ⟨layer, tree, 0, leaf, id.1, 0⟩ (15 - id.2) id.2 (slhPart sig id.1))
  slhHash seed ⟨layer, tree, 1, leaf, 0, 0⟩ ends.flatten

/-- The root that n more layers of the hypertree give for a node. -/
def slhRoot (seed : List Byte) : Nat → Nat → Nat → Nat → List Byte → List Byte → List Byte
  | 0, _, _, _, _, x => x
  | n + 1, layer, tree, leaf, sig, x =>
    let top := slhClimb seed ⟨layer, tree, 2, 0, 0, 0⟩ (sig.drop (16 * 35)) 9 0 leaf (slhWots seed sig x layer tree leaf)
    slhRoot seed n (layer + 1) (tree / 512) (tree % 512) (sig.drop (16 * 44)) top

/-- The 30 bytes of the message digest. -/
def slhDigest (r seed root m : List Byte) : List Byte :=
  (sha256 (r ++ seed ++ sha256 (r ++ seed ++ root ++ m) ++ beBytes 4 0)).take 30

/-- Whether a signature of 7,856 bytes verifies for a public key of 32 bytes, its seed and its root. -/
def slhVerify (key m sig : List Byte) : Bool :=
  let seed := key.take 16
  let root := (key.drop 16).take 16
  let dig := slhDigest (sig.take 16) seed root (0 :: 0 :: m)
  let tree := bigEndian ((dig.drop 21).take 7) % 2 ^ 54
  let leaf := bigEndian ((dig.drop 28).take 2) % 2 ^ 9
  let fors := slhFors seed (sig.drop 16) (dig.take 21) tree leaf
  slhRoot seed 7 0 tree leaf (sig.drop 2928) fors = root

end Sys2Proof.Machine
end

