-- ==== Sys2Proof/Machine/Window.lean ====
section
/-! DEFINITION. The register window, the commands on groups, the trap queue, breakpoint reload, the fatal causes, and the
invalidations of translations and of cached code (spec 12 R267 to R276, R285, R286; 06 R143, R144; 03 R70; 15 R331). -/

namespace Sys2Proof.Machine

/-- A Ranger's registers. -/
def State.rg (s : State) (r : Nat) : Ranger := nth Ranger.blank s.rangers r

/-- Replaces a Ranger. -/
def State.setRg (s : State) (r : Nat) (x : Ranger) : State := { s with rangers := setNth s.rangers r x }

/-- Whether a number names a Ranger. -/
def State.isRanger (s : State) (r : Nat) : Bool := decide (r < s.rangers.length)

/-- The group in a Ranger's SYS.WSEL, if it is resident on the Ranger's die and has a live lane (12 R271). -/
def State.selected (s : State) (r : Nat) : Option (Handle × Group) :=
  let w := (s.rg r).wsel
  let h := handleOf w
  if w.getLsbD 15 && h.core < 192 && coreDie h.core = partyDie (.ranger r) then
    match s.grp? (.group h) with
    | some g => if g.live = 0 then none else some (h, g)
    | none => none
  else none

/-! ## Window items (12 R272, R273) -/

/-- Codes of SYS.WSTAT (12 R271). -/
inductive WCode where
  | ok | nogroup | running | busy | badaddr | ronly | badtable | fatal | badcmd | nosave
  deriving DecidableEq, Repr

/-- The value of a window code. -/
def WCode.val (c : WCode) : Word :=
  match c with
  | .ok => 0
  | .nogroup => 1
  | .running => 2
  | .busy => 3
  | .badaddr => 4
  | .ronly => 5
  | .badtable => 6
  | .fatal => 7
  | .badcmd => 8
  | .nosave => 9

/-- Writes word f of an entry. -/
def Entry.setItem (e : Entry) (f : Nat) (v : Word) : Entry :=
  match f with
  | 0 => { e with pc := setHalf e.pc false v }
  | 1 => { e with pc := setHalf e.pc true v }
  | 2 => { e with mask := v }
  | _ => { e with st := entryStOf v.toNat, pm := v.extractLsb' 2 4, df := v.getLsbD 6, valid := v.getLsbD 7 }

/-- Whether an item is read-only (12 R272). -/
def itemReadOnly (a : Nat) : Bool :=
  (0x4120 ≤ a && a < 0x4128) || a = 0x4207 || (0x4500 ≤ a && a < 0x4510) || a = 0x4600 || a = 0x4604

/-- Writes full bits of n registers from a base; none where a producer is in flight for one of them (12 R273). -/
def putFull (empty : List Nat) (base n : Nat) (v : Word) (pending : Nat → Bool) : Option (List Nat) :=
  if (List.range n).any (fun i => pending (base + i)) then none
  else some ((List.range n).foldl (fun l i => if v.getLsbD i then l.filter (fun r => r != base + i) else insNat l (base + i)) empty)

/-- Writes a window item of a stopped group (12 R272, R273). -/
def Group.setItem (g : Group) (privMax a : Nat) (v : Word) : WCode × Group :=
  if itemReadOnly a then (.ronly, g)
  else if a < 0x4000 then
    if g.alloc ≤ a / 32 then (.badaddr, g)
    else if g.vPending (a / 32) then (.busy, g)
    else (.ok, g.vset (a / 32) (a % 32) v)
  else if a < 0x4040 then (if g.sPending (a - 0x4000) then (.busy, g) else (.ok, g.sset (a - 0x4000) v))
  else if 0x4100 ≤ a && a < 0x4110 then
    let b := 32 * (a - 0x4100)
    if g.alloc ≤ b then (.badaddr, g)
    else match putFull g.vEmpty b (if g.alloc < b + 32 then g.alloc - b else 32) v g.vPending with
      | some l => (.ok, { g with vEmpty := l })
      | none => (.busy, g)
  else if 0x4110 ≤ a && a < 0x4112 then
    match putFull g.sEmpty (32 * (a - 0x4110)) 32 v g.sPending with
    | some l => (.ok, { g with sEmpty := l })
    | none => (.busy, g)
  else if 0x4200 ≤ a && a < 0x4207 then (.ok, { g with preds := setNth g.preds (a - 0x4200) (v &&& g.live) })
  else if 0x4210 ≤ a && a < 0x421C then (.ok, { g with masks := setNth g.masks (a - 0x4210) (v &&& g.live) })
  else if 0x4300 ≤ a && a < 0x4340 then
    let n := (a - 0x4300) / 8
    let sh := 32 * (a % 8)
    let old := nth 0 g.gens n
    (.ok, { g with gens := setNth g.gens n ((old &&& ~~~(0xFFFFFFFF#256 <<< sh)) ||| (v.setWidth 256 <<< sh)) })
  else if 0x4400 ≤ a && a < 0x4480 then
    let n := (a - 0x4400) / 4
    let tab := g.tab ++ List.replicate (n + 1 - g.tab.length) Entry.none_
    (.ok, { g with tab := setNth tab n ((nth Entry.none_ tab n).setItem (a % 4) v) })
  else if a = 0x4601 then (.ok, { g with phwm := if privMax < v.toNat then BitVec.ofNat 32 privMax else v })
  else if a = 0x4602 then (.ok, { g with fpflags := v.setWidth 8 })
  else if a = 0x4603 then (.ok, { g with mxflags := v.setWidth 8 })
  else if 0x4700 ≤ a && a < 0x4740 then
    let l := (a - 0x4700) / 2
    (.ok, { g with wids := setNth g.wids l (setHalf (nth 0 g.wids l) (a % 2 = 1) v) })
  else (.badaddr, g)

/-- PRIVMAX of a group's launch. -/
def State.privMaxOf (s : State) (h : Handle) : Nat := ((s.blockOf h).map (fun b => (s.hdrOfBlock b).privMax)).getD 0

/-- Advances SYS.WADDR after an access and records its code. -/
def State.windowDone (s : State) (r : Nat) (c : WCode) : State :=
  s.setRg r { s.rg r with waddr := (s.rg r).waddr + 1, wstat := c.val }

/-- A read of SYS.WDATA (12 R270, R272). -/
def State.winRead (s : State) (r : Nat) : State × Word :=
  match s.selected r with
  | none => (s.windowDone r .nogroup, 0)
  | some (_, g) =>
    if !g.stopped then (s.windowDone r .running, 0)
    else match g.item (s.rg r).waddr.toNat with
      | some v => (s.windowDone r .ok, v)
      | none => (s.windowDone r .badaddr, 0)

/-- A write of SYS.WDATA (12 R270, R272, R273). -/
def State.winWrite (s : State) (r : Nat) (v : Word) : State :=
  match s.selected r with
  | none => s.windowDone r .nogroup
  | some (h, g) =>
    if !g.stopped then s.windowDone r .running
    else
      let q := g.setItem (s.privMaxOf h) (s.rg r).waddr.toNat v
      (s.setGrp (.group h) q.2).windowDone r q.1

/-- WINDOW_READ (12 R272). -/
def execWindowRead (r : Nat) (s : State) : Out := .next (if s.isRanger r then (s.winRead r).1 else s)
/-- WINDOW_WRITE (12 R273). -/
def execWindowWrite (r : Nat) (v : BitVec 32) (s : State) : Out := .next (if s.isRanger r then s.winWrite r v else s)

/-! ## Commands (12 R274, R286) -/

/-- STOP: a group at a run boundary stops at once. -/
def Group.stop (g : Group) : Group :=
  if g.stopped then g else if g.run.isNone then { g with stopped := true } else { g with stopReq := true }

/-- Why TRAPRET or STEP of a selected group is refused (12 R275, R276, R286). -/
def Group.resumeCode (g : Group) : WCode :=
  if !g.stopped then .running
  else if g.trap.any (fun t => t.fatal) then .fatal
  else if twice g.live g.tab then .badtable
  else .ok

/-- TRAPRET of the selected group (12 R275). -/
def State.trapReturn (s : State) (r : Nat) : State :=
  match s.selected r with
  | none => s.setWstat r WCode.nogroup.val
  | some (h, g) =>
    let s := s.setWstat r g.resumeCode.val
    if g.resumeCode = .ok then s.resumeGroup h else s

/-- STOP of the selected group. -/
def State.stopSelected (s : State) (r : Nat) : State :=
  match s.selected r with
  | none => s.setWstat r WCode.nogroup.val
  | some (h, g) => (s.setGrp (.group h) g.stop).setWstat r WCode.ok.val

/-- STEP of the selected group: resumption, then one word (12 R286). -/
def State.stepSelected (s : State) (r : Nat) : State :=
  match s.selected r with
  | none => s.setWstat r WCode.nogroup.val
  | some (h, g) =>
    let s := s.setWstat r g.resumeCode.val
    if g.resumeCode = .ok then
      let s := s.resumeGroup h
      match s.grp? (.group h) with
      | some q => s.setGrp (.group h) { q with stepping := true }
      | none => s
    else s

/-- Every live lane of a group exits without executing, and the handle is logged (12 R274). -/
def State.terminate (s : State) (h : Handle) : State :=
  match s.grp? (.group h) with
  | none => s
  | some g =>
    let s := s.logOne (coreDie h.core) 0x0B (s.ctxOfParty (.group h)) 0 ((handleCode h).setWidth 64)
    let s := s.withdraw [h]
    let g := { g.exitLanes g.live with trap := none, stopped := false, stopReq := false, stepping := false, run := none }
    (s.setGrp (.group h) g).afterExit h

/-- TERMINATE of the selected group. -/
def State.terminateSelected (s : State) (r : Nat) : State :=
  match s.selected r with
  | none => s.setWstat r WCode.nogroup.val
  | some (h, _) => (s.terminate h).setWstat r WCode.ok.val

/-- PREEMPT of the selected group's cluster set (12 R274, R278): SYS.WSTAT is written when the save has ended. Where a save of the set
has begun already, the Ranger joins those that it answers, and the set is held if any of them asked so (DESIGN CHOICE, log entry 88). -/
def State.preemptSelected (s : State) (r : Nat) (hold : Bool) : State :=
  match s.selected r with
  | none => s.setWstat r WCode.nogroup.val
  | some (h, _) =>
    match s.blockOf h with
    | none => s.setWstat r WCode.nogroup.val
    | some b =>
      let mine := fun (o : SaveOp) => o.launch = b.launch && o.cset = b.cset
      if s.sched.saveOps.any mine then
        { s with sched.saveOps := updFirst mine (fun o => { o with by_ := o.by_ ++ [r], hold := o.hold || hold }) s.sched.saveOps }
      else s.beginSave b.launch b.cset [r] hold

/-- RELEASE of the saved cluster set whose ticket is in SYS.WADDR (12 R274). -/
def State.releaseTicket (s : State) (r : Nat) : State :=
  let t := (s.rg r).waddr.setWidth 16
  let mine := fun (v : SavedSet) => v.ticket = t && !v.restoring
  if s.sched.saved.any mine then
    State.setWstat { s with sched.saved := updFirst mine (fun v => { v with hold := false, resumable := true }) s.sched.saved } r WCode.ok.val
  else s.setWstat r WCode.nogroup.val

/-- A write of SYS.WCMD (12 R274). -/
def State.wcmd (s : State) (r : Nat) (v : Word) : State :=
  match v.toNat % 16 with
  | 0 => s
  | 1 => s.stopSelected r
  | 2 => s.stepSelected r
  | 3 => s.terminateSelected r
  | 4 => s.preemptSelected r (v.getLsbD 4)
  | 5 => s.releaseTicket r
  | _ => s.setWstat r WCode.badcmd.val

/-- STOP (12 R274). -/
def execStopCmd (r : Nat) (s : State) : Out := .next (if s.isRanger r then s.stopSelected r else s)
/-- STEP (12 R286). -/
def execStepCmd (r : Nat) (s : State) : Out := .next (if s.isRanger r then s.stepSelected r else s)
/-- TERMINATE (12 R274). -/
def execTerminateCmd (r : Nat) (s : State) : Out := .next (if s.isRanger r then s.terminateSelected r else s)
/-- PREEMPT (12 R274). -/
def execPreemptCmd (r : Nat) (hold : Bool) (s : State) : Out := .next (if s.isRanger r then s.preemptSelected r hold else s)
/-- RELEASE (12 R274). -/
def execReleaseCmd (r : Nat) (s : State) : Out := .next (if s.isRanger r then s.releaseTicket r else s)
/-- A reserved command code (12 R274). -/
def execWcmdBadcmd (r : Nat) (v : BitVec 32) (s : State) : Out :=
  .next (if s.isRanger r && 6 ≤ v.toNat % 16 then s.setWstat r WCode.badcmd.val else s)

/-! ## The trap queue, breakpoint reload, the clock -/

/-- A read of SYS.TQTAKE (12 R269). -/
def State.tqTake (s : State) (r : Nat) : State × Word :=
  let d := partyDie (.ranger r)
  match nth [] s.plat.trapq d with
  | [] => (s, 0xFFFFFFFF)
  | h :: t => ({ s with plat.trapq := setNth s.plat.trapq d t }, (handleCode h).setWidth 32)

/-- TQTAKE (12 R269): the oldest handle leaves the queue. -/
def execTqtake (r : Nat) (s : State) : Out := .next (if s.isRanger r then (s.tqTake r).1 else s)

/-- A write of SYS.DBSYNC (12 R285). -/
def State.dbsync (s : State) (ctx : Nat) : State :=
  { s with blocks := s.blocks.map (fun b => if (s.hdrOfBlock b).ctx = ctx then { b with bkReload := true } else b) }

/-- DBSYNC (12 R285). -/
def execDbsync (r : Nat) (v : BitVec 32) (s : State) : Out := .next (if s.isRanger r then s.dbsync (v.toNat % 256) else s)

/-- Where a party's clock latch is held: its core, its Ranger, or its unit (15 R330). -/
def clkKey : Party → Nat
  | .group h => h.core
  | .ranger n => 1000 + n
  | .wave u _ => 2000 + 16 * u.die + u.unit

/-- A read of SYS.CLKLO: the low word, with the high word latched (15 R330, R331). -/
def State.clkLo (s : State) (p : Party) : State × Word :=
  let c := Config.clock s.fresh
  ({ s with dev.clkhi := put s.dev.clkhi (clkKey p) (c.extractLsb' 32 32), fresh := s.fresh + 1 }, c.setWidth 32)

/-- CLKLO_READ (15 R331). -/
def execClkloRead (p : Party) (s : State) : Out := .next (if (s.grp? p).isSome then (s.clkLo p).1 else s)

/-! ## Fatal causes (12 R267) -/

/-- The entry at which a party stands: that of its run, else its head, else the entry of lowest PC. -/
def Group.standing (g : Group) : Option Entry :=
  match g.run with
  | some r => g.tab.find? (fun e => e.pc = r.pc && e.st = .ready)
  | none => match g.head with
    | .entry e => some e
    | _ => lowest g.tab

/-- The word that stands at an entry: from the copy of its run, or as it is in memory; 0 where it cannot be had. -/
def State.wordOf (s : State) (p : Party) (g : Group) (e : Entry) : DWord :=
  match g.run.bind (fun r => (r.code.drop r.words).head?), p with
  | some w, _ => w
  | none, .group h => (s.wordAt h e.pc).getD 0
  | none, _ => match s.fetch p e.pc with
    | (_, .ok w) => w
    | (_, .error _) => 0

/-- The word at which a party stands, with the lanes that execute it: those of its entry, and of a uniform word all live lanes (03
R71). -/
def State.siteHere (s : State) (p : Party) (g : Group) : Option Site :=
  g.standing.map (fun e =>
    let w := s.wordOf p g e
    ⟨e.pc, w, if !w.getLsbD 62 && isUniform (w.extractLsb' 54 8).toNat then g.live else e.mask, []⟩)

/-- The first VAs that a word accesses: each lane's of LD, ST and ATOM, and that of a record, a header or a segment. -/
def wordVas (x : Issue) (i : Instr) (s : State) : List DWord :=
  let lanes := fun (f : FmtM) (off : DWord) (n : Nat) (write : Bool) =>
    (laneAddrs f.fn f.av.toNat off n write x s).filterMap (fun a => a.2.toOption)
  match i with
  | .ld f => lanes f (sext64 f.off) (szBytes (fnSz f.fn)) false
  | .st f => lanes f (sext64 f.off) (szBytes (fnSz f.fn)) true
  | .atom f => lanes f (atomOff f) (atomBytes (atomOp f)) true
  | .cstore f => [x.g.spair f.sa.toNat]
  | .bcopy f => [x.g.spair f.sa.toNat]
  | .bgather f => [x.g.spair f.sa.toNat]
  | .tierin f => [x.g.spair f.sa.toNat]
  | .tierout f => [x.g.spair f.sa.toNat]
  | _ => []

/-- Whether a party's run stands at a word that waits for the owner of the line at a VA which it accesses (07 R156, 09 R200). -/
def State.awaitsLine (s : State) (p : Party) (g : Group) (y : Site) (va : DWord) : Bool :=
  g.run.isSome && match decode y.word with
  | none => false
  | some i =>
    let code : BitVec 4 := ((hdrOf i).map (fun h => h.g)).getD 7
    let x : Issue := { party := p, pc := y.pc, mask := y.lanes, df := false, word := y.word, b := false, op := 0, g := g
                       active := guardLanes g code y.lanes, ctx := s.ctxOfParty p }
    (wordVas x i s).contains va && match s.resolve p va ⟨false, false, false, none⟩ with
      | (s, .ok t) => s.mustWait p t 1 false
      | _ => false

/-- The word of a party whose access at a VA has had no answer: that of a producer in flight, or the word at which it stands. -/
def State.unanswered (s : State) (p : Party) (g : Group) (va : DWord) : Option Site :=
  ((g.pend.filterMap (fun q => q.site)).find? (fun y => y.vas.contains va)).or
    ((s.siteHere p g).filter (fun y => s.awaitsLine p g y va))

/-- Raises a fatal cause at a word of a party that is not stopped already. -/
def State.raiseFatal (s : State) (p : Party) (c : Cause) (site : Group → Option Site) : State :=
  match s.grp? p with
  | none => s
  | some g =>
    if g.stopped || g.live = 0 then s
    else match site g with
      | none => s
      | some y => s.raise p c (y.lanes &&& g.live) y.pc y.word

/-- WATCHDOG (12 R267, 09 R459): the word is the one whose access at this VA has had no answer; without such an access nothing
happens. -/
def execWatchdog (p : Party) (va : BitVec 64) (s : State) : Out :=
  .next (s.raiseFatal p ⟨0x15, 0, va, 0⟩ (fun g => s.unanswered p g va))

/-- ECCFATAL (12 R267, R269; 09 R459): the word is the one at which the party stands. -/
def execEccfatal (p : Party) (what : BitVec 2) (s : State) : Out :=
  .next (s.raiseFatal p ⟨0x14, 0, 0, what.setWidth 64⟩ (fun g => s.siteHere p g))

/-! ## Invalidation of code and of translations -/

/-- ICINV_COMPLETE (03 R70, 17 R390): cached words of the range leave every core and loop buffer, then the status is written. The
ICINVs of one group complete in issue order. -/
def execIcinvComplete (id : Nat) (s : State) : Out :=
  match s.icinvs.find? (fun o => o.id = id) with
  | none => .next s
  | some o =>
    if s.icinvs.any (fun y => y.party = o.party && y.blk = o.blk && y.id < o.id) then .next s
    else
    let hit := fun (va : DWord) => o.lo ≤ va.toNat && va.toNat < o.hi
    let s := { s with
      icinvs := s.icinvs.filter (fun y => y.id != id)
      code := s.code.filter (fun c => !(c.ctx = o.ctx && hit c.va))
      loops := s.loops.filter (fun l => !(l.ctx = o.ctx && (List.range l.words.length).any (fun i => hit (l.start + BitVec.ofNat 64 (8 * i))))) }
    let here : Bool := match o.party with
      | .group h => decide (((s.blockOf h).map (fun b => b.uid)) = some o.blk)
      | _ => true
    match s.grp? o.party with
    | none => .next s
    | some g => match g.pend.find? (fun q => q.id = id && q.kind = .icinv) with
      | some q => .next (if here then s.setGrp o.party (g.complete q) else s)
      | none => .next s

/-- Bits of SYS.TLBICMD that software writes: CTX, LOG2N, WALK, GLB, MODE. -/
def tlbiFields : Word := 0x00FF07FC

/-- SYS.TLBICMD as read (06 R143). -/
def State.tlbiWord (s : State) : Word := s.dev.tlbicmd ||| (if s.dev.tlbiRun.isSome then 0x80000000#32 else 0)

/-- A write of SYS.TLBICMD (06 R143). -/
def State.tlbiWrite (s : State) (v : Word) : State :=
  let busy := s.dev.tlbiRun.isSome
  if v.getLsbD 0 && (busy || v.extractLsb' 2 2 = 3#2) then { s with dev.tlbicmd := s.dev.tlbicmd ||| 2#32 }
  else
    let err := if v.getLsbD 1 then 0#32 else s.dev.tlbicmd &&& 2#32
    let w := (v &&& tlbiFields) ||| err
    { s with dev.tlbicmd := w, dev.tlbiRun := if v.getLsbD 0 then some (w, s.dev.tlbivahi ++ s.dev.tlbivalo) else s.dev.tlbiRun }

/-- Drops what a command names (06 R143). -/
def State.tlbiDrop (s : State) (w : Word) (base : DWord) : State :=
  let n := bits w.toNat 6 5
  let glb := w.getLsbD 4
  let wk := w.getLsbD 5
  let ctx := bits w.toNat 16 8
  match bits w.toNat 2 2 with
  | 0 => s.invalidate (some ctx) (base.toNat / 2 ^ (12 + n) * 2 ^ (12 + n)) (2 ^ (12 + n)) glb wk
  | 1 => s.invalidate (some ctx) 0 (2 ^ 64) glb wk
  | _ => s.invalidate none 0 (2 ^ 64) glb wk

/-- A command of one mode with GO set. -/
def tlbiGo (mode r : Nat) (v : Word) (s : State) : State :=
  if s.isRanger r && v.getLsbD 0 && bits v.toNat 2 2 = mode then s.tlbiWrite v else s

/-- TLBI_RANGE (06 R143). -/
def execTlbiRange (r : Nat) (v : BitVec 32) (s : State) : Out := .next (tlbiGo 0 r v s)
/-- TLBI_CONTEXT (06 R143). -/
def execTlbiContext (r : Nat) (v : BitVec 32) (s : State) : Out := .next (tlbiGo 1 r v s)
/-- TLBI_ALL (06 R143). -/
def execTlbiAll (r : Nat) (v : BitVec 32) (s : State) : Out := .next (tlbiGo 2 r v s)

/-- Whether a batch holds a window that may have been translated through an entry that a command drops; it has still to write it (09
R200). An entry that merely overlaps the range is dropped, and may have left the structures before the command ends, so that a window
counts wherever in 1 GiB, which is the most a leaf maps (06 R130), it lies: BUSY may last longer than it must (log entry 47). -/
def State.tlbiHeld (s : State) (w : Word) (base : DWord) : Bool :=
  let n := bits w.toNat 6 5
  let ctx := bits w.toNat 16 8
  let lo := base.toNat / 2 ^ (12 + n) * 2 ^ (12 + n)
  let meets := fun (v : Wave) => v.windowVa.toNat / 2 ^ 30 * 2 ^ 30 < lo + 2 ^ (12 + n)
    && lo < (v.windowVa.toNat + v.size + 2 ^ 30 - 1) / 2 ^ 30 * 2 ^ 30
  s.potluck.waves.any (fun v => match bits w.toNat 2 2 with
    | 0 => (v.ctx = ctx || w.getLsbD 4) && meets v
    | 1 => v.ctx = ctx || w.getLsbD 4
    | _ => true)

/-- TLBI_COMPLETE (06 R144): every entry is dropped, and every access translated through one has been performed. -/
def execTlbiComplete (s : State) : Out :=
  match s.dev.tlbiRun with
  | none => .next s
  | some (w, b) => if s.tlbiHeld w b then .next s else .next (State.tlbiDrop { s with dev.tlbiRun := none } w b)

end Sys2Proof.Machine
end

