-- ==== Sys2Proof/Machine/Configs.lean ====
section
/-! DEFINITION. The configuration instructions and the life of a run (spec 11 R247 to R261, R264), the Ranger's control of
tiles and runs (R262, R265), and the fabric services of the firmware (R242). -/

namespace Sys2Proof.Machine

/-! ## Statuses (11 R249) -/

/-- Ends a configuration word with a status, and a handle in the pair's second register (0 unless the status is OK). -/
def cfgReply (x : Issue) (dst : Nat) (t : Status) (handle : Option Word) (mx : Flags) (s : State) : State :=
  let g := (s.grp? x.party).getD x.g
  let p := Producer.mk0 s.fresh .cfgStatus
  let p := match handle with
    | none => { p with sregs := [dst], swrites := [(dst, t.word)], mx := mx }
    | some h => { p with sregs := [dst, dst + 1], swrites := [(dst, t.word), (dst + 1, if t.code = 0 then h else 0)], mx := mx }
  retire x (g.issue p) s.next

/-- CFGFAULT of a word: AUX is the word it names (11 R250). -/
def cfgFault (x : Issue) (w : Word) (s : State) : State := trapWord x ⟨0x13, 0, 0, w.setWidth 64⟩ x.g.live s

/-- A configuration word: its memory operands are read after every earlier access of the group (11 R250, 07 R155). -/
def cfgWord (i : Instr) (body : Issue → State → State) (s : State) : Out :=
  laneWord i (fun x s => body x (s.release (partyCore x.party) .device)) s

/-! ## CFGWR (11 R251) -/

/-- A live run of a region. -/
def Stack.liveRun (k : Stack) (rid : Nat) : Option FabRun := k.runs.find? (fun r => r.rid = rid && r.st.live)

/-- The tiles that share a tile's owner entry. -/
def Stack.regionOf (k : Stack) (i : Nat) : List Nat :=
  (List.range 64).filter (fun j => (k.tile j).ownV && (k.tile j).ownRid = (k.tile i).ownRid && (k.tile j).ownCtx = (k.tile i).ownCtx)

/-- Erases tiles. -/
def State.eraseTiles (s : State) (k : Nat) (l : List Nat) : State := l.foldl (fun s i => s.updTile k i Tile.erase) s

/-- The load of a block into an erased tile: checks 3 to 7 in order. -/
def loadTile (p : Party) (k i : Nat) (va : DWord) (cnt : Nat) (s : State) : State × Status :=
  let s := s.updTile k i Tile.erase
  match cfgRead p s va (if cnt < 3 then cnt else 3) 0 [] with
  | (s, .error c) => (s, ⟨0x04, c⟩)
  | (s, .ok head) =>
    if cnt < 3 || 185 < cnt || !blkCountsOk head || cnt != blkLen head then (s, ⟨0x02, 0⟩)
    else match cfgRead p s va (cnt - 3) 3 head with
      | (s, .error c) => (s, ⟨0x04, c⟩)
      | (s, .ok ws) =>
        if blockCrc ws != blkCrc ws then (s, ⟨0x01, 0⟩)
        else
          let t := (s.tile k i).load ws
          match (s.stackOf k).badItem t i ((s.stackOf k).regionOf i) with
          | some n => (s, ⟨0x03, n⟩)
          | none => (s.updTile k i (fun _ => t), ⟨0, 0⟩)

/-- CFGWR (11 R251). -/
def execCfgwr (f : FmtV) (s : State) : Out :=
  cfgWord (.cfgwr f) (fun x s =>
    let tw := x.g.sget f.sc.toNat
    let cnt := (x.g.sget f.sb.toNat).toNat
    let k := bits tw.toNat 6 3
    let i := 8 * bits tw.toNat 3 3 + bits tw.toNat 0 3
    let t := s.tile k i
    if tw.extractLsb' 9 23 != 0 || !t.ownV || t.ownCtx != x.ctx then cfgFault x tw s
    else match (s.stackOf k).liveRun t.ownRid with
      | some r => cfgReply x f.dst.toNat ⟨0x05, r.st.val⟩ none 0 s
      | none =>
        if cnt = 0 then cfgReply x f.dst.toNat ⟨0, 0⟩ none 0 (s.updTile k i Tile.erase)
        else
          let r := loadTile x.party k i (x.g.spair f.sa.toNat) cnt s
          cfgReply x f.dst.toNat r.2 none 0 r.1) s

/-! ## CFGSEAL (11 R252) -/

/-- The checks after the image has been read: the entry to install, or the status that refuses it. -/
def sealChecks (s : State) (k ctx prio : Nat) (rect : Rect) (ws : List DWord) (l : List Byte) : Except Status HamperEntry :=
  let h := imgHdr ws
  let st := s.stackOf k
  let tiles := rect.tiles
  let dx := (rect.x + 8 - h.hx) % 8
  let dy := (rect.y + 8 - h.hy) % 8
  match imgBlocks ws h.len (h.w * h.h) (h.tileOff / 8), imgTables l h with
  | none, _ => .error ⟨0x10, 0x10⟩
  | _, .error o => .error ⟨0x10, o⟩
  | some blocks, .ok (fps, rates) =>
    let ixs := (List.range tiles.length).zip tiles
    let dig := imgDigest l
    let placed := blocks.map (fun b => place b dx dy)
    if h.w != rect.w || h.h != rect.h then .error ⟨0x0E, 0⟩
    else match ixs.find? (fun ni => !(st.tile ni.2).loaded) with
    | some ni => .error ⟨0x06, ni.1⟩
    | none =>
      if BitVec.ofNat 256 (ofBytes ((l.drop 0x60).take 32)) != dig then .error ⟨0x08, 0⟩
      else if !s.plat.trust.contains dig then .error ⟨0x09, 0⟩
      else match ixs.find? (fun ni => (st.tile ni.2).words != nth [] placed ni.1) with
      | some ni => .error ⟨0x07, ni.1⟩
      | none => match st.badTarget tiles with
        | some n => .error ⟨0x11, n⟩
        | none => match st.badRate tiles (rates.map (fun e => rateOf e dx dy)) with
          | some n => .error ⟨0x0A, n⟩
          | none => .ok
            { ix := 0, gen := 0, digest := dig, ox := rect.x, oy := rect.y, w := rect.w, h := rect.h, ctx := ctx, prio := prio
              units := (8 * (blocks.map (fun b => b.length)).foldl (fun a b => a + b) 0 + 1023) / 1024, blocks := placed, fps := fps
              nfpr := h.nfpr, rates := rates }

/-- Installs a checked entry, or finds the equal one (11 R252, R253): the state, the status and the handle. -/
def sealInstall (k : Nat) (e : HamperEntry) (s : State) : State × Status × Word :=
  let st := s.stackOf k
  let same := fun (x : HamperEntry) => x.digest = e.digest && x.ox = e.ox && x.oy = e.oy && x.w = e.w && x.h = e.h && x.ctx = e.ctx
  match st.hamper.find? same with
  | some old =>
    (s.updStack k (fun st => { st with hamper := updFirst same (fun x => { x with prio := e.prio }) st.hamper }), ⟨0, 1⟩, hamperHandle k old)
  | none => match Stack.makeRoom e.units e.prio 257 st with
    | none => (s, ⟨0x0B, 0⟩, 0)
    | some st =>
      let r := st.install e
      (s.updStack k (fun _ => r.1), ⟨0, 0⟩, hamperHandle k r.2)

/-- PRIO of a party's launch. -/
def State.prioOf (s : State) (p : Party) : Nat := ((s.blockOfParty p).map (fun b => (s.hdrOfBlock b).prio)).getD 0

/-- CFGSEAL (11 R252). -/
def execCfgseal (f : FmtV) (s : State) : Out :=
  cfgWord (.cfgseal f) (fun x s =>
    let w := x.g.sget f.sb.toNat
    let va := x.g.spair f.sa.toNat
    let k := wordStack w
    let no := fun (t : Status) (s : State) => cfgReply x f.dst.toNat t (some 0) 0 s
    match s.wordRegion x.ctx w with
    | none => cfgFault x w s
    | some rect =>
      match cfgRead x.party s va 16 0 [] with
      | (s, .error c) => no ⟨0x04, c⟩ s
      | (s, .ok head) =>
        match badHeader head with
        | some o => no ⟨0x10, o⟩ s
        | none =>
          let len := (imgHdr head).len
          match cfgRead x.party s va ((len + 7) / 8 - 16) 16 head with
          | (s, .error c) => no ⟨0x04, c⟩ s
          | (s, .ok ws) =>
            match sealChecks s k x.ctx (s.prioOf x.party) rect ws (imgBytes ws len) with
            | .error t => no t s
            | .ok e =>
              let r := sealInstall k e s
              cfgReply x f.dst.toNat r.2.1 (some r.2.2) 0 r.1) s

/-! ## Handles (11 R248) -/

/-- What a handle names for a context (11 R250, R253). -/
inductive Named (α : Type) where
  | is (x : α)
  | other
  | stale

/-- The Hamper entry of a handle. -/
def State.namedEntry (s : State) (ctx : Nat) (w : Word) : Named HamperEntry :=
  match (s.stackOf (bits w.toNat 8 3)).hamper.find? (fun e => e.ix = bits w.toNat 0 8) with
  | none => .stale
  | some e => if bits w.toNat 11 5 != 0 || e.gen != bits w.toNat 16 16 then .stale else if e.ctx != ctx then .other else .is e

/-- The run of a handle. -/
def State.namedRun (s : State) (ctx : Nat) (w : Word) : Named FabRun :=
  match (s.stackOf (bits w.toNat 6 3)).run (bits w.toNat 0 6) (bits w.toNat 9 3) with
  | none => .stale
  | some r => if bits w.toNat 12 4 != 0 || r.gen != bits w.toNat 16 16 then .stale else if r.ctx != ctx then .other else .is r

/-- The stack of a run handle. -/
def runStack (w : Word) : Nat := bits w.toNat 6 3

/-- The handle of a run. -/
def runHandle (k : Nat) (r : FabRun) : Word := BitVec.ofNat 32 (r.rid + 64 * k + 512 * r.slot + 65536 * r.gen)

/-! ## CFGRUN (11 R255, 07 R158) -/

/-- Steps 2 and 3 of R158 for a run: dirty lines of the read footprint are written back, the write footprint passes into
fabric ownership. -/
def State.takeFootprints (s : State) (k : Nat) (r : FabRun) : State :=
  let rd := (r.fpR.map (fun f => linePieces f.1 f.2)).flatten
  let wr := (r.fpW.map (fun f => linePieces f.1 f.2)).flatten
  let s := rd.foldl (fun s p => match s.mapped (k / 4) r.ctx p.1 with
    | some pa => s.cleanL2 pa p.2
    | none => s) s
  wr.foldl (fun s p => s.ownPiece k r p) s

/-- The region of a context with an entry's origin and size. -/
def Stack.entryRegion (k : Stack) (e : HamperEntry) (ctx : Nat) : Option Nat :=
  (List.range 64).find? (fun rid => k.region rid ctx = some ⟨e.ox, e.oy, e.w, e.h⟩)

/-- The footprints of an entry with a run's bases; one that resolves beyond 57 bits covers nothing (11 R245). -/
def resolveFps (bases : List DWord) (l : List (DWord × DWord)) : List (Nat × Nat) :=
  (l.map (fun f => (resolveVa bases f.1, f.2.toNat))).filterMap (fun f => if f.1.extractLsb' 57 7 != 0 then none else some (f.1.toNat, f.2))

/-- The identifier that a run's GEN nodes use: that of the group's lowest-numbered live lane (08 R185, 10 R227). -/
def groupWid (g : Group) : DWord := nth 0 g.wids (lowLane g.live)

/-- A new run in a slot (11 R255). -/
def newRun (x : Issue) (s : State) (k rid slot gen : Nat) (e : HamperEntry) (pb : List DWord) (off : Word) : FabRun :=
  let h := ((s.blockOfParty x.party).map s.hdrOfBlock).getD default
  let bases := pb.take 8
  { (default : FabRun) with
    rid := rid, slot := slot, gen := gen, st := .pending, entry := e.ix, handle := hamperHandle k e, det := h.det
    seq := h.dseq + off.setWidth 64, prio := h.prio, stamp := s.fresh, bases := bases
    passes := (nth 0 pb 8).extractLsb' 0 32, launch := ((s.blockOfParty x.party).map (fun b => b.launch)).getD 0
    wid := groupWid x.g, widths := h.widths, ctx := x.ctx, fpR := resolveFps bases (e.fps.take e.nfpr)
    fpW := resolveFps bases (e.fps.drop e.nfpr), tiles := (Rect.mk e.ox e.oy e.w e.h).tiles }

/-- CFGRUN (11 R255). The run takes the lowest free slot of the region (DESIGN CHOICE, log entry 88). -/
def execCfgrun (f : FmtV) (s : State) : Out :=
  cfgWord (.cfgrun f) (fun x s =>
    let w := x.g.sget f.sb.toNat
    let va := x.g.spair f.sa.toNat
    let k := bits w.toNat 8 3
    let st := s.stackOf k
    let no := fun (t : Status) (s : State) => cfgReply x f.dst.toNat t (some 0) 0 s
    match s.namedEntry x.ctx w with
    | .other => cfgFault x w s
    | .stale => no ⟨0x0C, 0⟩ s
    | .is e => match st.entryRegion e x.ctx with
      | none => no ⟨0x0E, 0⟩ s
      | some rid =>
        match (List.range 8).find? (fun n => match st.run rid n with
          | some r => !r.st.live
          | none => true) with
        | none => no ⟨0x0D, 0⟩ s
        | some slot =>
          if va.toNat % 64 != 0 then no ⟨0x04, 0x05⟩ s
          else match cfgRead x.party s va 16 0 [] with
            | (s, .error c) => no ⟨0x04, c⟩ s
            | (s, .ok pb) =>
              let gen := nextGen st.runGen (8 * rid + slot)
              let r := newRun x s k rid slot gen e pb (x.g.sget f.sc.toNat)
              let s := s.updStack k (fun st => { st with
                runs := st.runs.filter (fun q => !q.is rid slot) ++ [r], runGen := put st.runGen (8 * rid + slot) gen
                hamper := updFirst (fun h => h.ix = e.ix) (fun h => { h with prio := r.prio }) st.hamper })
              cfgReply x f.dst.toNat ⟨0, 0⟩ (some (runHandle k r)) 0 ((s.takeFootprints k r).next)) s

/-- A drained run becomes PENDING (11 R255, R265), with its saved footprints. -/
def State.resumeRun (s : State) (k : Nat) (r : FabRun) : State :=
  let s := s.takeFootprints k r
  (s.updRun k r (fun r => { r with st := .pending, resumed := true, stamp := s.fresh, rangerDrained := false })).next

/-- CFGRUN.RESUME (11 R255). -/
def execCfgrunResume (f : FmtV) (s : State) : Out :=
  cfgWord (.cfgrunResume f) (fun x s =>
    let w := x.g.sget f.sb.toNat
    let k := runStack w
    let no := fun (t : Status) (s : State) => cfgReply x f.dst.toNat t (some 0) 0 s
    match s.namedRun x.ctx w with
    | .other => cfgFault x w s
    | .stale => no ⟨0x0C, 0⟩ s
    | .is r =>
      if !(List.range 64).any (fun rid => ((s.stackOf k).region rid x.ctx).map Rect.tiles = some r.tiles) then no ⟨0x0E, 0⟩ s
      else if r.st != .drained || r.rangerDrained then no ⟨0x05, r.st.val⟩ s
      else cfgReply x f.dst.toNat ⟨0, 0⟩ (some w) 0 (s.resumeRun k r)) s

/-! ## CFGSTAT (11 R258) -/

/-- The status word as four sectors. -/
def FabRun.status (r : FabRun) : List Nat :=
  let le := fun (l : List (Nat × Nat)) => ofBytes ((l.map (fun nv => toBytes nv.1 nv.2)).flatten)
  [le [(1, r.st.val), (1, r.err), (1, r.ftile.toNat), (1, r.mxfl.toNat), (4, r.dropped.toNat), (4, r.mismatch.toNat), (4, r.nankey.toNat)],
    le [(4, r.eccc.toNat), (4, r.poisonsec.toNat), (4, r.slowest.toNat), (4, r.sfaults.toNat)],
    le [(2, r.sealed_.toNat), (2, r.drains.toNat), (4, r.handle.toNat), (8, r.seq.toNat)],
    0]

/-- CFGSTAT (11 R258). -/
def execCfgstat (f : FmtV) (s : State) : Out :=
  cfgWord (.cfgstat f) (fun x s =>
    let w := x.g.sget f.sb.toNat
    let va := x.g.spair f.sa.toNat
    let no := fun (t : Status) (s : State) => cfgReply x f.dst.toNat t none 0 s
    match s.namedRun x.ctx w with
    | .other => cfgFault x w s
    | .stale => no ⟨0x0C, 0⟩ s
    | .is r =>
      if va.toNat % 64 != 0 then no ⟨0x04, 0x05⟩ s
      else match s.resolve x.party va needWr with
        | (s, .error fl) => no ⟨0x04, fl.cause⟩ s
        | (s, .ok t) =>
          if s.mustWait x.party t 64 false then hold s
          else
          let s := ((List.range 4).zip r.status).foldl (fun s nv =>
            s.storeBytes x.party { t with pa := t.pa + 16 * nv.1 } 16 nv.2 true) s
          cfgReply x f.dst.toNat ⟨0, 0⟩ none r.mxfl s) s

/-! ## Drain (11 R254, R259 to R261) -/

/-- Writes the statuses that CFGDRAIN words wait for. -/
def State.answerDrain (s : State) (k : Nat) (r : FabRun) (t : Status) : State :=
  let r := s.now k r
  let fill := fun (s : State) (w : Nat × Nat × Nat) => s.updBlock w.1 (fun b => { b with
    groups := updFirst (fun g => g.index = w.2.1) (fun g => { g with
      pend := updFirst (fun p => p.id = w.2.2) (fun p =>
        { p with kind := .cfgStatus, swrites := p.sregs.map (fun n => (n, t.word)) }) g.pend }) b.groups })
  (r.drainers.foldl fill s).updRun k r (fun r => { r with drainers := [] })

/-- A run leaves BUSY when the Ranger's DRAIN of it ends (11 R265). -/
def State.endBusy (s : State) (k : Nat) (r : FabRun) : State :=
  if s.dev.fbrBusy = some (k, r.rid, r.slot) then { s with dev.fbrBusy := none } else s

/-- Starts a drain (11 R254): the state, and whether the run is DRAINED at once. -/
def State.startDrain (s : State) (k : Nat) (r : FabRun) : State × Bool :=
  match r.st with
  | .pending => (s.updRun k r (fun r => { r with st := .drained }), true)
  | .loading => (s.updRun k r (fun r => { r with drainAsked := true }), false)
  | .running => (s.updRun k r (fun r => { r with st := .draining }), false)
  | .drained => (s, true)
  | _ => (s, false)

/-- CFGDRAIN (11 R254, R261). -/
def execCfgdrain (f : FmtV) (s : State) : Out :=
  cfgWord (.cfgdrain f) (fun x s =>
    let w := x.g.sget f.sb.toNat
    let k := runStack w
    match s.namedRun x.ctx w with
    | .other => cfgFault x w s
    | .stale => cfgReply x f.dst.toNat ⟨0x0C, 0⟩ none 0 s
    | .is r =>
      if !r.st.live then cfgReply x f.dst.toNat ⟨0x05, r.st.val⟩ none 0 s
      else
        let d := s.startDrain k r
        if d.2 then cfgReply x f.dst.toNat ⟨0, 0⟩ none 0 d.1
        else match s.blockOfParty x.party with
          | none => d.1
          | some b =>
            let p := { Producer.mk0 s.fresh .drain with sregs := [f.dst.toNat] }
            let s := d.1.updRun k r (fun r => { r with drainers := r.drainers ++ [(b.uid, x.g.index, p.id)] })
            retire x (x.g.issue p) s.next) s

/-- Bytes of a drained run's image, whose size the spec does not give: the 64 KiB of each tile memory (10 R211), which the Rucksack
reaches, and a page for the status word and the resolved VAs (DESIGN CHOICE, log entry 70). -/
def FabRun.imageBytes (r : FabRun) : Nat := 65536 * r.tiles.length + 4096

/-- The Rucksack writes a drained run's image to the context's save area (11 R259 step 6): free words at a free place of the pool, or
none where the pool has no room (log entry 70). -/
def State.saveRun (s : State) (k : Nat) (r : FabRun) : State :=
  let s := s.updRun k r (fun r => { r with area := 0, bytes := 0 })
  match s.saveRoom r.ctx r.imageBytes with
  | none => s
  | some a =>
    let s := s.updRun k r (fun r => { r with area := a, bytes := r.imageBytes })
    s.writeWords (k / 4) r.ctx ((s.ctxOf r.ctx).savePool + BitVec.ofNat 64 a) (openWords (r.imageBytes / 4)) (fun _ => false)

/-- DRAIN_COMPLETE (11 R259 steps 5 and 6): every node and record of the unsealed domains has been passed by drain, and no
token is in the mesh or an escape buffer: the stack's Rucksack saves the run, which is DRAINED. -/
def execDrainComplete (k rid : Nat) (s : State) : Out :=
  let st := s.stackOf k
  match st.runs.find? (fun r => r.rid = rid && r.st = .draining) with
  | none => .next s
  | some r =>
    let still := r.tiles.all (fun (i : Nat) =>
      let t := st.tile i
      t.escape.isNone && t.slots.all (fun n => r.isSealed (t.domain n) || (t.nodeSt n).frozen)
        && t.recList.all (fun nr => r.isSealed (st.recDomain r i nr.1) || (t.stream nr.1).drained))
    if !still || st.flights.any (fun f => r.tiles.contains (8 * f.y + f.x)) then .next s
    else
      let s := s.updRun k r (fun r => { r with st := .drained, drains := r.drains + 1, image := r.tiles.map (fun i => st.tile i) })
      .next (((s.saveRun k r).answerDrain k r ⟨0, 0⟩).endBusy k r)

/-! ## Selection and loading (11 R256, R257, R260) -/

/-- Order of DET runs: sequence number, a resumed run first, then the earliest issued. -/
def detLe (a b : FabRun) : Bool :=
  if a.seq != b.seq then decide (a.seq < b.seq) else if a.resumed != b.resumed then a.resumed else decide (a.stamp ≤ b.stamp)

/-- Order of the other runs: priority, then the earliest issued. -/
def freeLe (a b : FabRun) : Bool := if a.prio != b.prio then decide (b.prio < a.prio) else decide (a.stamp ≤ b.stamp)

/-- The run that a free region selects (11 R256). -/
def Stack.nextRun (k : Stack) (rid : Nat) : Option FabRun :=
  let runs := k.runs.filter (fun r => r.rid = rid)
  let pend := runs.filter (fun r => r.st = .pending)
  let held := runs.filter (fun r => r.det && r.st = .drained)
  let det := pend.filter (fun r => r.det && held.all (fun h => decide (r.seq ≤ h.seq)))
  if runs.any (fun r => r.st.holds) || k.lent.any (fun l => l.1 = rid) then none
  else match (sortBy detLe det).head? with
    | some r => some r
    | none => (sortBy freeLe (pend.filter (fun r => !r.det))).head?

/-- RUN_SELECT (11 R256). -/
def execRunSelect (k rid : Nat) (s : State) : Out :=
  match (s.stackOf k).nextRun rid with
  | none => .next s
  | some r => .next ((s.updRun k r (fun r => { r with st := .loading })).updStack k (fun st =>
      { st with hamper := updFirst (fun e => e.ix = r.entry) (fun e => { e with prio := r.prio }) st.hamper }))

/-- Whether a tile holds a block, as loaded by CFGWR or from the Hamper (11 R257). -/
def Tile.has (t : Tile) (block : List DWord) : Bool := t.loaded && t.words = block

/-- A tile that holds a block: written from the Hamper unless it holds it already (11 R257). A load from the Hamper leaves the channel
in the mode it is in, which only CFGWR returns to compute mode (10 R239). -/
def Tile.hold (t : Tile) (block : List DWord) : Tile :=
  if t.has block then t else { t.load block with computeOff := t.computeOff }

/-- A tile with an entry's block, ready to start: node and stream state begin anew, untriggered sources owe a burst, records begin
their first pass (10 R220, R231). Where the tile held the block already, its PQ tables, its fault and its poison stay as they are (log
entry 79). -/
def Tile.start (t : Tile) (block : List DWord) (fedL : Nat → Bool) : Tile :=
  let x : Tile := { t.hold block with
    acc := [], node := Tile.blank.node, streams := Tile.blank.streams, edges := [], escape := none, dmarks := [], wdKept := none }
  let x := x.slots.foldl (fun (x : Tile) n =>
    if 0xD3 ≤ nwOp (x.word n) && nwOp (x.word n) ≤ 0xD5 && !fedL n then x.setNode n { x.nodeSt n with owed := true } else x) x
  x.recList.foldl (fun (x : Tile) nr =>
    x.setStream nr.1 { x.stream nr.1 with gate := nr.2.gph, phase := if nr.2.gate then .waiting else .active }) x

/-- A saved tile put back (11 R260): nodes and records move again; owner entry, counters, fault and compute mode are the tile's. -/
def Tile.restore (t img : Tile) : Tile :=
  { img with
    ownV := t.ownV, ownCtx := t.ownCtx, ownRid := t.ownRid, drops := t.drops, ecc := t.ecc, computeOff := t.computeOff
    catchup := t.catchup, fault := t.fault, badRecs := t.badRecs, wdKept := none, sealedDoms := t.sealedDoms, dmarks := []
    node := img.node.map (fun d => { d with frozen := false }), streams := img.streams.map (fun d => { d with drained := false }) }

/-- Streams of a run that the Ranger answered while it was not RUNNING move on (23 R451). -/
def State.takeAnswers (s : State) (k : Nat) (r : FabRun) : State :=
  r.tiles.foldl (fun s (i : Nat) => (s.tile k i).recList.foldl (fun s nr =>
    let t : TileId := { stack := k, x := i % 8, y := i / 8 }
    match s.streamAt t nr.1 with
    | some (r, rc, _) => s.takeAnswer t nr.1 r rc
    | none => s) s) s

/-- Whether some arc of blocks feeds L of a slot of a tile. -/
def Stack.fedBy (k : Stack) (r : FabRun) (i n : Nat) : Bool :=
  (k.arcs r).any (fun a => tgTile a.tgt = i && !tgMem a.tgt && tgSlot a.tgt = n && tgPos a.tgt = 1)

/-- LOADING_COMPLETE (11 R257, R260): the tiles hold the entry's image, saved state is back, and sources and streams
start. A domain that was sealed in a tile and whose tile was not loaded since stays sealed (11 R263). -/
def execLoadingComplete (k rid : Nat) (s : State) : Out :=
  let st := s.stackOf k
  match st.runs.find? (fun r => r.rid = rid && r.st = .loading) with
  | none => .next s
  | some r => match st.hamper.find? (fun e => e.ix = r.entry) with
    | none => .next s
    | some e =>
      let pairs := r.tiles.zip e.blocks
      let held := pairs.foldl (fun (st : Stack) ib => st.updTile ib.1 (fun t => t.hold ib.2)) st
      let s := if r.resumed && r.image != [] then
          s.updStack k (fun _ => (r.tiles.zip r.image).foldl (fun (st : Stack) it => st.updTile it.1 (fun t => t.restore it.2)) held)
        else s.updStack k (fun st => pairs.foldl (fun (st : Stack) ib => st.updTile ib.1 (fun t => t.start ib.2 (held.fedBy r ib.1))) st)
      let s := s.updRun k r (fun r => { r with
        st := if r.drainAsked then .draining else .running, drainAsked := false, image := [], resumed := false
        sealed_ := r.tiles.foldl (fun m i => m ||| (held.tile i).sealedDoms) r.sealed_ })
      let s := s.startFaults k r
      .next (if r.drainAsked then s else s.takeAnswers k r)

/-- Whether a node has nothing left to send or discard. -/
def NodeSt.quiet (d : NodeSt) : Bool := d.out = [] && d.skip = [] && d.errs = [] && !d.owed

/-- RUN_DONE (11 R257): every record of the unsealed domains has made its passes, and no token is left. -/
def execRunDone (k rid : Nat) (s : State) : Out :=
  let st := s.stackOf k
  match st.runs.find? (fun r => r.rid = rid && r.st = .running) with
  | none => .next s
  | some r =>
    let past := r.tiles.all (fun (i : Nat) =>
      let t := st.tile i
      t.edges = [] && t.escape.isNone && t.slots.all (fun n => r.isSealed (t.domain n) || (t.nodeSt n).quiet)
        && t.recList.all (fun nr => r.isSealed (st.recDomain r i nr.1)
          || ((t.stream nr.1).phase = .done && !(t.stream nr.1).passEnd && !(t.stream nr.1).etail && (t.stream nr.1).buf = [])))
    if past && !st.flights.any (fun f => r.tiles.contains (8 * f.y + f.x)) then .next (s.runDone k r) else .next s

/-! ## CFGKILL and CFGEVICT (11 R253, R264) -/

/-- Kills a region (11 R264): its runs are KILLED and lose their saved state and ownership, waiting CFGDRAINs get STATE
with detail 7, its tiles are erased and its owner entries cleared. -/
def State.killRegion (s : State) (k rid : Nat) (tiles : List Nat) : State :=
  let runs := (s.stackOf k).runs.filter (fun r => r.rid = rid && r.st.live)
  let s := runs.foldl (fun s r =>
    ((s.updRun k r (fun r => { r with st := .killed, image := [], owned := [] })).answerDrain k r ⟨0x05, 7⟩).endBusy k r) s
  let s := s.eraseTiles k tiles
  s.updStack k (fun st =>
    let left := (tiles.map (fun i => (st.tile i).ownCtx)).foldl insNat []
    let st := { st with released := st.released ++ (left.map (fun c => (c, tiles))).filter (fun l => st.replies l.1 l.2) }
    let st := tiles.foldl (fun (st : Stack) i => st.updTile i (fun t => { t with ownV := false, ownCtx := 0, ownRid := 0 })) st
    { st with lent := st.lent.filter (fun l => l.1 != rid), faults := st.faults.filter (fun f => !tiles.contains (8 * f.y + f.x)) })

/-- CFGKILL (11 R264). -/
def execCfgkill (f : FmtV) (s : State) : Out :=
  cfgWord (.cfgkill f) (fun x s =>
    let w := x.g.sget f.sb.toNat
    match s.wordRegion x.ctx w with
    | none => cfgFault x w s
    | some rect => cfgReply x f.dst.toNat ⟨0, 0⟩ none 0 (s.killRegion (wordStack w) (wordRid w) rect.tiles)) s

/-- CFGEVICT (11 R253). -/
def execCfgevict (f : FmtV) (s : State) : Out :=
  cfgWord (.cfgevict f) (fun x s =>
    let w := x.g.sget f.sb.toNat
    let k := bits w.toNat 8 3
    match s.namedEntry x.ctx w with
    | .other => cfgFault x w s
    | .stale => cfgReply x f.dst.toNat ⟨0x0C, 0⟩ none 0 s
    | .is e =>
      if (s.stackOf k).referenced e.ix then cfgReply x f.dst.toNat ⟨0x0F, 0⟩ none 0 s
      else cfgReply x f.dst.toNat ⟨0, 0⟩ none 0 (s.updStack k (fun st => { st with hamper := st.hamper.filter (fun h => h.ix != e.ix) }))) s

/-! ## Stream-fault answers (11 R262, 23 R451) -/

/-- Records an answer in every outstanding fault of a tile's record, in saved runs too. -/
def State.answerFault (s : State) (t : TileId) (n act : Nat) : State :=
  let i := tileIx t
  let mark := fun (x : Tile) => if (x.stream n).phase = .stalled then x.setStream n { x.stream n with answer := act } else x
  let s := s.updStack t.stack (fun st => { st with
    tiles := match st.activeAt i with
      | some _ => setNth st.tiles i (mark (st.tile i))
      | none => st.tiles
    runs := st.runs.map (fun (r : FabRun) => { r with
      image := (r.tiles.zip r.image).map (fun (it : Nat × Tile) => if it.1 = i then mark it.2 else it.2) }) })
  s.dropFault t n

/-- A write of SYS.FBSACT (11 R262): ACT 1 retries, 2 declares unresolvable, 0 and 3 do nothing. -/
def State.fbsact (s : State) (v : Word) : State :=
  let n := v.toNat
  let t : TileId := { stack := bits n 11 3, y := bits n 8 3, x := bits n 5 3 }
  let act := bits n 0 2
  if act = 0 || act = 3 then s
  else
    let s := s.answerFault t (bits n 3 2) act
    match s.streamAt t (bits n 3 2) with
    | some (r, rc, _) => if r.st = .running then s.takeAnswer t (bits n 3 2) r rc else s
    | none => s

/-- FBSACT_RETRY (11 R262). -/
def execFbsactRetry (r : Nat) (v : BitVec 32) (s : State) : Out :=
  .next (if s.isRanger r && bits v.toNat 0 2 = 1 then s.fbsact v else s)

/-- FBSACT_UNRESOLVABLE (11 R262). -/
def execFbsactUnresolvable (r : Nat) (v : BitVec 32) (s : State) : Out :=
  .next (if s.isRanger r && bits v.toNat 0 2 = 2 then s.fbsact v else s)

/-! ## Owner entries and region commands (11 R265) -/

/-- A code of SYS.FBRSTAT. -/
def State.fbrstat (s : State) (code : Nat) : State := { s with dev.fbrstat := BitVec.ofNat 32 code }

/-- The value that SYS.FBOWN reads: the entry of the tile last selected or written. -/
def State.fbownRead (s : State) : Word :=
  let n := s.dev.fbown.toNat
  let t := s.tile (bits n 27 3) (8 * bits n 24 3 + bits n 21 3)
  BitVec.ofNat 32 (bits n 21 9 * 2 ^ 21 + (if t.ownV then 2 ^ 31 else 0) + t.ownRid * 2 ^ 15 + t.ownCtx)

/-- A write of SYS.FBOWN: it selects a tile, or writes its owner entry; a change of owner erases the tile. -/
def State.fbownWrite (s : State) (v : Word) : State :=
  let n := v.toNat
  let k := bits n 27 3
  let i := 8 * bits n 24 3 + bits n 21 3
  if v.getLsbD 30 then { s with dev.fbown := v }
  else if s.dev.fbrBusy.isSome then s.fbrstat 4
  else
    let st := s.stackOf k
    let t := st.tile i
    let runs := st.runs.filter (fun r => t.ownV && r.rid = t.ownRid)
    let lent := st.lent.any (fun l => l.1 = t.ownRid)
    if runs.any (fun r => r.st.holds) || (!lent && runs.any (fun r => r.st = .pending || r.st = .drained)) then s.fbrstat 2
    else
      let nv := v.getLsbD 31
      let ctx := bits n 0 8
      let s := ({ s with dev.fbown := v } : State).fbrstat 0
      let s := if !nv || t.ownCtx != ctx then s.updTile k i Tile.erase else s
      s.updTile k i (fun t => { t with ownV := nv, ownCtx := ctx, ownRid := bits n 15 6 })

/-- FBOWN_SELECT (11 R265). -/
def execFbownSelect (r : Nat) (v : BitVec 32) (s : State) : Out := .next (if s.isRanger r && v.getLsbD 30 then s.fbownWrite v else s)

/-- FBOWN_WRITE (11 R265). -/
def execFbownWrite (r : Nat) (v : BitVec 32) (s : State) : Out := .next (if s.isRanger r && !v.getLsbD 30 then s.fbownWrite v else s)

/-- The tiles and context of a region by its number: of its lend, or of its owner entries. -/
def Stack.regionBy (k : Stack) (rid : Nat) : Option (Nat × List Nat) :=
  match k.lent.find? (fun l => l.1 = rid) with
  | some l => some l.2
  | none =>
    let l := (List.range 64).filter (fun i => (k.tile i).ownV && (k.tile i).ownRid = rid)
    match l with
    | [] => none
    | i :: _ =>
      let c := (k.tile i).ownCtx
      if l.all (fun j => (k.tile j).ownCtx = c) then (rectOf l).map (fun r => (c, r.tiles)) else none

/-- A region command (11 R265). -/
def State.regionCmd (s : State) (cmd k rid slot : Nat) : State :=
  let st := s.stackOf k
  let lent := st.lent.any (fun l => l.1 = rid)
  match st.regionBy rid with
  | none => s.fbrstat 1
  | some (ctx, tiles) =>
    match cmd, st.run rid slot with
    | 1, none => s.fbrstat 1
    | 2, none => s.fbrstat 1
    | 1, some r =>
      if !(r.st = .pending || r.st = .loading || r.st = .running) then s.fbrstat 2
      else
        let d := (s.updRun k r (fun r => { r with rangerDrained := true })).startDrain k r
        let s := d.1.fbrstat 0
        if d.2 then s else { s with dev.fbrBusy := some (k, rid, slot) }
    | 2, some r =>
      if r.st != .drained || !r.rangerDrained then s.fbrstat 2 else (s.resumeRun k r).fbrstat 0
    | 3, _ =>
      (if lent then s else s.updStack k (fun st => { st with lent := st.lent ++ [(rid, ctx, tiles)] })).fbrstat 0
    | 4, _ =>
      if tiles.all (fun i => (st.tile i).ownV && (st.tile i).ownCtx = ctx && (st.tile i).ownRid = rid) then
        (s.updStack k (fun st => { st with lent := st.lent.filter (fun l => l.1 != rid) })).fbrstat 0
      else s.fbrstat 2
    | 5, _ => if lent then s.fbrstat 2 else (s.killRegion k rid tiles).fbrstat 0
    | _, _ => if lent then s.fbrstat 2 else (s.eraseTiles k tiles).fbrstat 0

/-- A write of SYS.FBRCMD (11 R265): ignored with code BUSY while a command runs. -/
def State.fbrcmd (s : State) (v : Word) : State :=
  let n := v.toNat
  let cmd := bits n 28 4
  if cmd = 0 then s
  else if s.dev.fbrBusy.isSome then s.fbrstat 4
  else if 7 ≤ cmd then s.fbrstat 3
  else s.regionCmd cmd (bits n 24 3) (bits n 15 6) (bits n 21 3)

/-- A region command of one code, by a Ranger. -/
def regionEvent (codes : Nat → Bool) (r : Nat) (v : Word) (s : State) : Out :=
  .next (if s.isRanger r && codes (bits v.toNat 28 4) then s.fbrcmd v else s)

/-- DRAIN (11 R265). -/
def execDrainCmd (r : Nat) (v : BitVec 32) (s : State) : Out := regionEvent (fun c => c = 1) r v s
/-- RESUME (11 R265). -/
def execResumeCmd (r : Nat) (v : BitVec 32) (s : State) : Out := regionEvent (fun c => c = 2) r v s
/-- LEND (11 R265). -/
def execLendCmd (r : Nat) (v : BitVec 32) (s : State) : Out := regionEvent (fun c => c = 3) r v s
/-- RETURN (11 R265). -/
def execReturnCmd (r : Nat) (v : BitVec 32) (s : State) : Out := regionEvent (fun c => c = 4) r v s
/-- KILL (11 R265). -/
def execKillCmd (r : Nat) (v : BitVec 32) (s : State) : Out := regionEvent (fun c => c = 5) r v s
/-- ERASE (11 R265). -/
def execEraseCmd (r : Nat) (v : BitVec 32) (s : State) : Out := regionEvent (fun c => c = 6) r v s
/-- FBRCMD_BADCMD (11 R265). -/
def execFbrcmdBadcmd (r : Nat) (v : BitVec 32) (s : State) : Out := regionEvent (fun c => 7 ≤ c) r v s

/-! ## The firmware's fabric services (11 R242) -/

/-- A group stopped by TRAP with a service number; fabric services are taken while the group waits for a Ranger. -/
def State.calling (s : State) (h : Handle) (code : Nat) : Option Group :=
  match s.grp? (.group h) with
  | some g => match g.trap with
    | some r => if g.stopped && r.cause = 0x17#8 && r.aux.toNat = code then some g else none
    | none => none
  | none => none

/-- The Ranger writes a service's results through the window and resumes the group at the next word (11 R242, 03 R72); none while a
producer is in flight for a register of the results: the write would be refused with BUSY, and the firmware takes the call later (12
R273). -/
def State.serviceReturn (s : State) (h : Handle) (g : Group) (r0 : Nat) (r1 : Option Word) : Option State :=
  if g.sPending 0 || (r1.isSome && g.sPending 1) then none
  else
    let g := g.sset 0 (BitVec.ofNat 32 r0)
    let g := match r1 with
      | some w => g.sset 1 w
      | none => g
    some (((s.withdraw [h]).setGrp (.group h) g).resumeGroup h)

/-- A service's answer, or nothing yet. -/
def State.answered (s : State) (t : Option State) : Out := .next (t.getD s)

/-- A service code for which the firmware has no service, 0x43 to 0x7F: the handler logs the handle and the code, and returns
0xFFFF_FFFF (19 R432). -/
def State.noService (s : State) (h : Handle) : State :=
  match (s.grp? (.group h)).bind (fun g => g.trap) with
  | none => s
  | some r =>
    let code := r.aux.toNat
    if code < 0x43 || 0x7F < code then s
    else match s.calling h code with
      | none => s
      | some g => ((({ s with plat.svcLog := s.plat.svcLog ++ [(handleCode h, code)] } : State).serviceReturn h g 0xFFFFFFFF none)).getD s

/-- Tiles that count against a context's quota: owned or lent out (11 R265). -/
def State.tilesOf (s : State) (ctx : Nat) : Nat :=
  (s.fabrics.map (fun (k : Stack) => ((List.range 64).filter (fun i => ((k.tile i).ownV && (k.tile i).ownCtx = ctx)
    || k.lent.any (fun l => l.2.1 = ctx && l.2.2.contains i))).length)).foldl (fun a b => a + b) 0

/-- Whether a tile may be granted to a context: free, not lent out, and of no killed region of the context whose channels still count
replies (10 R216). -/
def Stack.grantable (k : Stack) (ctx i : Nat) : Bool :=
  !(k.tile i).ownV && !k.lent.any (fun l => l.2.2.contains i)
    && !k.released.any (fun l => l.1 = ctx && l.2.contains i && k.replies ctx l.2)

/-- FRGREQ (11 R242): bad request, quota, then room, at the rectangle the firmware has chosen. The answer 1 needs that no
free rectangle of the size, or at the fixed origin, is there, or no free region number; a fixed origin from which the rectangle leaves
the grid is a bad request (DESIGN CHOICE, log entry 87). -/
def execFrgreq (h : Handle) (ox oy rid : Nat) (s0 : State) : Out :=
  match s0.calling h 0x40 with
  | none => .next s0
  | some g =>
    let s := s0
    let a := (g.sget 1).toNat
    let ctx := s.ctxOfParty (.group h)
    let w := bits a 0 4
    let ht := bits a 4 4
    let k := bits a 8 3
    let fixed := bits a 11 1 = 1
    let fx := bits a 12 3
    let fy := bits a 15 3
    let st := s.stackOf k
    let fits := fun (x y : Nat) => x + w ≤ 8 && y + ht ≤ 8 && (Rect.mk x y w ht).tiles.all (fun i => st.grantable ctx i)
    let taken := fun (n : Nat) => (List.range 64).any (fun i => (st.tile i).ownV && (st.tile i).ownRid = n)
      || st.lent.any (fun l => l.1 = n) || st.runs.any (fun r => r.rid = n && r.st.live)
    let room := if fixed then fits fx fy else (List.range 8).any (fun y => (List.range 8).any (fun x => fits x y))
    if 2 ^ 18 ≤ a || w = 0 || 8 < w || ht = 0 || 8 < ht || (fixed && (8 < fx + w || 8 < fy + ht)) then
      s0.answered (s.serviceReturn h g 2 none)
    else if (s.ctxOf ctx).quota < s.tilesOf ctx + w * ht then s0.answered (s.serviceReturn h g 3 none)
    else if !room || (List.range 64).all taken then s0.answered (s.serviceReturn h g 1 none)
    else if !fits ox oy || (fixed && (ox != fx || oy != fy)) || 64 ≤ rid || taken rid then .next s
    else
      let rect : Rect := ⟨ox, oy, w, ht⟩
      let s := s.eraseTiles k rect.tiles
      let s := rect.tiles.foldl (fun s i => s.updTile k i (fun t => { t with ownV := true, ownCtx := ctx, ownRid := rid })) s
      s0.answered (s.serviceReturn h g 0 (some (regionWord k rid rect)))

/-- FTRUST (11 R242). -/
def execFtrust (h : Handle) (s0 : State) : Out :=
  match s0.calling h 0x41 with
  | none => .next s0
  | some g => match s0.readVa (coreDie h.core) (s0.ctxOfParty (.group h)) (g.spair 2) 32 with
    | (s, none) => s0.answered (s.serviceReturn h g 2 none)
    | (s, some l) => s0.answered (s.serviceReturn h g (if s.plat.trust.contains (BitVec.ofNat 256 (ofBytes l)) then 0 else 1) none)

/-- Bytes of an SLH-DSA-SHA2-128s signature (FIPS 205). -/
def slhBytes : Nat := 7856

/-- FVERIFY (11 R242): the signature is checked against every enrolled key, and the image's digest is enrolled. -/
def execFverify (h : Handle) (s0 : State) : Out :=
  match s0.calling h 0x42 with
  | none => .next s0
  | some g =>
    let die := coreDie h.core
    let ctx := s0.ctxOfParty (.group h)
    match s0.readVa die ctx (g.spair 2) (g.sget 6).toNat with
    | (s, none) => s0.answered (s.serviceReturn h g 3 none)
    | (s, some img) => match s.readVa die ctx (g.spair 4) slhBytes with
      | (s, none) => s0.answered (s.serviceReturn h g 3 none)
      | (s, some sig) =>
        let d := imgDigest img
        if !s.plat.keys.any (fun key => slhVerify (toBytes 32 key.toNat) img sig) then s0.answered (s.serviceReturn h g 1 none)
        else if s.plat.trust.contains d then s0.answered (s.serviceReturn h g 0 none)
        else if 1024 ≤ s.plat.trust.length then s0.answered (s.serviceReturn h g 2 none)
        else s0.answered (({ s with plat.trust := s.plat.trust ++ [d] } : State).serviceReturn h g 0 none)

end Sys2Proof.Machine
end

