-- ==== Sys2Proof/Machine/Platform.lean ====
section
/-! DEFINITION. The host port, the management commands, resets, attestation, power, peers and memory errors (spec 13
R288 to R300, 12 R287). -/

namespace Sys2Proof.Machine

/-! ## Host accesses (13 R289 to R292) -/

/-- A violation by the host: a completer abort, logged with the offset (13 R289, R299). -/
def State.hostViolation (s : State) (off : Nat) : State := (s.emit .completerAbort).violation 0 0 (BitVec.ofNat 64 off)

/-- A host read of BAR0. -/
def State.hostRead (s : State) (off n : Nat) : State :=
  match s.bar0Read off n with
  | some r => r.1.emit (.hostData (toBytes n r.2))
  | none => s.hostViolation off

/-- A host write of BAR0. -/
def State.hostWrite (s : State) (off n x : Nat) : State := (s.bar0Write off n x).getD (s.hostViolation off)

/-- RESERVE (13 R292): the host's read of a mailbox's RESERVE register. -/
def execMbReserve (mb : Nat) (s : State) : Out := .next (if mb < 256 then s.hostRead (0x1000 * mb) 4 else s)

/-- COMMIT (13 R292): the host's write of a mailbox's COMMIT register. -/
def execMbCommit (mb : Nat) (v : BitVec 32) (s : State) : Out :=
  .next (if mb < 256 then s.hostWrite (0x1000 * mb + 8) 4 v.toNat else s)

/-- LAUNCH_SLOT_WRITE (13 R292): a host write in the range of the launch slots. -/
def execLaunchSlotWrite (off : Nat) (data : List (BitVec 8)) (s : State) : Out :=
  .next (if 0x400000 ≤ off && off < 0xC00000 then s.hostWrite off data.length (ofBytes data) else s)

/-- A host access to BAR0 (13 R289): a read of a populated register returns its data, a write is performed there; an access that BAR0
does not answer is BAR0_VIOLATION, a completer abort that is logged. -/
def execBar0Violation (off : Nat) (acc : HostAccess) (s : State) : Out :=
  match acc with
  | .read n => .next (s.hostRead off n)
  | .write d => .next (s.hostWrite off d.length (ofBytes d))

/-- REGISTER_WRITE (00 R5, 13 R289): a host write of 4 or 8 bytes of BAR0. -/
def execRegisterWrite (off : Nat) (v : BitVec 64) (size8 : Bool) (s : State) : Out :=
  .next (s.hostWrite off (if size8 then 8 else 4) (if size8 then v.toNat else v.toNat % 2 ^ 32))

/-- TAIL (13 R299). -/
def execLogTail (die : Nat) (v : BitVec 32) (s : State) : Out :=
  .next (if die < 2 then s.hostWrite (0x110004 + 0x8000 * die) 4 v.toNat else s)

/-- The physical address behind an offset of BAR2, if it is populated (13 R289). -/
def State.bar2Pa (s : State) (x : Nat) : Option Nat :=
  let n := s.plat.bar2Log
  let at_ := if n < 42 then s.plat.b2win.toNat / 2 ^ n * 2 ^ n + x else x
  if 2 ^ n ≤ x then none
  else if at_ < 2 ^ 39 then some at_
  else if 2 ^ 40 ≤ at_ && at_ < 2 ^ 42 then some (ctBase + (at_ - 2 ^ 40))
  else none

/-- The addresses of an access of n bytes, if every one is populated. -/
def State.bar2Span (s : State) (off n : Nat) : Option (List Nat) :=
  let l := (List.range n).map (fun (i : Nat) => s.bar2Pa (off + i))
  if l.all (fun a => a.isSome) then some (l.filterMap id) else none

/-- Whether an access by the host or a peer must wait for an engine or a batch that owns a line (07 R156). -/
def State.homeOwned (s : State) (l : List Nat) : Bool := l.any (fun a => s.lineOwned a)

/-- The bytes at the home; those of a poisoned sector are free values. -/
def State.homeBytes (s : State) (l : List Nat) : State × List Byte :=
  ({ s with fresh := s.fresh + l.length },
   ((List.range l.length).zip l).map (fun ia => if s.poisoned ia.2 then Config.poisonByte (s.fresh + ia.1) else s.byte ia.2))

/-- An access by physical address, as a translation of its own line. -/
def State.atHome (s : State) (pa : Nat) : Trans := ⟨pa, if s.msLine pa then 0x40#64 else 0⟩

/-- Writes bytes at the home, for a memory-side line at the base die (13 R290); a sector that is written whole loses its poison
(05 R460, 19 R426). -/
def State.homePut (s : State) (pa : Nat) (data : List Byte) : State :=
  let s := s.homeWriteBytes (s.msLine pa) pa data
  let whole := (List.range (data.length / 16 + 1)).filter (fun (i : Nat) =>
    decide (pa ≤ 16 * ((pa + 15) / 16 + i) ∧ 16 * ((pa + 15) / 16 + i) + 16 ≤ pa + data.length))
  whole.foldl (fun (s : State) (i : Nat) => s.setPoison (16 * ((pa + 15) / 16 + i)) false) s

/-- The largest read request of the host port, and the largest payload (13 R288), in bytes. -/
def hostReadMax : Nat := 4096
/-- The largest payload of the host port. -/
def hostPayloadMax : Nat := 512

/-- Whether the port has requests of a size, and BAR2 at all (13 R288, R296). -/
def State.bar2Takes (s : State) : HostAccess → Bool
  | .read n => !s.plat.bootFailed && n ≤ hostReadMax
  | .write d => !s.plat.bootFailed && d.length ≤ hostPayloadMax

/-- HOST_BAR2_ACCESS (13 R290): performed at the home, as a relaxed access of the host. -/
def execHostBar2Access (off : Nat) (acc : HostAccess) (s : State) : Out :=
  if !s.bar2Takes acc then .next s
  else match acc with
  | .read n => match s.bar2Span off n with
    | none => .next (s.hostViolation off)
    | some l => if s.homeOwned l then .next s
        else
          let r := s.homeBytes l
          .next (r.1.emit (.hostData r.2))
  | .write d => match s.bar2Span off d.length with
    | none => .next (s.hostViolation off)
    | some l => if s.homeOwned l then .next s
        else .next (s.homePut (l.headD 0) d)

/-! ## Ending contexts (13 R293, R296) -/

/-- The regions of a context on a stack: number and tiles. -/
def Stack.regionsOf (k : Stack) (ctx : Nat) : List (Nat × List Nat) :=
  (List.range 64).filterMap (fun (rid : Nat) =>
    match k.lent.find? (fun l => l.1 = rid) with
    | some l => if l.2.1 = ctx then some (rid, l.2.2) else none
    | none =>
      let l := (List.range 64).filter (fun (i : Nat) => (k.tile i).ownV && (k.tile i).ownRid = rid && (k.tile i).ownCtx = ctx)
      if l = [] then none else some (rid, l))

/-- Kills every region of a context. -/
def State.killRegions (s : State) (ctx : Nat) : State :=
  (List.range 8).foldl (fun (s : State) (k : Nat) =>
    ((s.stackOf k).regionsOf ctx).foldl (fun (s : State) rt => s.killRegion k rt.1 rt.2) s) s

/-- Terminates the groups of a context; its launches, placed or not, leave the device without an arrival. -/
def State.endLaunches (s : State) (ctx : Nat) : State :=
  let hs := (s.blocks.map (fun b => if (s.hdrOfBlock b).ctx = ctx then b.handles else [])).flatten
  let s := hs.foldl State.terminate s
  let ids := (s.launches.filter (fun l => l.hdr.ctx = ctx)).map (fun l => l.id)
  let gone := fun (id : Nat) => ids.contains id
  { s with
    launches := s.launches.filter (fun l => !gone l.id)
    sched.queues := s.sched.queues.map (fun q => (q.1, q.2.filter (fun id => !gone id)))
    sched.pool := s.sched.pool.filter (fun id => !gone id)
    sched.saveOps := s.sched.saveOps.filter (fun o => !gone o.launch)
    sched.saved := s.sched.saved.filter (fun v => !gone v.launch) }

/-- Terminates a context's groups, kills its regions, and makes it invalid. -/
def State.endContext (s : State) (ctx : Nat) : State :=
  if (s.ctxOf ctx).valid then
    ((s.endLaunches ctx).killRegions ctx).updCtx ctx (fun c => { c with valid := false, slotsTaken := [], detLogUsed := 0 })
  else s

/-- Whether a channel still counts a stream reply for a context (10 R216): a reply on its way to a tile. -/
def State.quarantined (s : State) (ctx : Nat) : Bool :=
  s.fabrics.any (fun k => k.replies ctx (List.range 64))

/-! ## Management commands (13 R293) -/

/-- An argument register of a management command. -/
def State.mgArg (s : State) (i : Nat) : DWord := nth 0 s.plat.mgargs i

/-- Ends a command with a status: 0 OK, 2 BADARG, 3 BADCMD, 4 NORES. -/
def State.mgEnd (s : State) (code : Nat) : State := { s with plat.mgstat := BitVec.ofNat 32 code }

/-- Whether the arguments have no bit outside the masks that a packing names. -/
def State.mgNamed (s : State) (masks : List DWord) : Bool :=
  (List.range 4).all (fun (i : Nat) => decide ((s.mgArg i &&& ~~~nth 0 masks i) = 0))

/-- A command while it runs: BADARG for a bit that its packing does not name or a field outside its range. -/
def mgCommand (code : Nat) (masks : List DWord) (ok : State → Bool) (body : State → State) (s : State) : Out :=
  if s.plat.mgstat = 1 && s.plat.mgcmd = BitVec.ofNat 32 code then
    .next (if s.mgNamed masks && ok s then body s else s.mgEnd 2)
  else .next s

/-- A field of an argument. -/
def State.mgField (s : State) (i lo len : Nat) : Nat := bits (s.mgArg i).toNat lo len

/-- All bits of an argument. -/
def mgAll : DWord := 0xFFFFFFFFFFFFFFFF

/-- CTXCREATE. The context's root goes into the context table (06 R129). -/
def execCtxcreate (s : State) : Out :=
  mgCommand 0x01 [0x3FFF, 0xFFFFFFFFFF000] (fun _ => true) (fun s =>
    let c := s.mgField 0 0 8
    if (s.ctxOf c).valid || s.quarantined c then s.mgEnd 4
    else
      let s := s.putHome (s.dev.ctxtab.toNat * 2 ^ 20 + 8 * c) 8 ((s.mgArg 1).toNat + 1)
      let s := s.updCtx c (fun x => { x with valid := true, ceiling := s.mgField 0 8 6, quota := 0 })
      State.mgEnd { s with plat.bootstat := s.plat.bootstat ||| 0x100#32 } 0) s

/-- CTXDESTROY. -/
def execCtxdestroy (s : State) : Out :=
  mgCommand 0x02 [0xFF] (fun _ => true) (fun s => (s.endContext (s.mgField 0 0 8)).mgEnd 0) s

/-- MBBIND. A clear EN stops reservations and waits, with the command BUSY, for the committed slots. -/
def execMbbind (s : State) : Out :=
  mgCommand 0x03 [0x1FFFFFF, 0xFFFF] (fun s => decide (s.mgField 1 0 16 < 2048 ∨ s.mgField 1 0 16 = 0xFFFF)) (fun s =>
    let n := s.mgField 0 0 8
    let bind := fun (m : Mailbox) => { m with
      ctx := s.mgField 0 8 8, queue := s.mgField 0 16 8, vector := BitVec.ofNat 16 (s.mgField 1 0 16) }
    if s.mgField 0 24 1 = 1 then (s.setMb n { bind (s.mb n) with en := true, closing := false }).mgEnd 0
    else
      let m := ({ s.mb n with en := false, closing := true } : Mailbox).settle
      if m.closing then s.setMb n m else (s.setMb n (bind m)).mgEnd 0) s

/-- QASSIGN. -/
def execQassign (s : State) : Out :=
  mgCommand 0x04 [0xFFFF] (fun _ => true) (fun s =>
    State.mgEnd { s with sched.queueOwner := put s.sched.queueOwner (s.mgField 0 0 8) (s.mgField 0 8 8) } 0) s

/-- SAVEPOOL. -/
def execSavepool (s : State) : Out :=
  mgCommand 0x05 [0xFFFFFFFF000000FF, mgAll, mgAll, mgAll]
    (fun s => s.mgField 1 0 12 = 0 && s.mgField 2 0 12 = 0 && s.mgField 3 0 12 = 0) (fun s =>
    (s.updCtx (s.mgField 0 0 8) (fun c => { c with
      savePool := s.mgArg 1, savePoolBytes := (s.mgArg 2).toNat
      detLog := s.mgArg 3, detLogPages := s.mgField 0 32 32 })).mgEnd 0) s

/-- POWERCAP (13 R298): a value outside 1,200 to 2,500 W is stored as the nearer bound. -/
def execPowercap (s : State) : Out :=
  mgCommand 0x06 [0xFFF] (fun _ => true) (fun s =>
    let w := s.mgField 0 0 12
    State.mgEnd { s with plat.powercap := if w < 1200 then 1200 else if 2500 < w then 2500 else w } 0) s

/-- SEGMAP (13 R295). -/
def execSegmap (s : State) : Out :=
  mgCommand 0x07 [0x1FF1F, mgAll] (fun s => decide (s.mgField 0 0 5 ≤ 16)) (fun s =>
    let e : Segment := ⟨s.mgField 0 16 1 = 1, s.mgArg 1 &&& ~~~(0x3FFFFFF#64)⟩
    State.mgEnd { s with plat.segments := put s.plat.segments (256 * s.mgField 0 0 5 + s.mgField 0 8 8) e } 0) s

/-- FREEZE (12 R287). -/
def execFreezeCmd (s : State) : Out :=
  mgCommand 0x08 [mgAll] (fun s => s.mgArg 0 = 0xF2EE) (fun s => { s.mgEnd 0 with frozen := true }) s

/-- CFGKEY: enrols the key at an address and extends MR7. -/
def enrolKey (s : State) : State :=
  if 16 ≤ s.plat.keys.length then s.mgEnd 4
  else
    let r := s.homeBytes ((List.range 32).map (fun (i : Nat) => (s.mgArg 0).toNat + i))
    let s := r.1
    let mr := digestOf (toBytes 32 (nth 0 s.plat.mrs 7).toNat ++ sha256 r.2)
    State.mgEnd { s with plat.keys := s.plat.keys ++ [BitVec.ofNat 256 (ofBytes r.2)], plat.mrs := setNth s.plat.mrs 7 mr } 0

/-- CFGKEY (13 R293, R296): refused with BADCMD before LOCK and once KEYLOCK is set. -/
def execCfgkey (s : State) : Out :=
  if s.plat.mgstat = 1 && s.plat.mgcmd = 9 && (s.plat.bootstat.getLsbD 8 || !s.plat.bootstat.getLsbD 7) then .next (s.mgEnd 3)
  else mgCommand 0x09 [mgAll] (fun s =>
    s.mgField 0 0 5 = 0 && (match region (s.mgArg 0).toNat with
      | .hbm _ => true
      | .ct => true
      | _ => false)) enrolKey s

/-- FABQUOTA. -/
def execFabquota (s : State) : Out :=
  mgCommand 0x0A [0x3FF00FF] (fun s => decide (s.mgField 0 16 10 ≤ 512)) (fun s =>
    (s.updCtx (s.mgField 0 0 8) (fun c => { c with quota := s.mgField 0 16 10 })).mgEnd 0) s

/-- MGCMD_BADCMD: a command code that is not in the table. -/
def execMgcmdBadcmd (code : BitVec 32) (s : State) : Out :=
  .next (if s.plat.mgstat = 1 && s.plat.mgcmd = code && (code = 0 || 0x0A#32 < code) then s.mgEnd 3 else s)

/-! ## Freeze, reset, bring-up -/

/-- FREEZE entered through the IEEE 1149.1 port (12 R287). -/
def execFreezeJtag (s : State) : Out := .next { s with frozen := true }

/-- COLD_RESET (13 R296 step 1): every field as after reset; the boot ROM tries the primary, then the secondary image. -/
def execColdReset (primaryOk secondaryOk : Bool) (s : State) : Out :=
  let t := { State.reset with agenda := s.agenda, fresh := s.fresh, plat.out := s.plat.out }
  if primaryOk || secondaryOk then .next { t with plat.bootstat := if primaryOk then 0x5#32 else 0x9#32 }
  else .next { t with plat.bootFailed := true, plat.crs := false }

/-- Extends a measurement register with a digest (13 R296 step 3). -/
def extendMr (m digest : BitVec 256) : BitVec 256 := digestOf (toBytes 32 m.toNat ++ toBytes 32 digest.toNat)

/-- A Ranger whose firmware starts. -/
def Ranger.start (r : Ranger) (entry : DWord) : Ranger :=
  { r with running := true, grp := { r.grp with live := 1, tab := [⟨entry, 1, .ready, 0, false, true⟩] } }

/-- The end of the training of step 2: BOOTSTAT.STAGE shows that the firmware measures (13 R296). -/
def State.trained (s : State) : State :=
  if s.plat.bootstat.toNat % 4 = 1 then { s with plat.bootstat := s.plat.bootstat + 1 } else s

/-- BRINGUP_COMPLETE (13 R296 steps 2 to 4): what is left of them, from either stage. -/
def execBringupComplete (s : State) : Out :=
  if s.plat.bootstat.toNat % 4 = 1 || s.plat.bootstat.toNat % 4 = 2 then
    .next { s with
      plat.mrs := ((List.range 8).zip s.plat.mrs).map (fun im => extendMr im.2 (Config.measurement im.1))
      plat.bootstat := s.plat.bootstat ||| 0x83#32
      plat.crs := false
      rangers := ((List.range s.rangers.length).zip s.rangers).map (fun ir => ir.2.start (Config.rangerEntry ir.1)) }
  else .next s

/-- FUNCTION_LEVEL_RESET (13 R296). -/
def execFunctionLevelReset (s : State) : Out :=
  let s := (List.range 256).foldl State.endContext s
  let s := (List.range 256).foldl State.killRegions s
  .next { s with plat.mailboxes := s.plat.mailboxes.map (fun m =>
    (m.1, { m.2 with slots := [], rptr := 0, cptr := 0, dptr := 0, closing := false })) }

/-- A configuration register's value: identity as R288 states, with no interrupt pin (no INTx; the register's place is PCI Express's),
the rest as PCI Express defines it. -/
def State.cfgReg (s : State) (reg : Nat) : Word :=
  if reg = 0 then 0x4B041F4C else if reg = 8 then 0x12000001
  else if reg = 0x3C then Config.pciConfig reg s.fresh &&& 0xFFFF00FF#32
  else Config.pciConfig reg s.fresh

/-- CONFIG_REQUEST (13 R288, R289): retry status until bring-up; then a read, a write, or a size for BAR2, which a module whose boot
failed does not have (R296). -/
def execConfigRequest (q : ConfigReq) (s : State) : Out :=
  if s.plat.crs then .next (s.emit .retryStatus)
  else match q with
  | .read reg => .next ((s.emit (.configDone reg (s.cfgReg reg))).next)
  | .write reg v => .next (s.emit (.configDone reg v))
  | .resizeBar2 n => .next (if 30 ≤ n && n ≤ 42 && !s.plat.bootFailed then { s with plat.bar2Log := n } else s)

/-! ## Attestation (13 R297) -/

/-- A request through DOE: retry status before bring-up; an error without firmware, or before negotiation where one is
needed. -/
def spdm (needs : Bool) (answer : State → State) (s : State) : Out :=
  if s.plat.crs then .next (s.emit .retryStatus)
  else if s.plat.bootFailed || (needs && !s.plat.spdmReady) then .next (s.emit .spdmError)
  else .next (answer s)

/-- GET_VERSION: SPDM 1.3. -/
def execGetVersion (s : State) : Out := spdm false (fun s => s.emit (.spdmVersion 0x13)) s
/-- GET_CAPABILITIES. -/
def execGetCapabilities (s : State) : Out := spdm false (fun s => s.emit .spdmCapabilities) s
/-- NEGOTIATE_ALGORITHMS: SHA-256 and SLH-DSA-SHA2-128f, by their numbers 1 and 1 here, or an error. -/
def execNegotiateAlgorithms (offersSlhDsa128f : Bool) (s : State) : Out :=
  spdm false (fun s =>
    let s := { s with plat.spdmReady := offersSlhDsa128f }
    s.emit (if offersSlhDsa128f then .spdmAlgorithms 1 1 else .spdmError)) s
/-- GET_DIGESTS: of the chain in certificate slot 0. -/
def execGetDigests (s : State) : Out := spdm true (fun s => s.emit (.spdmDigests (digestOf (Config.certificate 0)))) s
/-- GET_CERTIFICATE: a portion of the chain in certificate slot 0. -/
def execGetCertificate (slot offset length : Nat) (s : State) : Out :=
  spdm true (fun s => s.emit (if slot = 0 then .spdmCertificate (((Config.certificate 0).drop offset).take length) else .spdmError)) s
/-- CHALLENGE: a signature with the identity key. -/
def execChallenge (slot : Nat) (nonce : BitVec 256) (s : State) : Out :=
  spdm true (fun s => s.emit (if slot = 0 then .spdmChallenge (Config.slhSign (toBytes 32 nonce.toNat)) else .spdmError)) s
/-- GET_MEASUREMENTS: indices 1 to 8 report MR0 to MR7. -/
def execGetMeasurements (index : Nat) (nonce : BitVec 256) (s : State) : Out :=
  spdm true (fun s =>
    let m := nth 0 s.plat.mrs (index - 1)
    s.emit (if 1 ≤ index && index ≤ 8 then
      .spdmMeasurement index m (Config.slhSign (toBytes 32 nonce.toNat ++ toBytes 32 m.toNat)) else .spdmError)) s

/-! ## Power (13 R298) -/

/-- SUPPLY_SAG: the partition's clock stretches and SAGCNT counts. -/
def execSupplySag (core part : Nat) (s : State) : Out :=
  .next (if core < 192 && part < 4 then { s with
    plat.sagcnt := s.plat.sagcnt + 1
    plat.stretched := if s.plat.stretched.contains (core, part) then s.plat.stretched else s.plat.stretched ++ [(core, part)] } else s)

/-- CLOCK_STRETCH_END. -/
def execClockStretchEnd (core part : Nat) (s : State) : Out :=
  .next { s with plat.stretched := s.plat.stretched.filter (fun c => c != (core, part)) }

/-! ## Peers (13 R294, R295) -/

/-- The first address and the bytes of a peer's request. -/
def peerSpan : PeerRequest → Nat × Nat
  | .load pa n => (pa.toNat, n)
  | .store pa d => (pa.toNat, d.length)
  | .atomic pa aop _ => (pa.toNat, atomBytes aop.toNat)
  | .arrive pa _ => (pa.toNat, 16)
  | .ocall pa _ _ _ _ _ _ _ _ _ => (pa.toNat, 64)
  | .append pa _ => (pa.toNat, 8)
  | .bind pa _ _ _ => (pa.toNat, 64)

/-- Whether a request lies in device memory, in segments exposed to its port. -/
def State.exposedTo (s : State) (port pa n : Nat) : Bool :=
  let seg := fun (a : Nat) => s.plat.exposed.contains (port, a / 2 ^ 26 * 2 ^ 26) && (match region a with
    | .hbm _ => true
    | .ct => true
    | _ => false)
  seg pa && seg (pa + n - 1)

/-- An OCALL from a peer, as a request whose reply goes back through the port; its unit checks its context like any other's (09 R193). -/
def State.peerCall (s : State) (port pa : Nat) (meth : Byte) (arg : DWord) (ctx : Nat) (wid : DWord) (w : List Nat)
    (blk gix lane vd : Nat) : State :=
  let o := s.boundAt pa
  let r : Request := { hdrVa := (o.map (fun o => o.hdrVa)).getD 0, hdrPa := pa, unit := unitOf pa, meth := meth, arg := arg
                       ctx := ctx, wid := wid, widths := w
                       dest := some ⟨blk, gix, lane, vd, 0, some port, true⟩, stamp := s.fresh }
  { s with potluck.net := s.potluck.net ++ [r], fresh := s.fresh + 1 }

/-- PEER_REQUEST_ARRIVE: served at its home, or answered with the violation response. -/
def execPeerRequestArrive (port : Nat) (q : PeerRequest) (s : State) : Out :=
  let pn := peerSpan q
  let lines := (List.range pn.2).map (fun (i : Nat) => pn.1 + i)
  if 16 ≤ port || s.plat.linksDown.contains port then .next s
  else if !s.exposedTo port pn.1 pn.2 then
    .next ((s.emit .peerViolation).violation (homeDie pn.1) 0 (BitVec.ofNat 64 pn.1))
  else match q with
  | .load _ _ =>
    if s.homeOwned lines then .next s
    else if lines.any (fun a => s.poisoned a) then .next (s.emit .peerViolation)
    else
      let r := s.homeBytes lines
      .next (r.1.emit (.peerData r.2))
  | .store pa d => if s.homeOwned lines then .next s else .next ((s.homePut pa.toNat d).emit .peerDone)
  | .atomic pa aop d =>
    if s.homeOwned lines then .next s
    else if !(pa.toNat % pn.2 = 0 && aop.toNat ≤ 0x19) then .next (s.emit .peerViolation)
    else match s.atomBytes (.ranger 0) (s.atHome pa.toNat) aop.toNat d.toNat with
      | (s, some v) => .next (s.emit (.peerData (toBytes pn.2 v)))
      | (s, none) => .next (s.emit .peerViolation)
  | .arrive pa n =>
    if s.homeOwned lines then .next s
    else match s.arrive 0 0 (s.atHome pa.toNat) n.toNat with
    | .done s => .next (s.emit .peerDone)
    | .barfault s => .next (s.emit .peerViolation)
    | .poison s => .next (s.emit .peerViolation)
  | .ocall pa meth arg ctx wid w blk gix lane vd => .next (s.peerCall port pa.toNat meth arg ctx wid w blk gix lane vd)
  | .append pa n =>
    if s.homeOwned lines then .next s
    else if pa.toNat % 8 != 0 || s.poisoned pa.toNat then .next (s.emit .peerViolation)
    else
      let h := s.homeRead pa.toNat 8
      let count := bits h 0 24
      let s := if bits h 32 24 < count + n then s else s.putHome pa.toNat 8 (h - count + (count + n))
      .next (s.emit (.peerData (toBytes 8 h)))
  | .bind pa va unbind ctx =>
    let bound := fun (c : Option Byte) (s : State) => Host.Outcome.next (s.emit (.peerBound port c))
    if va.toNat % 64 != 0 || pa.toNat % 64 != 0 then bound (some 0x13) s
    else match s.bindAt va pa.toNat ctx unbind with
    | .fault c => bound (some (BitVec.ofNat 8 c)) s
    | .wait => .next s
    | .ok s => bound none s

/-- LINK: a port's link goes down. Replies still to come through it become fault replies with cause MEMFAULT. -/
def execLinkDown (port : Nat) (s : State) : Out :=
  if 16 ≤ port || s.plat.linksDown.contains port then .next s
  else
    let s := { s with
      plat.linksDown := s.plat.linksDown ++ [port]
      potluck.replies := s.potluck.replies.map (fun (r : Reply) =>
        if r.dest.via = some port && !r.dest.peer then { r with value := 0, fault := some 0x01 } else r) }
    .next (s.logPlain 0 0x0C 0 0)

/-! ## Memory errors (01 R12) -/

/-- MEMORY_ECC_ERROR: a correctable error changes nothing; an uncorrectable one poisons its sector and is logged. -/
def execMemoryEccError (pa : Nat) (correctable : Bool) (s : State) : Out :=
  let there := match region pa with
    | .hbm _ => true
    | .ct => true
    | _ => false
  .next (if there && !correctable then (s.setPoison pa true).logPlain (homeDie pa) 0x07 0 (BitVec.ofNat 64 pa) else s)

end Sys2Proof.Machine
end

