-- ==== Sys2Proof/Machine/System.lean ====
section
/-! DEFINITION. System registers and TRAPRET (spec 15 R330 to R332, 19 R428, 12 R275, 04 R89). -/

namespace Sys2Proof.Machine

/-- What a read or write of a system register comes to: a value and a state, a wait, or a trap. -/
inductive SysDone where
  | value (s : State) (v : Word)
  | wait
  | trap (c : Cause)

/-- Cause PRIV, with the register's number (12 R267). -/
def privCause (n : Nat) : Cause := ⟨0x19, 0, 0, BitVec.ofNat 64 n⟩

/-- Whether an access to a flag register must wait (04 R89): a producer in flight has flags of it still to set. -/
def Group.flagsPending (g : Group) (n : Nat) : Bool :=
  if n = 0 then g.pend.any (fun p => p.kind = .transcendental || p.fp != 0)
  else g.pend.any (fun p => p.kind = .genrd || p.kind = .accrd || p.mx != 0) || g.gmmas != [] || g.latch.isSome

/-- The context whose registers a party reaches: its own, or the one a Ranger has selected (15 R331). -/
def State.sysCtx (s : State) (p : Party) : Nat :=
  match p with
  | .ranger r => (s.rg r).ctxsel.toNat % 256
  | other => s.ctxOfParty other

/-- A slot buffer's SBSTAT (05 R114). -/
def SlotBuf.stat (b : SlotBuf) : Word :=
  let count := fun (t : SlotSt) => (b.slots.filter (fun x => x = t)).length
  BitVec.ofNat 32 (count .free + 2 ^ 8 * count .filled + 2 ^ 16 * b.pix + (if b.pph then 2 ^ 22 else 0) + 2 ^ 24 * b.cix
    + (if b.cph then 2 ^ 30 else 0))

/-- A register of a context (15 R330). -/
def Ctx.sysReg (c : Ctx) (n : Nat) : Word :=
  match n with
  | 0x100 => c.privBase.setWidth 32
  | 0x101 => c.privBase.extractLsb' 32 32
  | 0x102 => c.hbmPool.setWidth 32
  | 0x103 => c.hbmPool.extractLsb' 32 32
  | 0x104 => c.ctPool.setWidth 32
  | 0x105 => c.ctPool.extractLsb' 32 32
  | 0x107 => c.privStride
  | _ => c.privSlots

/-- Writes a register of a context; reserved bits stay zero (15 R330, R331). -/
def Ctx.setSysReg (c : Ctx) (n : Nat) (v : Word) : Ctx :=
  match n with
  | 0x100 => { c with privBase := setHalf c.privBase false (v &&& 0xFFE00000#32) }
  | 0x101 => { c with privBase := setHalf c.privBase true v }
  | 0x102 => { c with hbmPool := setHalf c.hbmPool false (v &&& 0xFFFFFFC0#32) }
  | 0x103 => { c with hbmPool := setHalf c.hbmPool true v }
  | 0x104 => { c with ctPool := setHalf c.ctPool false (v &&& 0xFFFFFFC0#32) }
  | 0x105 => { c with ctPool := setHalf c.ctPool true v }
  | 0x107 => { c with privStride := v &&& 0xFFFFFFF0#32 }
  | _ => { c with privSlots := v &&& 0xFFFFF#32 }

/-- SYS.FBCTL as stored: WDLOG between 12 and 30, BTLOG at least 8, reserved bits zero (10 R237). -/
def fbctlOf (v : Word) : Word :=
  let wd := bits v.toNat 21 5
  let bt := bits v.toNat 16 4
  let wd := if wd < 12 then 12 else if 30 < wd then 30 else wd
  BitVec.ofNat 32 (wd * 2 ^ 21 + bits v.toNat 20 1 * 2 ^ 20 + (if bt < 8 then 8 else bt) * 2 ^ 16)

/-- Whether only a Ranger reads a register (15 R330). -/
def rangerRead (n : Nat) : Bool := n = 0x106 || n = 0x200 || (0x210 ≤ n && n ≤ 0x212) || (0x308 ≤ n && n ≤ 0x30B) || 0xF00 ≤ n
/-- Whether only a Ranger writes a register (15 R330). -/
def rangerWrite (n : Nat) : Bool := (0x100 ≤ n && n ≤ 0x30A) || (0xF00 ≤ n && n != 0xF04 && n != 0xF05)
/-- Whether a register is held per block or launch, which a wave reaches with cause FORBID (19 R428). -/
def blockHeld (n : Nat) : Bool := n = 3 || n = 4 || (0x20 ≤ n && n ≤ 0x3F)

/-- A register that a group holds in its launch or names itself by; free where a wave or a Ranger has no such copy. -/
def State.ownReg (s : State) (p : Party) (v : Block → Option Word) : State × Word :=
  match (s.blockOfParty p).bind v with
  | some w => (s, w)
  | none => (s.next, Config.ownCopy s.fresh)

/-- A group-, launch- or block-held register (15 R330, R331). -/
def State.sysOwn (s : State) (p : Party) (g : Group) (n : Nat) : State × Word :=
  match n with
  | 0 => (s, g.fpflags.setWidth 32)
  | 1 => (s, g.mxflags.setWidth 32)
  | 2 => (s, g.phwm)
  | 3 => s.ownReg p (fun b => some ((s.hdrOfBlock b).param.setWidth 32))
  | 4 => s.ownReg p (fun b => some ((s.hdrOfBlock b).param.extractLsb' 32 32))
  | 5 => match p with
    | .ranger _ => s.ownReg p (fun _ => none)
    | _ => (s, BitVec.ofNat 32 (s.ctxOfParty p))
  | 6 => match p with
    | .group h => (s, (handleCode h).setWidth 32)
    | _ => s.ownReg p (fun _ => none)
  | 8 => s.clkLo p
  | 9 => (s, lookD 0 s.dev.clkhi (clkKey p))
  | 0x10 => (s, BitVec.ofNat 32 g.gang.length)
  | n =>
    if n < 0x20 then (s, BitVec.ofNat 32 (nth 0 g.gang (n - 0x11)))
    else match s.blockOfParty p with
      | none => (s, 0)
      | some b =>
        if n < 0x30 then (s, if n - 0x20 < b.sbufs.length then (b.sbuf (n - 0x20)).cfg else 0)
        else (s, if n - 0x30 < b.sbufs.length then (b.sbuf (n - 0x30)).stat else 0)

/-- A register that only Rangers reach, or that a stack holds (15 R330). -/
def State.sysDev (s : State) (r n : Nat) : State × Word :=
  match n with
  | 0x106 => (s, (s.rg r).ctxsel)
  | 0x200 => (s, s.dev.ctxtab)
  | 0x210 => (s, s.dev.tlbivalo)
  | 0x211 => (s, s.dev.tlbivahi)
  | 0x212 => (s, s.tlbiWord)
  | 0x309 => (s, s.fbownRead)
  | 0x30B => (s, s.dev.fbrstat ||| (if s.dev.fbrBusy.isSome then 0x80000000#32 else 0))
  | 0xF00 => (s, (s.rg r).wsel)
  | 0xF01 => (s, (s.rg r).waddr)
  | 0xF02 => s.winRead r
  | 0xF04 => (s, (s.rg r).wstat)
  | 0xF05 => s.tqTake r
  | 0xF06 => (s, s.dev.dbtab)
  | _ => (s, 0)

/-- The Ranger's number, or 0. -/
def rangerNo : Party → Nat
  | .ranger r => r
  | _ => 0

/-- A read of a system register by a party (15 R330, R331). -/
def State.sysRead (s : State) (p : Party) (g : Group) (n : Nat) : SysDone :=
  if !isRangerParty p && rangerRead n then .trap (privCause n)
  else if isWave p && blockHeld n then .trap (privCause n)
  else if n ≤ 1 && g.flagsPending n then .wait
  else
    let r := if n < 0x100 then s.sysOwn p g n
      else if (0x100 ≤ n && n ≤ 0x105) || n = 0x107 || n = 0x108 then (s, (s.ctxOf (s.sysCtx p)).sysReg n)
      else if 0x300 ≤ n && n ≤ 0x307 then (s, (s.stackOf (n - 0x300)).fbctl)
      else s.sysDev (rangerNo p) n
    .value r.1 r.2
where
  isRangerParty : Party → Bool
    | .ranger _ => true
    | _ => false
  isWave : Party → Bool
    | .wave _ _ => true
    | _ => false

/-- A Ranger's write of a register that only Rangers write (15 R330). -/
def State.sysDevWrite (s : State) (r n : Nat) (v : Word) : State :=
  if (0x100 ≤ n && n ≤ 0x105) || n = 0x107 || n = 0x108 then s.updCtx (s.sysCtx (.ranger r)) (fun c => c.setSysReg n v)
  else if 0x300 ≤ n && n ≤ 0x307 then s.updStack (n - 0x300) (fun k => k.setFbctl (fbctlOf v))
  else match n with
  | 0x106 => s.setRg r { s.rg r with ctxsel := v &&& 0xFF#32 }
  | 0x200 => { s with dev.ctxtab := v }
  | 0x210 => { s with dev.tlbivalo := v }
  | 0x211 => { s with dev.tlbivahi := v }
  | 0x212 => s.tlbiWrite v
  | 0x308 => s.fbsact v
  | 0x309 => s.fbownWrite v
  | 0x30A => s.fbrcmd v
  | 0xF00 => s.setRg r { s.rg r with wsel := v &&& 0xFFFF#32 }
  | 0xF01 => s.setRg r { s.rg r with waddr := v }
  | 0xF02 => s.winWrite r v
  | 0xF03 => s.wcmd r v
  | 0xF06 => { s with dev.dbtab := v }
  | 0xF07 => s.dbsync (v.toNat % 256)
  | _ => s

/-- Ends a word whose effect is on the state outside its own group, which has retired already. -/
def afterRetire (x : Issue) (f : State → State) (s : State) : State := f (retire x x.g s)

/-- A write of the read-only SYS.SBSTAT: ignored, but for a buffer that the block does not have (15 R331). -/
def writeSbstat (x : Issue) (n : Nat) (s : State) : State :=
  match x.party, s.blockOfParty x.party with
  | .group _, some b => if b.sbufs.length ≤ n then trapWord x (sbFault n 0) x.active s else retire x x.g s
  | .wave _ _, _ => trapWord x (privCause (0x30 + n)) x.active s
  | _, _ => retire x x.g s

/-- A write of SYS.SBCFG by a group, or by a party without slot buffers (05 R113, 15 R331, R324). -/
def writeSbcfg (x : Issue) (n : Nat) (v : Word) (s : State) : State :=
  match x.party with
  | .ranger _ => trapWord x (causeOf 0x01) x.active s
  | _ => match s.blockOfParty x.party with
    | none => trapWord x (privCause (0x20 + n)) x.active s
    | some b =>
      if (s.sbcfg b n v).isNone then trapWord x (sbFault n 0) x.active s
      else afterRetire x (fun s => match s.blockUid b.uid with
        | some b => (sbcfgApply b n v s).getD s
        | none => s) s

/-- A write of a system register (15 R330, R331). -/
def sysWriteWord (n : Nat) (v : Word) (x : Issue) (s : State) : State :=
  let wave : Bool := match x.party with
    | .wave _ _ => true
    | _ => false
  if n ≤ 1 then
    if x.g.flagsPending n then hold s
    else retire x (if n = 0 then { x.g with fpflags := x.g.fpflags &&& ~~~(v.setWidth 8) }
      else { x.g with mxflags := x.g.mxflags &&& ~~~(v.setWidth 8) }) s
  else if 0x20 ≤ n && n ≤ 0x2F then writeSbcfg x (n - 0x20) v s
  else if 0x30 ≤ n && n ≤ 0x3F then writeSbstat x (n - 0x30) s
  else if wave && (blockHeld n || rangerRead n) then trapWord x (privCause n) x.active s
  else if rangerWrite n then
    match x.party with
    | .ranger r => afterRetire x (fun s => s.sysDevWrite r n v) s
    | _ => trapWord x (privCause n) x.active s
  else if !rangerRead n then retire x x.g s
  else match x.party with
    | .ranger _ => retire x x.g s
    | _ => trapWord x (privCause n) x.active s

/-- SYSRD (19 R428): once for the entry; the destination is written at issue. -/
def execSysrd (f : FmtS) (s : State) : Out :=
  laneWord (.sysrd f) (fun x s =>
    match s.sysRead x.party x.g f.sysnum.toNat with
    | .value s v => retire x (x.g.sset f.reg.toNat v) s
    | .wait => hold s
    | .trap c => trapWord x c x.active s) s

/-- SYSWR (19 R428). -/
def execSyswr (f : FmtS) (s : State) : Out :=
  laneWord (.syswr f) (fun x s => sysWriteWord f.sysnum.toNat (x.g.sget f.reg.toNat) x s) s

/-- TRAPRET (12 R275): PRIV but on a Ranger, which resumes the group it has selected. -/
def execTrapret (f : FmtV) (s : State) : Out :=
  laneWord (.trapret f) (fun x s =>
    match x.party with
    | .ranger r => afterRetire x (fun s => s.trapReturn r) s
    | _ => trapWord x (privCause 0) x.active s) s

end Sys2Proof.Machine
end

