-- ==== Sys2Proof/Machine/Dispatch.lean ====
section
/-! DEFINITION. One arm per instruction: a direct call of its meaning. -/

namespace Sys2Proof.Machine

/-- What an instruction does for the party that issues it, or what an event does. -/
def exec (i : Instr) (s : State) : Host.Outcome State Fault Refusal :=
  match i with
  | .nop f => Sys2Proof.Machine.execNop f s
  | .mov f => Sys2Proof.Machine.execMov f s
  | .movl f => Sys2Proof.Machine.execMovl f s
  | .iadd f => Sys2Proof.Machine.execIadd f s
  | .iaddi f => Sys2Proof.Machine.execIaddi f s
  | .isub f => Sys2Proof.Machine.execIsub f s
  | .imul f => Sys2Proof.Machine.execImul f s
  | .imulh f => Sys2Proof.Machine.execImulh f s
  | .imad f => Sys2Proof.Machine.execImad f s
  | .imin f => Sys2Proof.Machine.execImin f s
  | .imax f => Sys2Proof.Machine.execImax f s
  | .iabs f => Sys2Proof.Machine.execIabs f s
  | .and f => Sys2Proof.Machine.execAnd f s
  | .andi f => Sys2Proof.Machine.execAndi f s
  | .andn f => Sys2Proof.Machine.execAndn f s
  | .or f => Sys2Proof.Machine.execOr f s
  | .ori f => Sys2Proof.Machine.execOri f s
  | .xor f => Sys2Proof.Machine.execXor f s
  | .xori f => Sys2Proof.Machine.execXori f s
  | .shl f => Sys2Proof.Machine.execShl f s
  | .shli f => Sys2Proof.Machine.execShli f s
  | .shr f => Sys2Proof.Machine.execShr f s
  | .shri f => Sys2Proof.Machine.execShri f s
  | .sar f => Sys2Proof.Machine.execSar f s
  | .sari f => Sys2Proof.Machine.execSari f s
  | .bfx f => Sys2Proof.Machine.execBfx f s
  | .bfi f => Sys2Proof.Machine.execBfi f s
  | .popc f => Sys2Proof.Machine.execPopc f s
  | .clz f => Sys2Proof.Machine.execClz f s
  | .permb f => Sys2Proof.Machine.execPermb f s
  | .lea f => Sys2Proof.Machine.execLea f s
  | .isetp f => Sys2Proof.Machine.execIsetp f s
  | .isetpi f => Sys2Proof.Machine.execIsetpi f s
  | .sel f => Sys2Proof.Machine.execSel f s
  | .cvti f => Sys2Proof.Machine.execCvti f s
  | .cvtf f => Sys2Proof.Machine.execCvtf f s
  | .pack f => Sys2Proof.Machine.execPack f s
  | .unpack f => Sys2Proof.Machine.execUnpack f s
  | .msk f => Sys2Proof.Machine.execMsk f s
  | .fadd f => Sys2Proof.Machine.execFadd f s
  | .fmul f => Sys2Proof.Machine.execFmul f s
  | .ffma f => Sys2Proof.Machine.execFfma f s
  | .fmin f => Sys2Proof.Machine.execFmin f s
  | .fmax f => Sys2Proof.Machine.execFmax f s
  | .fsetp f => Sys2Proof.Machine.execFsetp f s
  | .frcp f => Sys2Proof.Machine.execFrcp f s
  | .frsq f => Sys2Proof.Machine.execFrsq f s
  | .fexp2 f => Sys2Proof.Machine.execFexp2 f s
  | .flog2 f => Sys2Proof.Machine.execFlog2 f s
  | .fdot2 f => Sys2Proof.Machine.execFdot2 f s
  | .fdot4 f => Sys2Proof.Machine.execFdot4 f s
  | .hfma2 f => Sys2Proof.Machine.execHfma2 f s
  | .idp4 f => Sys2Proof.Machine.execIdp4 f s
  | .idp8 f => Sys2Proof.Machine.execIdp8 f s
  | .isqd4 f => Sys2Proof.Machine.execIsqd4 f s
  | .hamd f => Sys2Proof.Machine.execHamd f s
  | .pqacc f => Sys2Proof.Machine.execPqacc f s
  | .gsort f => Sys2Proof.Machine.execGsort f s
  | .gmergek f => Sys2Proof.Machine.execGmergek f s
  | .shfl f => Sys2Proof.Machine.execShfl f s
  | .gred f => Sys2Proof.Machine.execGred f s
  | .gscan f => Sys2Proof.Machine.execGscan f s
  | .vote f => Sys2Proof.Machine.execVote f s
  | .matchL f => Sys2Proof.Machine.execMatchL f s
  | .compact f => Sys2Proof.Machine.execCompact f s
  | .rgput f => Sys2Proof.Machine.execRgput f s
  | .rgtake f => Sys2Proof.Machine.execRgtake f s
  | .genrd f => Sys2Proof.Machine.execGenrd f s
  | .ld f => Sys2Proof.Machine.execLd f s
  | .lds f => Sys2Proof.Machine.execLds f s
  | .st f => Sys2Proof.Machine.execSt f s
  | .sts f => Sys2Proof.Machine.execSts f s
  | .atom f => Sys2Proof.Machine.execAtom f s
  | .atoms f => Sys2Proof.Machine.execAtoms f s
  | .fence f => Sys2Proof.Machine.execFence f s
  | .pref f => Sys2Proof.Machine.execPref f s
  | .cstore f => Sys2Proof.Machine.execCstore f s
  | .icinv f => Sys2Proof.Machine.execIcinv f s
  | .arrive f => Sys2Proof.Machine.execArrive f s
  | .waitb f => Sys2Proof.Machine.execWaitb f s
  | .sbres f => Sys2Proof.Machine.execSbres f s
  | .sbfill f => Sys2Proof.Machine.execSbfill f s
  | .sbtake f => Sys2Proof.Machine.execSbtake f s
  | .sbfree f => Sys2Proof.Machine.execSbfree f s
  | .join f => Sys2Proof.Machine.execJoin f s
  | .leave f => Sys2Proof.Machine.execLeave f s
  | .waitm f => Sys2Proof.Machine.execWaitm f s
  | .yield f => Sys2Proof.Machine.execYield f s
  | .bra f => Sys2Proof.Machine.execBra f s
  | .brx f => Sys2Proof.Machine.execBrx f s
  | .call f => Sys2Proof.Machine.execCall f s
  | .ret f => Sys2Proof.Machine.execRet f s
  | .exit f => Sys2Proof.Machine.execExit f s
  | .trap f => Sys2Proof.Machine.execTrap f s
  | .bkpt f => Sys2Proof.Machine.execBkpt f s
  | .trapret f => Sys2Proof.Machine.execTrapret f s
  | .bcopy f => Sys2Proof.Machine.execBcopy f s
  | .bgather f => Sys2Proof.Machine.execBgather f s
  | .tierin f => Sys2Proof.Machine.execTierin f s
  | .tierout f => Sys2Proof.Machine.execTierout f s
  | .gangset f => Sys2Proof.Machine.execGangset f s
  | .gmma f => Sys2Proof.Machine.execGmma f s
  | .accrd f => Sys2Proof.Machine.execAccrd f s
  | .accwr f => Sys2Proof.Machine.execAccwr f s
  | .accst f => Sys2Proof.Machine.execAccst f s
  | .genset f => Sys2Proof.Machine.execGenset f s
  | .cfgwr f => Sys2Proof.Machine.execCfgwr f s
  | .cfgseal f => Sys2Proof.Machine.execCfgseal f s
  | .cfgrun f => Sys2Proof.Machine.execCfgrun f s
  | .cfgrunResume f => Sys2Proof.Machine.execCfgrunResume f s
  | .cfgstat f => Sys2Proof.Machine.execCfgstat f s
  | .cfgdrain f => Sys2Proof.Machine.execCfgdrain f s
  | .cfgkill f => Sys2Proof.Machine.execCfgkill f s
  | .cfgevict f => Sys2Proof.Machine.execCfgevict f s
  | .obind f => Sys2Proof.Machine.execObind f s
  | .obindU f => Sys2Proof.Machine.execObindU f s
  | .ocall f => Sys2Proof.Machine.execOcall f s
  | .old f => Sys2Proof.Machine.execOld f s
  | .ost f => Sys2Proof.Machine.execOst f s
  | .ocommit f => Sys2Proof.Machine.execOcommit f s
  | .oabort f => Sys2Proof.Machine.execOabort f s
  | .launch f => Sys2Proof.Machine.execLaunch f s
  | .sysrd f => Sys2Proof.Machine.execSysrd f s
  | .syswr f => Sys2Proof.Machine.execSyswr f s
  | .wid f => Sys2Proof.Machine.execWid f s
  | .rgive f => Sys2Proof.Machine.execRgive f s
  | .rclaim f => Sys2Proof.Machine.execRclaim f s
  | .dualWord d => Sys2Proof.Machine.execDualWord d s
  | .producerComplete p id => Sys2Proof.Machine.execProducerComplete p id s
  | .rclaimGrant blk => Sys2Proof.Machine.execRclaimGrant blk s
  | .sbresGrant blk buf => Sys2Proof.Machine.execSbresGrant blk buf s
  | .sbtakeGrant blk buf => Sys2Proof.Machine.execSbtakeGrant blk buf s
  | .waitbWake p pc => Sys2Proof.Machine.execWaitbWake p pc s
  | .waitbPoll p pc => Sys2Proof.Machine.execWaitbPoll p pc s
  | .gangLatchOpen h => Sys2Proof.Machine.execGangLatchOpen h s
  | .regdeadlock blk => Sys2Proof.Machine.execRegdeadlock blk s
  | .watchdog p va => Sys2Proof.Machine.execWatchdog p va s
  | .eccfatal p what => Sys2Proof.Machine.execEccfatal p what s
  | .dispatcherCycle => Sys2Proof.Machine.execDispatcherCycle s
  | .rucksackSaveDone launch cset image => Sys2Proof.Machine.execRucksackSaveDone launch cset image s
  | .poolStarvation => Sys2Proof.Machine.execPoolStarvation s
  | .launchComplete launch => Sys2Proof.Machine.execLaunchComplete launch s
  | .ocallRequestArrive u => Sys2Proof.Machine.execOcallRequestArrive u s
  | .batchStart u => Sys2Proof.Machine.execBatchStart u s
  | .waveLimit u wslot => Sys2Proof.Machine.execWaveLimit u wslot s
  | .ocallReply ix => Sys2Proof.Machine.execOcallReply ix s
  | .faultReply ix => Sys2Proof.Machine.execFaultReply ix s
  | .copyEngineComplete id upto => Sys2Proof.Machine.execCopyEngineComplete id upto s
  | .tierPageMove id => Sys2Proof.Machine.execTierPageMove id s
  | .tierCommandComplete id => Sys2Proof.Machine.execTierCommandComplete id s
  | .icinvComplete id => Sys2Proof.Machine.execIcinvComplete id s
  | .tlbiRange r v => Sys2Proof.Machine.execTlbiRange r v s
  | .tlbiContext r v => Sys2Proof.Machine.execTlbiContext r v s
  | .tlbiAll r v => Sys2Proof.Machine.execTlbiAll r v s
  | .tlbiComplete => Sys2Proof.Machine.execTlbiComplete s
  | .stopCmd r => Sys2Proof.Machine.execStopCmd r s
  | .stepCmd r => Sys2Proof.Machine.execStepCmd r s
  | .terminateCmd r => Sys2Proof.Machine.execTerminateCmd r s
  | .preemptCmd r hold => Sys2Proof.Machine.execPreemptCmd r hold s
  | .releaseCmd r => Sys2Proof.Machine.execReleaseCmd r s
  | .wcmdBadcmd r v => Sys2Proof.Machine.execWcmdBadcmd r v s
  | .windowRead r => Sys2Proof.Machine.execWindowRead r s
  | .windowWrite r v => Sys2Proof.Machine.execWindowWrite r v s
  | .tqtake r => Sys2Proof.Machine.execTqtake r s
  | .dbsync r v => Sys2Proof.Machine.execDbsync r v s
  | .clkloRead p => Sys2Proof.Machine.execClkloRead p s
  | .sbcfgWrite blk buf v => Sys2Proof.Machine.execSbcfgWrite blk buf v s
  | .fbsactRetry r v => Sys2Proof.Machine.execFbsactRetry r v s
  | .fbsactUnresolvable r v => Sys2Proof.Machine.execFbsactUnresolvable r v s
  | .fbownSelect r v => Sys2Proof.Machine.execFbownSelect r v s
  | .fbownWrite r v => Sys2Proof.Machine.execFbownWrite r v s
  | .drainCmd r v => Sys2Proof.Machine.execDrainCmd r v s
  | .resumeCmd r v => Sys2Proof.Machine.execResumeCmd r v s
  | .lendCmd r v => Sys2Proof.Machine.execLendCmd r v s
  | .returnCmd r v => Sys2Proof.Machine.execReturnCmd r v s
  | .killCmd r v => Sys2Proof.Machine.execKillCmd r v s
  | .eraseCmd r v => Sys2Proof.Machine.execEraseCmd r v s
  | .fbrcmdBadcmd r v => Sys2Proof.Machine.execFbrcmdBadcmd r v s
  | .frgreq h ox oy rid => Sys2Proof.Machine.execFrgreq h ox oy rid s
  | .ftrust h => Sys2Proof.Machine.execFtrust h s
  | .fverify h => Sys2Proof.Machine.execFverify h s
  | .runSelect stack rid => Sys2Proof.Machine.execRunSelect stack rid s
  | .loadingComplete stack rid => Sys2Proof.Machine.execLoadingComplete stack rid s
  | .runDone stack rid => Sys2Proof.Machine.execRunDone stack rid s
  | .drainComplete stack rid => Sys2Proof.Machine.execDrainComplete stack rid s
  | .tokenArrive stack ix => Sys2Proof.Machine.execTokenArrive stack ix s
  | .batonEscape stack ix => Sys2Proof.Machine.execBatonEscape stack ix s
  | .channelWatchdog t => Sys2Proof.Machine.execChannelWatchdog t s
  | .bankRefresh t bank => Sys2Proof.Machine.execBankRefresh t bank s
  | .fabricEccError t what => Sys2Proof.Machine.execFabricEccError t what s
  | .streamWalkComplete t rec => Sys2Proof.Machine.execStreamWalkComplete t rec s
  | .streamGateOpen t rec => Sys2Proof.Machine.execStreamGateOpen t rec s
  | .readStreamToken t rec => Sys2Proof.Machine.execReadStreamToken t rec s
  | .writeStreamElement t rec => Sys2Proof.Machine.execWriteStreamElement t rec s
  | .writePassComplete t rec => Sys2Proof.Machine.execWritePassComplete t rec s
  | .elementwiseFire t slot => Sys2Proof.Machine.execElementwiseFire t slot s
  | .selNode t slot => Sys2Proof.Machine.execSelNode t slot s
  | .constN t slot => Sys2Proof.Machine.execConstN t slot s
  | .countN t slot => Sys2Proof.Machine.execCountN t slot s
  | .genN t slot => Sys2Proof.Machine.execGenN t slot s
  | .steerN t slot => Sys2Proof.Machine.execSteerN t slot s
  | .filterN t slot => Sys2Proof.Machine.execFilterN t slot s
  | .mergeN t slot => Sys2Proof.Machine.execMergeN t slot s
  | .accN t slot => Sys2Proof.Machine.execAccN t slot s
  | .bfpsumN t slot => Sys2Proof.Machine.execBfpsumN t slot s
  | .mmanN t slot => Sys2Proof.Machine.execMmanN t slot s
  | .topknN t slot => Sys2Proof.Machine.execTopknN t slot s
  | .partN t slot => Sys2Proof.Machine.execPartN t slot s
  | .gathrN t slot => Sys2Proof.Machine.execGathrN t slot s
  | .sinkN t slot => Sys2Proof.Machine.execSinkN t slot s
  | .pqaccTableLoad t slot => Sys2Proof.Machine.execPqaccTableLoad t slot s
  | .mbReserve mb => Sys2Proof.Machine.execMbReserve mb s
  | .mbCommit mb v => Sys2Proof.Machine.execMbCommit mb v s
  | .launchSlotWrite off data => Sys2Proof.Machine.execLaunchSlotWrite off data s
  | .mailboxConsume mb => Sys2Proof.Machine.execMailboxConsume mb s
  | .hostBar2Access off acc => Sys2Proof.Machine.execHostBar2Access off acc s
  | .bar0Violation off acc => Sys2Proof.Machine.execBar0Violation off acc s
  | .registerWrite off v size8 => Sys2Proof.Machine.execRegisterWrite off v size8 s
  | .logTail die v => Sys2Proof.Machine.execLogTail die v s
  | .ctxcreate => Sys2Proof.Machine.execCtxcreate s
  | .ctxdestroy => Sys2Proof.Machine.execCtxdestroy s
  | .mbbind => Sys2Proof.Machine.execMbbind s
  | .qassign => Sys2Proof.Machine.execQassign s
  | .savepool => Sys2Proof.Machine.execSavepool s
  | .powercap => Sys2Proof.Machine.execPowercap s
  | .segmap => Sys2Proof.Machine.execSegmap s
  | .freezeCmd => Sys2Proof.Machine.execFreezeCmd s
  | .cfgkey => Sys2Proof.Machine.execCfgkey s
  | .fabquota => Sys2Proof.Machine.execFabquota s
  | .mgcmdBadcmd code => Sys2Proof.Machine.execMgcmdBadcmd code s
  | .freezeJtag => Sys2Proof.Machine.execFreezeJtag s
  | .coldReset primaryOk secondaryOk => Sys2Proof.Machine.execColdReset primaryOk secondaryOk s
  | .bringupComplete => Sys2Proof.Machine.execBringupComplete s
  | .functionLevelReset => Sys2Proof.Machine.execFunctionLevelReset s
  | .configRequest reg => Sys2Proof.Machine.execConfigRequest reg s
  | .getVersion => Sys2Proof.Machine.execGetVersion s
  | .getCapabilities => Sys2Proof.Machine.execGetCapabilities s
  | .negotiateAlgorithms offersSlhDsa128f => Sys2Proof.Machine.execNegotiateAlgorithms offersSlhDsa128f s
  | .getDigests => Sys2Proof.Machine.execGetDigests s
  | .getCertificate slot offset length => Sys2Proof.Machine.execGetCertificate slot offset length s
  | .challenge slot nonce => Sys2Proof.Machine.execChallenge slot nonce s
  | .getMeasurements index nonce => Sys2Proof.Machine.execGetMeasurements index nonce s
  | .supplySag core part => Sys2Proof.Machine.execSupplySag core part s
  | .clockStretchEnd core part => Sys2Proof.Machine.execClockStretchEnd core part s
  | .peerRequestArrive port q => Sys2Proof.Machine.execPeerRequestArrive port q s
  | .linkDown port => Sys2Proof.Machine.execLinkDown port s
  | .rucksackRestoreDone launch cset => Sys2Proof.Machine.execRucksackRestoreDone launch cset s
  | .gmmaComplete h => Sys2Proof.Machine.execGmmaComplete h s
  | .memoryEccError pa correctable => Sys2Proof.Machine.execMemoryEccError pa correctable s
  | .detLogExtend ctx pages => Sys2Proof.Machine.execDetLogExtend ctx pages s
  | .doneArrivalRetry launch => Sys2Proof.Machine.execDoneArrivalRetry launch s

end Sys2Proof.Machine
end

