-- ==== Sys2Proof/Machine/Turns.lean ====
section
/-! DEFINITION. The next turn: arbitration among the groups of a partition (spec 02 R38), what a turn does, and the turn
taken when the agenda names none. -/

namespace Sys2Proof.Machine

/-! ## Arbitration (02 R38) -/

/-- Whether a head's next word blocks (R38, R57, R58): performed now, it would only end its run and stay at its PC. -/
def State.stalls (s : State) (p : Party) (g : Group) (e : Entry) : Bool :=
  match prepareHead p g e s with
  | .idle _ => false
  | .exec i t _ => match exec i t with
    | .next u => u.cur.isNone && (match u.grp? p with
      | some g' => g'.waits = g.waits && g'.latch = g.latch
      | none => false)
    | _ => false

/-- Whether a run in progress stands at a word whose access has still to wait (07 R156): a turn would change nothing. -/
def State.holds (s : State) (p : Party) : Bool :=
  match prepareParty p s with
  | .idle _ => false
  | .exec i t _ => match exec i t with
    | .next u => u.cur.isNone && (u.grp? p).any (fun g => g.run.isSome)
    | _ => false

/-- Whether a group has a ready run, one in progress or one whose head word does not block (R38, R47). -/
def State.ready (s : State) (p : Party) (g : Group) : Bool :=
  s.mayIssue p g && (match g.run with
    | some _ => true
    | none => g.stopReq || (match g.head with
      | .nonuniform => true
      | .none => g.stepping
      | .entry e => !g.held e && !(s.boundary p).stalls p g e))

/-- A group as a candidate for a partition's issue slot. -/
structure Cand where
  h : Handle
  prio : Nat
  inRun : Bool
  last : Nat
  deriving DecidableEq, Repr, Inhabited

/-- Order of R38: a run in progress, then priority, then the oldest last issue, then the slot. -/
def candLe (a b : Cand) : Bool :=
  if a.inRun != b.inRun then a.inRun
  else if a.prio != b.prio then b.prio < a.prio
  else if a.last != b.last then a.last < b.last
  else a.h.slot ≤ b.h.slot

/-- Ready groups of a partition, or of every partition with `none`. -/
def State.cands (s : State) (at_ : Option (Nat × Nat)) : List Cand :=
  (s.blocks.map (fun b =>
    (b.groups.filter (fun g =>
      (at_.isNone || at_ = some (b.core, g.part)) && s.ready (.group ⟨b.core, g.part, g.slot⟩) g)).map
        (fun g => (⟨⟨b.core, g.part, g.slot⟩, (s.hdrOfBlock b).prio, g.run.isSome, g.lastIssue⟩ : Cand)))).flatten

/-- The group that a partition's issue slot goes to (02 R38). -/
def State.arbitrate (s : State) (core part : Nat) : Option Handle :=
  ((sortBy candLe (s.cands (some (core, part)))).head?).map (fun c => c.h)

/-! ## Turns -/

/-- Removes an indexed element of one of the caches: a move of the environment (05 R108, 06 R140, 03 R69). -/
def State.cacheMove (s : State) : Turn → State
  | .evictL1 core sector => s.l1Evict core sector
  | .cleanL2 sector => s.cleanL2 (16 * sector) 16
  | .dropRdc ix => { s with rdc := dropNth s.rdc ix }
  | .dropTlb ix => { s with tlb := dropNth s.tlb ix }
  | .dropWalk ix => { s with walks := dropNth s.walks ix }
  | .dropCode ix => { s with code := dropNth s.code ix }
  | .dropLoop ix => { s with loops := dropNth s.loops ix }
  | _ => s

/-- Whether an event can happen on a frozen module: only a reset (12 R287). -/
def thaws : Instr → Bool
  | .coldReset _ _ => true
  | _ => false

/-- What a turn does. Nothing moves on a frozen module but a reset (12 R287). -/
def prepareTurn (t : Turn) (s : State) : Prep :=
  match t with
  | .event e => if s.frozen && !thaws e then .idle s else .exec e { s with cur := none } none
  | .issue core part =>
    if s.frozen then .idle s else match s.arbitrate core part with
      | some h => prepareParty (.group h) s
      | none => .idle s
  | .wave u k => if s.frozen then .idle s else prepareParty (.wave u k) s
  | .ranger n => if s.frozen then .idle s else prepareParty (.ranger n) s
  | .inject w => if s.frozen then .idle s else .idle (s.injectLaunch w)
  | .trained => if s.frozen then .idle s else .idle s.trained
  | .noService h => if s.frozen then .idle s else .idle (s.noService h)
  | other => if s.frozen then .idle s else .idle (s.cacheMove other)

/-- The pending producer that completes next when the agenda is empty; a LAUNCH whose header waits does not, and OCALL replies, drains and ICINV have their own
events. -/
def State.nextProducer (s : State) (p : Party) (g : Group) : Option Nat :=
  (g.pend.find? (fun q => q.kind != .ocall && q.kind != .drain && q.kind != .icinv && (match q.header with
    | none => true
    | some va => (s.launchStatus p (s.ctxOfParty p) va).2.isSome))).map (fun q => q.id)

/-- The turn taken when the agenda names none: a completion in flight, else the ready group whose last issue is
oldest, else a wave, else a running Ranger. -/
def State.idleTurn (s : State) : Option Turn :=
  let parties := (s.blocks.map (fun b => b.groups.map (fun g => (Party.group ⟨b.core, g.part, g.slot⟩, g)))).flatten
    ++ s.potluck.waves.map (fun w => (Party.wave w.unit w.wslot, w.grp))
    ++ ((List.range s.rangers.length).zip s.rangers).map (fun r => (Party.ranger r.1, r.2.grp))
  match parties.findSome? (fun pg => (s.nextProducer pg.1 pg.2).map (fun id => Turn.event (.producerComplete pg.1 id))) with
  | some t => some t
  | none =>
    match s.blocks.findSome? (fun b => (b.groups.find? (fun g => g.gmmas != [])).map (fun g =>
        Turn.event (.gmmaComplete ⟨b.core, g.part, g.slot⟩))) with
    | some t => some t
    | none =>
      match s.icinvs.head? with
      | some c => some (.event (.icinvComplete c.id))
      | none =>
        let cs := s.cands none
        match (sortBy candLe cs).find? (fun c => if c.inRun then !s.holds (.group c.h)
            else !cs.any (fun d => d.inRun && d.h.core = c.h.core && d.h.part = c.h.part)) with
        | some c => some (.issue c.h.core c.h.part)
        | none =>
          match s.potluck.waves.find? (fun w => s.ready (.wave w.unit w.wslot) w.grp && !s.holds (.wave w.unit w.wslot)) with
          | some w => some (.wave w.unit w.wslot)
          | none => ((List.range s.rangers.length).find? (fun n =>
              s.ready (.ranger n) (nth Ranger.blank s.rangers n).grp && !s.holds (.ranger n))).map (fun n => Turn.ranger n)

/-- The next turn: the agenda's first, or the one of `idleTurn`; with neither, nothing happens. -/
def prepare (s : State) : Prep :=
  match s.agenda with
  | t :: rest => prepareTurn t { s with agenda := rest }
  | [] => match s.idleTurn with
    | some t => prepareTurn t s
    | none => .idle s

end Sys2Proof.Machine
end

