-- ==== Sys2Proof/Machine/Step.lean ====
section
/-! DEFINITION. One step: the next turn is prepared, its instruction executed, and what follows a word done. -/

namespace Sys2Proof.Machine

/-- One step of the machine. -/
def step (s : State) : Host.Outcome State Fault Refusal :=
  match prepare s with
  | .idle t => .next t
  | .exec i t _ => match exec i t with
    | .next u => .next (finishWord u)
    | .fault r => .fault r
    | .refused r => .refused r

/-- The state with an instruction placed where the next step fetches it (see `placeWord`): stands for the load of a
program from outside the machine. -/
def State.withFetchWord (s : State) (nbits w : Nat) : State := placeWord s nbits w

end Sys2Proof.Machine
end

