-- ==== Sys2Proof/Safety.lean ====
section
/-! DEFINITION. The words claims are stated in: when a lane word performs (its conditions on the state and the operands
alone), what it leaves unchanged, what it writes, canonical memory, and a step that does not stop. -/

namespace Sys2Proof.Machine

/-! ## Canonical data -/

/-- The memory is in its canonical form: rising addresses and no zero byte (an unlisted address reads zero). -/
def Memory.wf (m : List Host.Cell) : Bool := Sparse.wf (w := 8) m

/-- A group's sparse arrays are canonical. -/
def Group.sparseOk (g : Group) : Bool := g.v.wf && g.sr.wf && g.tiles.wf

/-- A party's L1 holds the byte of an address dirty, with a value. -/
def State.ownDirty (s : State) (p : Party) (a : Nat) (v : Byte) : Prop :=
  ∃ e ∈ s.l1, partyCore p = some e.core ∧ e.sector = a / 16 ∧ e.dirty.getLsbD (a % 16) = true ∧
    v = e.data.extractLsb' (8 * (a % 16)) 8

/-- A step that does not stop. -/
def steps (s : State) : Bool :=
  match step s with
  | .next _ => true
  | _ => false

/-! ## A word at issue -/

/-- A lane word at issue in a state: its party, entry, registers and the lanes that perform it (03 R48, 14 R302). -/
def State.issueOf (s : State) (i : Instr) : Option Issue :=
  match s.cur, hdrOf i with
  | some c, some hd => (s.grp? c.party).map (fun g =>
      { party := c.party, pc := c.pc, mask := c.mask, df := c.df, word := c.word, b := hd.b, op := hd.op, g := g
        active := if hd.op = 0x100 then c.mask else guardLanes g hd.g c.mask, ctx := s.ctxOfParty c.party })
  | _, _ => none

/-- The conditions under which a word performs, on its encoding, its party, its operands' range, its lanes, its role, its slot
buffers, and the full bits of its registers (14 R313, 02 R26, 03 R57, R58, R64, R65, 09 R198, R204, 15 R324). PREF looks at its
registers itself (18 R414). -/
def Issue.performs (x : Issue) (i : Instr) (s : State) : Bool :=
  let sp := specOf i
  sp.ok && !partyIllegal x.party i x.op && (rangeFault x.g sp.ops).isNone && !partyForbids x.party i x.op && x.active != 0
    && (!isUniform x.op || (x.g.live = x.g.present && x.mask = x.g.live && x.active = x.g.live))
    && (x.op = 0x100 || x.op = 0x57 ||
      ((entryFault x sp.ops s).isNone && readiness x.g sp.ops = .go && (markFault x.g sp.ops).isNone))

/-- The issue of a word that performs in a state, if it does. -/
def State.issues (s : State) (i : Instr) : Option Issue :=
  (s.issueOf i).bind (fun x => if x.performs i s then some x else none)

/-! ## Rounding (04 R84 to R86, R95) -/

/-- The magnitude of an FP32 code without its sign, in units of 2^−150; codes past the largest finite one go on as if exponents were
unbounded (04 R76, R86). -/
def fp32Units (k : Nat) : Nat := if k < 2 ^ 23 then 2 * k else (2 ^ 23 + k % 2 ^ 23) * 2 ^ (k / 2 ^ 23)

/-- A finite value as an integer count of 2^lo, exact where lo is not above its exponent. -/
def exactInt (neg : Bool) (m : Nat) (e lo : Int) : Int := (if neg then -1 else 1) * ((m * 2 ^ (e - lo).toNat : Nat) : Int)

/-- The FP32 code of an infinity. -/
def infBits (neg : Bool) : Nat := if neg then 0xFF800000 else 0x7F800000

/-- How the exact magnitude m × 2^e compares with j units of 2^−151. -/
def dyadicCmp (m : Nat) (e : Int) (j : Nat) : Ordering := compare (m * 2 ^ (e + 151).toNat) (j * 2 ^ (-(e + 151)).toNat)

/-- How the exact magnitude 1 / (m × 2^e) compares with j units of 2^−151. -/
def recipCmp (m : Nat) (e : Int) (j : Nat) : Ordering := compare (2 ^ (151 - e).toNat) (j * m * 2 ^ (e - 151).toNat)

/-- How the exact magnitude 1 / √(m × 2^e) compares with j units of 2^−151. -/
def rsqrtCmp (m : Nat) (e : Int) (j : Nat) : Ordering := compare (2 ^ (302 - e).toNat) (j * j * m * 2 ^ (e - 302).toNat)

/-- A result is an exact nonzero value, of which `cmp` compares the magnitude, rounded once to FP32 under a mode: to the nearest code,
ties to an even one, or to the next code in the mode's direction; past the largest finite code it overflows (04 R84, R86, R91). Its
flags are NX where it is not exact, UF where it is also below the smallest normal (log entry 30), OF and NX on overflow (04 R88). -/
def RoundsTo (rm : Nat) (neg : Bool) (cmp : Nat → Ordering) (r : Nat × Flags) : Prop :=
  let up := (rm = 2 ∧ neg = false) ∨ (rm = 3 ∧ neg = true)
  let sign := if neg then 2 ^ 31 else 0
  ∃ k,
    (rm = 0 →
      (k = 0 ∨ cmp (fp32Units (k - 1) + fp32Units k) = .gt ∨ (cmp (fp32Units (k - 1) + fp32Units k) = .eq ∧ k % 2 = 0)) ∧
      (cmp (fp32Units k + fp32Units (k + 1)) = .lt ∨ (cmp (fp32Units k + fp32Units (k + 1)) = .eq ∧ k % 2 = 0))) ∧
    (rm ≠ 0 → up → cmp (2 * fp32Units k) ≠ .gt ∧ (k = 0 ∨ cmp (2 * fp32Units (k - 1)) = .gt)) ∧
    (rm ≠ 0 → ¬ up → cmp (2 * fp32Units k) ≠ .lt ∧ cmp (2 * fp32Units (k + 1)) = .lt) ∧
    (k < 0x7F800000 → r.1 = k + sign ∧
      r.2 = if cmp (2 * fp32Units k) = .eq then 0 else if k < 2 ^ 23 then fNX ||| fUF else fNX) ∧
    (0x7F800000 ≤ k → r.1 = (if rm = 0 ∨ up then 0x7F800000 else 0x7F7FFFFF) + sign ∧ r.2 = fOF ||| fNX)

/-! ## What a word changes -/

/-- The state after a word: the issuing party's registers are `g`, the lanes of the word's entry go on to the next word, PC + 8, and
its run goes on unless the word ends it (`retire`, 03 R48, R50); nothing else changes. -/
def Ends (x : Issue) (g : Group) (s t : State) : Prop := t = retire x g s

/-- A register word: wherever it performs it answers a next state, in which it has retired with the issuing party's registers as
`post` says. The premise is the canonical form of the two register files. -/
def RegWord (i : Instr) (post : Issue → State → Group → Prop) : Prop :=
  ∀ (s : State) (x : Issue), s.issues i = some x → x.g.v.wf = true → x.g.sr.wf = true →
    ∃ (t : State) (g : Group), exec i s = .next t ∧ Ends x g s t ∧ post x s g

/-- Register n of a value that spans registers from dst on. -/
def partOf (v dst n : Nat) : Word := BitVec.ofNat 32 (v >>> (32 * (n - dst)))

/-- Vector registers dst to dst + cnt - 1 hold new values in the lanes of m; every other lane and register, every scalar
register, predicate, mask, generator, tile and special register is unchanged, but for the flags `fl` that are set and
the faulted marks of the pairs written, which clear (04 R88, 09 R204). -/
def VecOut (g g' : Group) (dst cnt : Nat) (m : LaneMask) (val : Nat → Nat) (fl : Flags) : Prop :=
  ∃ v : Sparse 32,
    g' = { g with v := v, fpflags := g.fpflags ||| fl
                  marks := g.marks.filter (fun k => !((List.range cnt).any (fun i => k.pair = (dst + i) / 2))) } ∧
    ∀ n l, l < 32 → Sparse.get v (32 * n + l) =
      if dst ≤ n ∧ n < dst + cnt ∧ hasLane m l = true then partOf (val l) dst n else g.vget n l

/-- Scalar registers dst to dst + cnt - 1 hold a new value; nothing else changes but the flags `fl` that are set. -/
def ScaOut (g g' : Group) (dst cnt : Nat) (v : Nat) (fl : Flags) : Prop :=
  ∃ sr : Sparse 32, g' = { g with sr := sr, fpflags := g.fpflags ||| fl } ∧
    ∀ n, Sparse.get sr n = if dst ≤ n ∧ n < dst + cnt then partOf v dst n else g.sget n

/-- A result with flags per active lane, or once in the scalar form, where its one value is that of the lowest active lane
(every operand of that form is scalar). -/
def AluOut (x : Issue) (g' : Group) (sk : Bool) (dst cnt : Nat) (val : Nat → Nat × Flags) : Prop :=
  if sk then ScaOut x.g g' dst cnt (val (lowLane x.active)).1 (val (lowLane x.active)).2
  else VecOut x.g g' dst cnt x.active (fun l => (val l).1) (orFlags (x.lanes.map (fun l => (val l).2)))

/-- Predicate dst holds a truth value in the active lanes and is unchanged in the others; a write to p7 is discarded
(14 R304). Nothing else changes but the flags `fl` that are set. -/
def PredOut (x : Issue) (g' : Group) (dst : Nat) (val : Nat → Bool) (fl : Flags) : Prop :=
  ∃ ps : List LaneMask, g' = { x.g with preds := ps, fpflags := x.g.fpflags ||| fl } ∧ ps.length = x.g.preds.length ∧
    ∀ n l, n < 7 → l < 32 → hasLane (nth 0 ps n) l =
      if n = dst ∧ dst < x.g.preds.length ∧ hasLane x.active l = true then val l else hasLane (nth 0 x.g.preds n) l

/-- An integer word: its result is the exact value of its typed sources, wrapped or clamped (17 R388). -/
def IntWord (i : Instr) (f : FmtV) (sat : Bool) (op : Int → Int → Int → Int) : Prop :=
  RegWord i (fun x _ g' =>
    AluOut x g' (fnSk f.fn) f.dst.toNat (tyRegs (fnTy f.fn)) (fun l =>
      intResult (fnTy f.fn) sat (op (intOf (fnTy f.fn) (srcA f x (tyRegs (fnTy f.fn)) l))
        (intOf (fnTy f.fn) (srcB f x (tyRegs (fnTy f.fn)) l)) (intOf (fnTy f.fn) (srcC f x (tyRegs (fnTy f.fn)) l)))))

/-- A bitwise word on registers. -/
def BitWord (i : Instr) (f : FmtV) (op : DWord → DWord → DWord) : Prop :=
  RegWord i (fun x _ g' =>
    AluOut x g' (fnSk f.fn) f.dst.toNat (tyRegs (fnTy f.fn)) (fun l =>
      ((op (BitVec.ofNat 64 (srcA f x (tyRegs (fnTy f.fn)) l)) (BitVec.ofNat 64 (srcB f x (tyRegs (fnTy f.fn)) l))).toNat, 0)))

/-- A bitwise word with a sign-extended immediate. -/
def BitWordI (i : Instr) (f : FmtI) (op : DWord → DWord → DWord) : Prop :=
  RegWord i (fun x _ g' =>
    AluOut x g' (fnSk f.fn) f.dst.toNat (tyRegs (fnTy f.fn)) (fun l =>
      ((op (BitVec.ofNat 64 (srcI f x (tyRegs (fnTy f.fn)) l)) (f.imm.signExtend 64)).toNat, 0)))

/-- A word of one 32-bit result per lane. -/
def OneWord (i : Instr) (f : FmtV) (val : Issue → Nat → Nat × Flags) : Prop :=
  RegWord i (fun x _ g' => AluOut x g' (fnSk f.fn) f.dst.toNat 1 (val x))

/-- A word that exchanges values among lanes: a vector result and flags. -/
def CrossWord (i : Instr) (f : FmtV) (cnt : Nat) (val : Issue → Nat → Nat) (fl : Issue → Flags) : Prop :=
  RegWord i (fun x _ g' => VecOut x.g g' f.dst.toNat cnt x.active (val x) (fl x))

end Sys2Proof.Machine
end

