-- ==== Sys2Proof/Certificates/Slice0/Obligations.lean ====
section
/-! DEFINITION. The statements: what the rules of the spec say that the words, the events and the machine do. Each docstring
names the rules; where a statement rests on a choice of the model it says so with the entry of the assumption log. -/

open Sys2Proof Sys2Proof.Machine

/-- The width of the bit field of BFX and BFI (16 R349). -/
def fieldWidth (n ctl : Nat) : Nat := if ctl % 128 < n then min (ctl / 256 % 128) (n - ctl % 128) else 0

/-- How many lanes of a mask lie below a lane. -/
def rankIn (m : LaneMask) (l : Nat) : Nat := ((lanesOf m).filter (fun j => j < l)).length

/-- The entry's lanes leave it for next PCs and the run ends: the table and the run of the issuing party change, nothing
else does. -/
def Moves (x : Issue) (s t : State) (nxt : List (LaneMask × DWord)) : Prop :=
  t = s.setGrp x.party { x.g.advance x.pc x.mask x.df nxt with run := none }

/-- A lane is in an entry of a table. -/
abbrev LaneIn (tab : List Entry) (p : Entry → Prop) (l : Nat) : Prop := ∃ q ∈ tab, p q ∧ hasLane q.mask l = true

/-- A parked lane is released: every live lane of its mask register is parked with the same state on that register, or the lane is
not in it (03 R60). -/
abbrev Released (g : Group) (e : Entry) (l : Nat) : Prop :=
  (∀ k < 32, hasLane (nth 0 g.masks e.pm.toNat &&& g.live) k = true → LaneIn g.tab (fun q => q.st = e.st ∧ q.pm = e.pm) k) ∨
    hasLane (nth 0 g.masks e.pm.toNat &&& g.live) l = false

/-- What a re-evaluation does to a group whose table it may change (03 R60, R64): a released lane is ready at the word after its
entry's PC, in an entry that no longer defers, and parked nowhere on that register; a parked lane that is not released and an
unparked lane stay where they were; and an entry that waits to be whole is not whole. -/
def Reevaluates (g g' : Group) : Prop :=
  (∃ tab, g' = { g with tab := tab }) ∧
  (∀ e ∈ g.tab, ∀ l < 32, e.parked = true → e.pm.toNat < 12 → hasLane e.mask l = true →
    (Released g e l → LaneIn g'.tab (fun q => q.pc = e.pc + 8 ∧ q.parked = false ∧ q.df = false) l ∧
      ¬ LaneIn g'.tab (fun q => q.st = e.st ∧ q.pm = e.pm) l) ∧
    (¬ Released g e l → LaneIn g'.tab (fun q => q.pc = e.pc ∧ q.st = e.st ∧ q.pm = e.pm) l)) ∧
  (∀ e ∈ g.tab, ∀ l < 32, e.parked = false → hasLane e.mask l = true → LaneIn g'.tab (fun q => q.pc = e.pc ∧ q.parked = false) l) ∧
  (∀ q ∈ g'.tab, ∀ l < 32, hasLane q.mask l = true →
    LaneIn g.tab (fun e => e.pc = q.pc ∧ e.parked = q.parked ∧ (q.parked = true → e.st = q.st ∧ e.pm = q.pm)) l ∨
    (q.parked = false ∧ LaneIn g.tab (fun e => e.pc + 8 = q.pc ∧ e.parked = true ∧ e.pm.toNat < 12 ∧ Released g e l) l)) ∧
  (∀ q ∈ g'.tab, q.st = .uwait → q.mask ≠ g.live)

/-- How lanes enter a table (03 R46, R49): unparked lanes merge with the first unparked entry at their PC, whose DEF is ANDed, and
parked lanes with the first parked one, which keeps its state and its register; where there is none a new entry stands in PC order,
an unparked one before a parked one. -/
def InsertsLanes : Prop :=
  ∀ (tab a : List Entry) (pc : DWord) (m : LaneMask),
    (∀ e b df, tab = a ++ e :: b → e.pc = pc → e.parked = false → (∀ y ∈ a, y.pc = pc → y.parked = true) →
      insReady tab pc m df = a ++ { e with mask := e.mask ||| m, df := e.df && df } :: b) ∧
    (∀ e b st pm, tab = a ++ e :: b → e.pc = pc → e.parked = true → (∀ y ∈ a, y.pc = pc → y.parked = false) →
      insParked tab pc m st pm = a ++ { e with mask := e.mask ||| m } :: b) ∧
    (∀ df, (∀ y ∈ tab, y.pc = pc → y.parked = true) → ∃ b c, tab = b ++ c ∧ (∀ y ∈ b, y.pc < pc) ∧ (∀ y ∈ c.head?, pc ≤ y.pc) ∧
      insReady tab pc m df = b ++ ⟨pc, m, .ready, 0, df, true⟩ :: c) ∧
    (∀ st pm, st = .join ∨ st = .waitm → (∀ y ∈ tab, y.pc = pc → y.parked = false) → ∃ b c, tab = b ++ c ∧ (∀ y ∈ b, y.pc ≤ pc) ∧
      (∀ y ∈ c.head?, pc < y.pc) ∧ insParked tab pc m st pm = b ++ ⟨pc, m, st, pm, false, true⟩ :: c)

/-- What the update of 03 R48 does to a group, for the entry at `pc` whose lanes `mask` have executed: each goes to its next PC, in an
entry that no longer defers; the entry's other lanes stay at `pc` and every other entry's lanes where they are; no other lane
appears; and where the entry was chosen with DEF = 0 no entry defers any more. -/
def Advances (g g' : Group) (pc : DWord) (mask : LaneMask) (df : Bool) (nxt : List (LaneMask × DWord)) : Prop :=
  let ran := fun (e : Entry) => e.pc = pc ∧ e.st = .ready
  (∃ tab, g' = { g with tab := tab }) ∧
  (∀ m ∈ nxt, ∀ l < 32, hasLane m.1 l = true → LaneIn g'.tab (fun q => q.pc = m.2 ∧ q.parked = false ∧ q.df = false) l) ∧
  (∀ e ∈ g.tab, ∀ l < 32, hasLane e.mask l = true → ¬ (ran e ∧ hasLane mask l = true) →
    LaneIn g'.tab (fun q => q.pc = e.pc ∧ q.parked = e.parked ∧ (e.parked = true → q.st = e.st ∧ q.pm = e.pm)) l) ∧
  (∀ q ∈ g'.tab, ∀ l < 32, hasLane q.mask l = true →
    (q.parked = false ∧ ∃ m ∈ nxt, m.2 = q.pc ∧ hasLane m.1 l = true) ∨
    LaneIn g.tab (fun e => e.pc = q.pc ∧ e.parked = q.parked ∧ ¬ (ran e ∧ hasLane mask l = true)) l) ∧
  (df = false → ∀ q ∈ g'.tab, q.df = false) ∧
  (∀ q ∈ g'.tab, q.st = .uwait → q.mask ≠ g.live)

/-- A stream's event answers a state, but for the WDOFF that a running watchdog count of the tile keeps (10 R237), which goes when
the count ends. -/
def Streams (i : Instr) (s : State) (t : TileId) (n : Nat) (u : State) : Prop := exec i s = .next (s.recount u t n)

/-- A configuration word's end: its status register, and the register after it where a handle is returned, are pending with
the status and the handle, which is 0 unless the status is OK (11 R249). -/
def Answers (i : Instr) (x : Issue) (dst : Nat) (code detail : Nat) (h : Option Word) (s u : State) : Prop :=
  ∃ p : Producer, exec i s = .next (retire x (((u.grp? x.party).getD x.g).issue p) { u with fresh := u.fresh + 1 }) ∧
    p.kind = .cfgStatus ∧ p.fills = true ∧ p.vregs = [] ∧
    (h = none → p.sregs = [dst] ∧ p.swrites = [(dst, BitVec.ofNat 32 (code + 256 * (detail % 256)))]) ∧
    ∀ w, h = some w → p.sregs = [dst, dst + 1] ∧
      p.swrites = [(dst, BitVec.ofNat 32 (code + 256 * (detail % 256))), (dst + 1, if code = 0 then w else 0)]

/-- A token waits at each of some input positions of a node slot. -/
def FedAt (t : Tile) (n : Nat) (ps : List Nat) : Prop := ∀ p ∈ ps, t.queue (3 * n + p) ≠ []

/-- A node's firing: where the node of a moving run is neither frozen nor sealed, owes nothing, has credit on every target (10 R224),
and the tokens that its rule needs wait at its inputs, its body takes a firing, and the event applies it, adds to the run's flags and
counters, and sends the first result. PART fires only while GATHR's reordering holds fewer than 64 tokens (10 R233). -/
def NodeFires (mk : TileId → Nat → Instr) (ops : List Nat) (ready : NodeCtx → Tile → Prop) (body : NodeCtx → Tile → Option Fire) : Prop :=
  ∀ (s : State) (t : TileId) (n : Nat) (r : FabRun),
    let tl := s.tile t.stack (tileIx t)
    let d := tl.nodeSt n
    let c : NodeCtx := ⟨n, tl.word n, r, (s.stackOf t.stack).fedBy r (tileIx t) n⟩
    s.moving t.stack (tileIx t) = some r → tl.word n ≠ 0 → nwOp (tl.word n) ∈ ops → d.frozen = false →
    r.isSealed (tl.domain n) = false → d.out = [] → d.skip = [] → d.errs = [] →
    (∀ p ∈ tl.paths (tl.word n), (s.stackOf t.stack).credit (.node t.x t.y n) p = true) →
    (nwOp (tl.word n) = 0xDA → s.gatherHeld t n < 64) → ready c tl →
    ∃ f : Fire, body c tl = some f ∧
      (let u := (s.updTile t.stack (tileIx t) (fun _ => f.tile)).updRun t.stack r (fun r =>
        { r with mxfl := r.mxfl ||| f.mx, mismatch := r.mismatch + BitVec.ofNat 32 f.mism, nankey := r.nankey + BitVec.ofNat 32 f.nan })
       exec (mk t n) s = .next ((u.emitNode t.stack r (tileIx t) n).getD u))

/-- What an elementwise or select node needs: its data, and P where it has one; PQACC also that no table burst is there (18 R413). -/
def ReadyElem (c : NodeCtx) (t : Tile) : Prop :=
  FedAt t c.n (needs c.w) ∧ (nwOp c.w = 0x44 → t.queue (3 * c.n + 2) = [] ∧ (t.nodeSt c.n).pos = 0)

/-- What a source needs: a trigger, or an owed burst and, for its first token under GRD, a P token. -/
def ReadySource (c : NodeCtx) (t : Tile) : Prop :=
  let d := t.nodeSt c.n
  (d.owed = false ∧ FedAt t c.n [0]) ∨
    (d.owed = true ∧ (c.fedL = true ∨ c.run.st ≠ .draining) ∧ (nwGrd c.w = true → d.pos = 0 → FedAt t c.n [2]))

/-- What a node with one data input and an optional guard needs. -/
def ReadyData (c : NodeCtx) (t : Tile) : Prop := FedAt t c.n [0] ∧ (nwGrd c.w = true → FedAt t c.n [2])

/-- What MERGE needs: a token at the input of its open burst, or else at the input whose turn it is (18 R399). -/
def ReadyMerge (c : NodeCtx) (t : Tile) : Prop :=
  let d := t.nodeSt c.n
  ∃ p, FedAt t c.n [p] ∧ (d.path = some p ∨ d.path = none ∧
    (((nwSub c.w = 0 ∨ c.run.det = true) ∧ p = if d.turn then 1 else 0) ∨
     (nwSub c.w ≠ 0 ∧ c.run.det = false ∧ d.arrived.head? = some p)))

/-- What MMAN needs: a token at an operand whose burst is still open (10 R226). -/
def ReadyMman (c : NodeCtx) (t : Tile) : Prop :=
  let d := t.nodeSt c.n
  (d.aend = false ∧ FedAt t c.n [0]) ∨ (d.bend = false ∧ FedAt t c.n [1])

/-- The node events and the operations that each is about. -/
def nodeKinds : List ((TileId → Nat → Instr) × List Nat) :=
  [(.elementwiseFire, [0x04, 0x06, 0x07, 0x0A, 0x0B, 0x0D, 0x10, 0x12, 0x14, 0x16, 0x18, 0x1C, 0x20, 0x24, 0x25, 0x26, 0x30, 0x31, 0x32,
     0x33, 0x34, 0x35, 0x40, 0x41, 0x42, 0x43, 0x44]), (.selNode, [0x22]), (.constN, [0xD3]), (.countN, [0xD4]), (.genN, [0xD5]),
   (.steerN, [0xD0]), (.filterN, [0xD2]), (.mergeN, [0xD1]), (.accN, [0xD6]), (.bfpsumN, [0xD7]), (.mmanN, [0xD8]), (.topknN, [0xD9]),
   (.partN, [0xDA]), (.gathrN, [0xDB]), (.sinkN, [0xDC]), (.pqaccTableLoad, [0x44])]

/-- 17 R388: the integer words write, in the active lanes (or once in the scalar form), the exact result of their typed
operands, wrapped to the type or clamped with IOV; IMULH the high half of the exact product; nothing else changes.
17 R388: without SAT the exact value modulo 2^N and no flag; with SAT the value clamped to the type's range, IOV if
clamped. -/
def Obligations.IntegerWords : Prop :=
  ((∀ f, IntWord (.iadd f) f (f.fn.getLsbD 0) (fun a b _ => a + b)) ∧
   (∀ f, IntWord (.isub f) f (f.fn.getLsbD 0) (fun a b _ => a - b)) ∧
   (∀ f, IntWord (.imul f) f (f.fn.getLsbD 0) (fun a b _ => a * b)) ∧
   (∀ f, IntWord (.imulh f) f false (fun a b _ => a * b / 2 ^ tyWidth (fnTy f.fn))) ∧
   (∀ f, IntWord (.imad f) f (f.fn.getLsbD 0) (fun a b c => a * b + c)) ∧
   (∀ f, IntWord (.imin f) f false (fun a b _ => min a b)) ∧
   (∀ f, IntWord (.imax f) f false (fun a b _ => max a b)) ∧
   (∀ f, IntWord (.iabs f) f (f.fn.getLsbD 0) (fun a _ _ => (a.natAbs : Int))) ∧
   (∀ f, RegWord (.iaddi f) (fun x _ g' =>
     AluOut x g' (fnSk f.fn) f.dst.toNat (tyRegs (fnTy f.fn)) (fun l =>
       intResult (fnTy f.fn) (f.fn.getLsbD 0)
         (intOf (fnTy f.fn) (srcI f x (tyRegs (fnTy f.fn)) l) + intOf (fnTy f.fn) (f.imm.signExtend 64).toNat))))) ∧
  (∀ (ty : Nat) (v : Int), ty < 4 →
     (intResult ty false v).1 = (v % (2 ^ tyWidth ty : Int)).toNat ∧ (intResult ty false v).2 = 0 ∧
     intOf ty (intResult ty true v).1 = max (tyMin ty) (min (tyMax ty) v) ∧
     ((intResult ty true v).2 = if v < tyMin ty ∨ tyMax ty < v then fIOV else 0))

/-- 18 R403: nop is the format V word 0x01 with every other field zero; it does nothing in any lane, whatever its guard, and does
not end a run unless B is set; a guard of 0b1111 and a field that is not zero are illegal and trap with ILLOP. (That a run is also
ended by its 24th word is 03 R50.) -/
def Obligations.NopWord : Prop :=
  decode 0x005C000000000000 = some (.nop { b := false, g := 7, ta := false, tb := false, tc := false, dst := 0, sa := 0, sb := 0, sc := 0, fn := 0 }) ∧
  (∀ f : FmtV, ((Instr.nop f).legal = true ↔ f.g ≠ 15 ∧ f.ta = false ∧ f.tb = false ∧ f.tc = false ∧ f.dst = 0 ∧ f.sa = 0 ∧ f.sb = 0 ∧
    f.sc = 0 ∧ f.fn = 0) ∧ ((Instr.nop f).legal = false → decode (vWord 0x01 f) = none) ∧
    ((Instr.nop f).legal = true → decode (vWord 0x01 f) = some (.nop f))) ∧
  (∀ (s : State) (x : Issue) (f : FmtV), s.issueOf (.nop f) = some x →
    ((Instr.nop f).legal = false → exec (.nop f) s = .next (trapWord x ⟨0x01, 0, 0, 0⟩ x.mask s)) ∧
    ((Instr.nop f).legal = true → ∃ (tab : List Entry) (run : Option Run),
      exec (.nop f) s = .next (s.setGrp x.party { x.g with tab := tab, run := run }) ∧
      (∀ pm df, x.g.tab = [⟨x.pc, x.mask, .ready, pm, df, true⟩] → x.mask ≠ 0 → tab = [⟨x.pc + 8, x.mask, .ready, 0, false, true⟩]) ∧
      (f.b = true → run = none) ∧
      (f.b = false → ∀ r, x.g.run = some r → r.words < 23 → run = some { r with words := r.words + 1, pc := x.pc + 8 })))

/-- 16 R340, 18 R406, 19 R438: the bitwise words.
19 R419: shifts by a register or an immediate count; a count of the type's width or more shifts everything out, and SAR
then leaves the sign. No flag is set. -/
def Obligations.LogicWords : Prop :=
  ((∀ f, BitWord (.and f) f (fun a b => a &&& b)) ∧ (∀ f, BitWord (.andn f) f (fun a b => a &&& ~~~b)) ∧
   (∀ f, BitWord (.or f) f (fun a b => a ||| b)) ∧ (∀ f, BitWord (.xor f) f (fun a b => a ^^^ b)) ∧
   (∀ f, BitWordI (.andi f) f (fun a b => a &&& b)) ∧ (∀ f, BitWordI (.ori f) f (fun a b => a ||| b)) ∧
   (∀ f, BitWordI (.xori f) f (fun a b => a ^^^ b))) ∧
  ((∀ f, RegWord (.shl f) (fun x _ g' => AluOut x g' (fnSk f.fn) f.dst.toNat (tyRegs (fnTy f.fn)) (fun l =>
     (srcA f x (tyRegs (fnTy f.fn)) l * 2 ^ srcB f x 1 l % 2 ^ tyWidth (fnTy f.fn), 0)))) ∧
   (∀ f, RegWord (.shr f) (fun x _ g' => AluOut x g' (fnSk f.fn) f.dst.toNat (tyRegs (fnTy f.fn)) (fun l =>
     (srcA f x (tyRegs (fnTy f.fn)) l / 2 ^ srcB f x 1 l, 0)))) ∧
   (∀ f, RegWord (.sar f) (fun x _ g' => AluOut x g' (fnSk f.fn) f.dst.toNat (tyRegs (fnTy f.fn)) (fun l =>
     (ofInt (tyWidth (fnTy f.fn)) (toSigned (tyWidth (fnTy f.fn)) (srcA f x (tyRegs (fnTy f.fn)) l) / 2 ^ srcB f x 1 l), 0)))) ∧
   (∀ f, RegWord (.shli f) (fun x _ g' => AluOut x g' (fnSk f.fn) f.dst.toNat (tyRegs (fnTy f.fn)) (fun l =>
     (srcI f x (tyRegs (fnTy f.fn)) l * 2 ^ f.imm.toNat % 2 ^ tyWidth (fnTy f.fn), 0)))) ∧
   (∀ f, RegWord (.shri f) (fun x _ g' => AluOut x g' (fnSk f.fn) f.dst.toNat (tyRegs (fnTy f.fn)) (fun l =>
     (srcI f x (tyRegs (fnTy f.fn)) l / 2 ^ f.imm.toNat, 0)))) ∧
   (∀ f, RegWord (.sari f) (fun x _ g' => AluOut x g' (fnSk f.fn) f.dst.toNat (tyRegs (fnTy f.fn)) (fun l =>
     (ofInt (tyWidth (fnTy f.fn)) (toSigned (tyWidth (fnTy f.fn)) (srcI f x (tyRegs (fnTy f.fn)) l) / 2 ^ f.imm.toNat), 0)))))

/-- 16 R349, 16 R355, 18 R410, 18 R411, 18 R397, 19 R422: bit fields, counts, byte permutation, address arithmetic and
selection.
18 R401, 18 R403, 16 R361, 18 R407: NOP, moves (one lane to a scalar register among them), conversions and packing. -/
def Obligations.FieldAndMoveWords : Prop :=
  ((∀ f, RegWord (.bfx f) (fun x _ g' => AluOut x g' (fnSk f.fn) f.dst.toNat (tyRegs (fnTy f.fn)) (fun l =>
     let w := fieldWidth (tyWidth (fnTy f.fn)) (srcB f x 1 l)
     let v := srcA f x (tyRegs (fnTy f.fn)) l / 2 ^ (srcB f x 1 l % 128) % 2 ^ w
     (if w = 0 then 0 else if tySigned (fnTy f.fn) then ofInt (tyWidth (fnTy f.fn)) (toSigned w v) else v, 0)))) ∧
   (∀ f, RegWord (.bfi f) (fun x _ g' => AluOut x g' (fnSk f.fn) f.dst.toNat (tyRegs (fnTy f.fn)) (fun l =>
     let w := fieldWidth (tyWidth (fnTy f.fn)) (srcC f x 1 l)
     let p := srcC f x 1 l % 128
     let b := srcB f x (tyRegs (fnTy f.fn)) l
     (if w = 0 then b else
       (List.range 64).foldl (fun v i => v + if (if p ≤ i ∧ i < p + w then
         (srcA f x (tyRegs (fnTy f.fn)) l).testBit (i - p) else b.testBit i) then 2 ^ i else 0) 0, 0)))) ∧
   (∀ f, OneWord (.popc f) f (fun x l =>
     (((List.range 64).filter (fun i => (srcA f x (tyRegs (fnTy f.fn)) l).testBit i)).length, 0))) ∧
   (∀ f, OneWord (.clz f) f (fun x l =>
     (((List.range (tyWidth (fnTy f.fn))).takeWhile (fun i =>
       !(srcA f x (tyRegs (fnTy f.fn)) l).testBit (tyWidth (fnTy f.fn) - 1 - i))).length, 0))) ∧
   (∀ f, OneWord (.permb f) f (fun x l =>
     let q := srcB f x 1 l * 2 ^ 32 + srcA f x 1 l
     let c := srcC f x 1 l
     (((List.range 4).map (fun i => if c.testBit (4 * i + 3) then 0
       else 256 ^ i * (q / 256 ^ (c / 16 ^ i % 8) % 256))).foldl (fun a b => a + b) 0, 0))) ∧
   (∀ f, RegWord (.lea f) (fun x _ g' => AluOut x g' (fnSk f.fn) f.dst.toNat 2 (fun l =>
     ((((srcA f x 2 l : Int) + 2 ^ fnSub f.fn * (if fnTy f.fn = 2 then toSigned 32 (srcB f x 1 l) else (srcB f x 1 l : Int)))
       % 2 ^ 64).toNat, 0)))) ∧
   (∀ f, RegWord (.sel f) (fun x _ g' => AluOut x g' (fnSk f.fn) f.dst.toNat (tyRegs (fnTy f.fn)) (fun l =>
     (if predAt x.g f.sc.toNat l then srcA f x (tyRegs (fnTy f.fn)) l else srcB f x (tyRegs (fnTy f.fn)) l, 0))))) ∧
  ((∀ f, RegWord (.nop f) (fun x _ g' => g' = x.g)) ∧
   (∀ f, RegWord (.movl f) (fun x _ g' => VecOut x.g g' f.dst.toNat 1 x.active (fun _ => f.imm.toNat) 0)) ∧
   (∀ f, fnSub f.fn = 0 → RegWord (.mov f) (fun x _ g' =>
     AluOut x g' (fnSk f.fn) f.dst.toNat (tyRegs (fnTy f.fn)) (fun l => (srcA f x (tyRegs (fnTy f.fn)) l, 0)))) ∧
   (∀ f, fnSub f.fn = 1 → RegWord (.mov f) (fun x _ g' =>
     VecOut x.g g' f.dst.toNat 1 x.active (fun _ => (x.g.sget f.sa.toNat).toNat) 0)) ∧
   (∀ f, fnSub f.fn = 2 → RegWord (.mov f) (fun x _ g' =>
     ScaOut x.g g' f.dst.toNat 1 (if hasLane x.g.present ((x.g.sget f.sb.toNat).toNat % 32)
       then (x.g.vget f.sa.toNat ((x.g.sget f.sb.toNat).toNat % 32)).toNat else 0) 0)) ∧
   (∀ f, RegWord (.cvti f) (fun x _ g' => AluOut x g' (fnSk f.fn) f.dst.toNat (tyRegs (fnTy f.fn)) (fun l =>
     let r := convert (fnTy f.fn) f.sc.toNat (fnRm f.fn) (f.fn.getLsbD 0) (srcA f x (tyRegs f.sc.toNat) l)
     (placeTy (fnTy f.fn) r.1, r.2)))) ∧
   (∀ f, RegWord (.cvtf f) (fun x _ g' => AluOut x g' (fnSk f.fn) f.dst.toNat (tyRegs (fnTy f.fn)) (fun l =>
     let r := convert (fnTy f.fn) f.sc.toNat (fnRm f.fn) (f.fn.getLsbD 0) (srcA f x (tyRegs f.sc.toNat) l)
     (placeTy (fnTy f.fn) r.1, r.2)))) ∧
   (∀ f, OneWord (.pack f) f (fun x l =>
     let w := packWidth (fnTy f.fn)
     let e := packElem (fnTy f.fn) (fnRm f.fn) (srcA f x 1 l)
     ((srcB f x 1 l &&& ((2 ^ 32 - 1) ^^^ ((2 ^ w - 1) <<< (w * fnSub f.fn)))) ||| ((e.1 % 2 ^ w) <<< (w * fnSub f.fn)), e.2))) ∧
   (∀ f, OneWord (.unpack f) f (fun x l =>
     unpackElem (fnTy f.fn) (srcA f x 1 l / 2 ^ (packWidth (fnTy f.fn) * fnSub f.fn) % 2 ^ packWidth (fnTy f.fn)))))

/-- 17 R391, 17 R373, 19 R434: predicates are written in the active lanes only, and a write to p7 is discarded. -/
def Obligations.PredicateWords : Prop :=
  (∀ f, RegWord (.isetp f) (fun x _ g' => PredOut x g' f.dst.toNat (fun l =>
    icmp (fnSub f.fn) (fnTy f.fn) (intOf (fnTy f.fn) (srcA f x (tyRegs (fnTy f.fn)) l))
      (intOf (fnTy f.fn) (srcB f x (tyRegs (fnTy f.fn)) l)) && predAt x.g f.sc.toNat l) 0)) ∧
  (∀ f, RegWord (.isetpi f) (fun x _ g' => PredOut x g' f.dst.toNat (fun l =>
    icmp (fnSub f.fn) (fnTy f.fn) (intOf (fnTy f.fn) (srcI f x (tyRegs (fnTy f.fn)) l))
      (intOf (fnTy f.fn) (f.imm.signExtend 64).toNat)) 0)) ∧
  (∀ f, RegWord (.fsetp f) (fun x _ g' => PredOut x g' f.dst.toNat
    (fun l => (fcmp (fnSub f.fn) (f32 (srcA f x 1 l)) (f32 (srcB f x 1 l))).1 && predAt x.g f.sc.toNat l)
    (orFlags (x.lanes.map (fun l => (fcmp (fnSub f.fn) (f32 (srcA f x 1 l)) (f32 (srcB f x 1 l))).2))))) ∧
  (∀ f, fnSub f.fn = 0 → RegWord (.vote f) (fun x _ g' =>
    ScaOut x.g g' f.dst.toNat 1 (x.g.pget f.sa.toNat &&& x.active).toNat 0)) ∧
  (∀ f, fnSub f.fn = 1 → RegWord (.vote f) (fun x _ g' =>
    VecOut x.g g' f.dst.toNat 1 x.active (fun _ => (x.g.pget f.sa.toNat &&& x.active).toNat) 0)) ∧
  (∀ f, fnSub f.fn = 2 → RegWord (.vote f) (fun x _ g' => PredOut x g' f.dst.toNat
    (fun _ => x.lanes.any (fun l => predAt x.g f.sa.toNat l)) 0)) ∧
  (∀ f, fnSub f.fn = 3 → RegWord (.vote f) (fun x _ g' => PredOut x g' f.dst.toNat
    (fun _ => x.lanes.all (fun l => predAt x.g f.sa.toNat l)) 0)) ∧
  (∀ f, fnSub f.fn = 4 → RegWord (.vote f) (fun x _ g' => PredOut x g' f.dst.toNat
    (fun _ => x.lanes.all (fun l => predAt x.g f.sa.toNat l) || x.lanes.all (fun l => !predAt x.g f.sa.toNat l)) 0))

/-- An integer as a floating-point value. -/
def intValue (v : Int) : FV := .fin (decide (v < 0)) v.natAbs 0

/-- The eight elements of the four bytes of an I4O register, and whether a nibble 0b1000 stands where it marks no outlier (04 R83, 17 R385). -/
def i4oElems (x : Nat) : List FV × Bool :=
  let nib := fun (n : Nat) => (if n = 8 then intValue 0 else intValue (toSigned 4 n), decide (n = 8))
  let two := fun (p q : Nat) =>
    if p % 16 = 8 then [(e4m3.value q, false), nib (p / 16), (intValue 0, false), (intValue 0, false)]
    else [nib (p % 16), nib (p / 16), nib (q % 16), nib (q / 16)]
  let es := two (x % 256) (x / 256 % 256) ++ two (x / 65536 % 256) (x / 16777216 % 256)
  (es.map (fun e => e.1), es.any (fun e => e.2))

/-- The exact sum of some integers of a word's elements. -/
def sumOver (n : Nat) (f : Nat → Int) : Int := ((List.range n).map f).foldl (fun a b => a + b) 0

/-- 17 R366, 17 R367, 17 R369, 17 R384, 17 R385, 17 R387: floating-point arithmetic and dot products of 32-bit registers,
with the flags of their results: the elements, the products and the sums are written out.
04 R76: the value of an FP32 code; 04 R77 to R79: those of the other formats. 04 R84, 04 R85, 04 R86, 04 R87, 04 R95: a sum, a product and a fused product and sum are the exact value
rounded once under the mode of FN, with IEEE's zeros, infinities and NaNs. 04 R98: a K-block adds to its accumulator, with one rounding, the sum
of its products cut at 30 bits below the largest. (UF of a result below the smallest normal is log entry 30.) -/
def Obligations.FloatWords : Prop :=
  (∀ f, OneWord (.fadd f) f (fun x l => fadd32 (fnRm f.fn) ((f32 (srcA f x 1 l)).flipIf (f.fn.getLsbD 1))
    ((f32 (srcB f x 1 l)).flipIf (f.fn.getLsbD 0)))) ∧
  (∀ f, OneWord (.fmul f) f (fun x l => fmul32 (fnRm f.fn) (f32 (srcA f x 1 l)) ((f32 (srcB f x 1 l)).flipIf (f.fn.getLsbD 0)))) ∧
  (∀ f, OneWord (.ffma f) f (fun x l => ffma32 (fnRm f.fn) (f.fn.getLsbD 0) (f32 (srcA f x 1 l)) (f32 (srcB f x 1 l))
    ((f32 (srcC f x 1 l)).flipIf (f.fn.getLsbD 1)))) ∧
  (∀ f, OneWord (.fmin f) f (fun x l => fmm fp32 false (srcA f x 1 l) (srcB f x 1 l))) ∧
  (∀ f, OneWord (.fmax f) f (fun x l => fmm fp32 true (srcA f x 1 l) (srcB f x 1 l))) ∧
  (∀ f, OneWord (.fdot2 f) f (fun x l =>
    fdotVal (tyFmt (fnTy f.fn)) (tyFmt (fnTy f.fn)) 2 (srcA f x 1 l) (srcB f x 1 l) (srcC f x 1 l))) ∧
  (∀ f, OneWord (.fdot4 f) f (fun x l =>
    fdotVal (tyFmt (fnTy f.fn)) (if f.fn.getLsbD 0 then (if fnTy f.fn = 11 then e5m2 else e4m3) else tyFmt (fnTy f.fn)) 4
      (srcA f x 1 l) (srcB f x 1 l) (srcC f x 1 l))) ∧
  (∀ f, OneWord (.hfma2 f) f (fun x l =>
    let h := fun i => hfmaHalf (tyFmt (fnTy f.fn)) (srcA f x 1 l / 65536 ^ i % 65536) (srcB f x 1 l / 65536 ^ i % 65536)
      (srcC f x 1 l / 65536 ^ i % 65536)
    ((h 0).1 + 65536 * (h 1).1, (h 0).2 ||| (h 1).2))) ∧
  (let byteAt := fun (u : Bool) (v i : Nat) => if u then ((v / 256 ^ i % 256 : Nat) : Int) else toSigned 8 (v / 256 ^ i % 256)
   (∀ f, OneWord (.idp4 f) f (fun x l => dotResult (sumOver 4 (fun i =>
      byteAt (f.fn.getLsbD 0) (srcA f x 1 l) i * byteAt (f.fn.getLsbD 1) (srcB f x 1 l) i) + toSigned 32 (srcC f x 1 l)))) ∧
   (∀ f, OneWord (.isqd4 f) f (fun x l => dotResult (sumOver 4 (fun i =>
      (byteAt (f.fn.getLsbD 0) (srcA f x 1 l) i - byteAt (f.fn.getLsbD 0) (srcB f x 1 l) i) ^ 2) + toSigned 32 (srcC f x 1 l))))) ∧
  (∀ f, OneWord (.idp8 f) f (fun x l =>
    let a := srcA f x 1 l
    let b := srcB f x 1 l
    let i4 := fun (v i : Nat) => toSigned 4 (v / 16 ^ i % 16)
    if fnTy f.fn = 15 then
      let vb := if f.fn.getLsbD 0 then i4oElems b else ((List.range 8).map (fun i => intValue (i4 b i)), false)
      let r := kblockPairs fp32 (f32 (srcC f x 1 l)) ((i4oElems a).1.zip vb.1) 127 127
      (r.1, r.2 ||| if (i4oElems a).2 || vb.2 then fFMT else 0)
    else dotResult (sumOver 8 (fun i => i4 a i * i4 b i) + toSigned 32 (srcC f x 1 l)))) ∧
  (∀ v : Int, dotResult v = ((v % (2 ^ 32 : Int)).toNat, if v < -2 ^ 31 ∨ 2 ^ 31 ≤ v then fIOV else 0)) ∧
  (∀ (fa fb : Fmt) (n a b c : Nat), fdotVal fa fb n a b c = kblockPairs fp32 (f32 c) ((List.range n).map (fun i =>
    (fa.value (a / 2 ^ (fa.width * i) % 2 ^ fa.width), fb.value (b / 2 ^ (fb.width * i) % 2 ^ fb.width)))) 127 127) ∧
  (∀ (ft : Fmt) (a b c : Nat), hfmaHalf ft a b c = kblockPairs ft (ft.value c) [(ft.value a, ft.value b)] 127 127) ∧
  (∀ (ft : Fmt) (c : FV) (l : List (FV × FV)), kblockPairs ft c l 127 127 = kblock ft c (l.map (fun p => kprod p.1 p.2 127 127))
    (l.any (fun p => p.1.isNan || p.2.isNan)) (l.any (fun p => p.1.isSnan || p.2.isSnan))) ∧
  ((∀ (n1 n2 : Bool) (m1 m2 : Nat) (e1 e2 : Int), kprod (.fin n1 m1 e1) (.fin n2 m2 e2) 127 127 = .fin (n1 != n2) (m1 * m2) (e1 + e2)) ∧
   (∀ a b : FV, (a.isNan = true ∨ b.isNan = true) → kprod a b 127 127 = .nan false) ∧
   (∀ (n : Bool) (b : FV), b.isNan = false →
     kprod (.inf n) b 127 127 = (if b.isZero then .nan false else .inf (n != b.neg)) ∧
     kprod b (.inf n) 127 127 = (if b.isZero then .nan false else .inf (b.neg != n)))) ∧
  (∀ q ∈ ([(fp16, 10, 5, 15, true), (bf16, 7, 8, 127, true), (e5m2, 2, 5, 15, true), (e4m3, 3, 4, 7, false),
     (e2m1, 1, 2, 1, false)] : List (Fmt × Nat × Nat × Nat × Bool)),
     ∀ c, c < 2 ^ (1 + q.2.2.1 + q.2.1) →
     let ft := q.1
     let w := q.2.1
     let ieee := q.2.2.2.2
     let neg := decide (2 ^ (q.2.2.1 + w) ≤ c)
     let e : Nat := c / 2 ^ w % 2 ^ q.2.2.1
     let m : Nat := c % 2 ^ w
     let top := e + 1 = 2 ^ q.2.2.1
     ft.width = 1 + q.2.2.1 + w ∧
     (e = 0 → ft.value c = .fin neg m (1 - (q.2.2.2.1 : Int) - w)) ∧
     (e ≠ 0 → (top → ieee = false ∧ (ft = e4m3 → m ≠ 7)) → ft.value c = .fin neg (m + 2 ^ w) ((e : Int) - (q.2.2.2.1 : Int) - w)) ∧
     (top → ieee = true → (m = 0 → ft.value c = .inf neg) ∧
       (m ≠ 0 → ft.value c = .nan (decide (ft ≠ e5m2 ∧ m < 2 ^ (w - 1))))) ∧
     (top → ft = e4m3 → m = 7 → ft.value c = .nan false)) ∧
  (∀ f, OneWord (.hamd f) f (fun x l => dotResult
    ((((List.range 64).filter (fun i => (srcA f x (tyRegs (fnTy f.fn)) l ^^^ srcB f x (tyRegs (fnTy f.fn)) l).testBit i)).length : Int)
      + toSigned 32 (srcC f x 1 l)))) ∧
  (∀ c, c < 2 ^ 32 →
    let k := c % 2 ^ 31
    let neg := decide (2 ^ 31 ≤ c)
    (k < 0x7F800000 → ∃ m e, fp32.value c = .fin neg m e ∧ m < 2 ^ 24 ∧ -149 ≤ e ∧ m * 2 ^ (e + 150).toNat = fp32Units k) ∧
    (k = 0x7F800000 → fp32.value c = .inf neg) ∧ (0x7F800000 < k → fp32.value c = .nan (decide (k < 0x7FC00000)))) ∧
  (∀ (rm : Nat) (neg : Bool) (m : Nat) (e : Int), rm < 4 → 0 < m → RoundsTo rm neg (dyadicCmp m e) (fp32.round rm .ieee neg m e)) ∧
  (∀ (rm : Nat) (n1 n2 : Bool) (m1 m2 : Nat) (e1 e2 : Int), rm < 4 →
    let lo := if e1 ≤ e2 then e1 else e2
    let v := exactInt n1 m1 e1 lo + exactInt n2 m2 e2 lo
    (v ≠ 0 → RoundsTo rm (decide (v < 0)) (dyadicCmp v.natAbs lo) (fadd32 rm (.fin n1 m1 e1) (.fin n2 m2 e2))) ∧
    (v = 0 → fadd32 rm (.fin n1 m1 e1) (.fin n2 m2 e2) = (if (if m1 = 0 ∧ m2 = 0 ∧ n1 = n2 then n1 = true else rm = 3) then 2 ^ 31 else 0, 0)) ∧
    (0 < m1 * m2 → RoundsTo rm (n1 != n2) (dyadicCmp (m1 * m2) (e1 + e2)) (fmul32 rm (.fin n1 m1 e1) (.fin n2 m2 e2))) ∧
    (m1 * m2 = 0 → fmul32 rm (.fin n1 m1 e1) (.fin n2 m2 e2) = (if n1 = n2 then 0 else 2 ^ 31, 0))) ∧
  (∀ (rm : Nat) (np n1 n2 n3 : Bool) (m1 m2 m3 : Nat) (e1 e2 e3 : Int), rm < 4 →
    let n := (n1 != n2) != np
    let lo := if e1 + e2 ≤ e3 then e1 + e2 else e3
    let v := exactInt n (m1 * m2) (e1 + e2) lo + exactInt n3 m3 e3 lo
    let r := ffma32 rm np (.fin n1 m1 e1) (.fin n2 m2 e2) (.fin n3 m3 e3)
    (v ≠ 0 → RoundsTo rm (decide (v < 0)) (dyadicCmp v.natAbs lo) r) ∧
    (v = 0 → r = (if (if m1 * m2 = 0 ∧ m3 = 0 ∧ n = n3 then n3 = true else rm = 3) then 2 ^ 31 else 0, 0))) ∧
  (∀ (rm : Nat) (a b : FV), (a.isNan = true ∨ b.isNan = true) →
    let fl := if a.isSnan || b.isSnan then fNV else 0
    fadd32 rm a b = (0x7FC00000, fl) ∧ fmul32 rm a b = (0x7FC00000, fl)) ∧
  (∀ (rm : Nat) (np : Bool) (a b c : FV), (a.isNan = true ∨ b.isNan = true ∨ c.isNan = true) → ffma32 rm np a b c =
    (0x7FC00000, if a.isSnan || b.isSnan || c.isSnan || (a.isInf && b.isZero) || (a.isZero && b.isInf) then fNV else 0)) ∧
  (∀ (rm : Nat) (n : Bool) (b : FV), b.isNan = false →
    fadd32 rm (.inf n) b = (if b.isInf && b.neg != n then (0x7FC00000, fNV) else (infBits n, 0)) ∧
    (b.isInf = false → fadd32 rm b (.inf n) = (infBits n, 0)) ∧
    fmul32 rm (.inf n) b = (if b.isZero then (0x7FC00000, fNV) else (infBits (n != b.neg), 0)) ∧
    fmul32 rm b (.inf n) = (if b.isZero then (0x7FC00000, fNV) else (infBits (b.neg != n), 0))) ∧
  (∀ (rm : Nat) (np : Bool) (a b c : FV), a.isNan = false → b.isNan = false → c.isNan = false →
    let n := (a.neg != b.neg) != np
    ((a.isInf || b.isInf) = true → ffma32 rm np a b c =
      if a.isZero || b.isZero || (c.isInf && c.neg != n) then (0x7FC00000, fNV) else (infBits n, 0)) ∧
    (a.isInf = false → b.isInf = false → c.isInf = true → ffma32 rm np a b c = (infBits c.neg, 0))) ∧
  (∀ (c : FV) (ps : List FV) (inNan inSnan : Bool),
    ((c.isNan = true ∨ (∃ p ∈ ps, p.isNan = true) ∨ (.inf false ∈ ps ∧ .inf true ∈ ps)) → (kblock fp32 c ps inNan inSnan).1 = 0x7FC00000) ∧
    (c.isNan = false → (∀ p ∈ ps, p.isNan = false) → ∀ n, .inf n ∈ ps → .inf (!n) ∉ ps →
      kblock fp32 c ps inNan inSnan = ((fadd32 0 c (.inf n)).1, (fadd32 0 c (.inf n)).2 ||| if inSnan then fNV else 0)) ∧
    (c.isNan = false → (∀ p ∈ ps, p.isNan = false ∧ p.isInf = false) →
      let nz := ps.filterMap (fun p => match p with
        | .fin n m e => if m = 0 then none else some (n, m, e)
        | _ => none)
      (nz = [] → kblock fp32 c ps inNan inSnan = fadd32 0 c (.fin false 0 0)) ∧
      (∀ top : Int, (∀ p ∈ nz, (Nat.log2 p.2.1 : Int) + p.2.2 ≤ top) → (∃ p ∈ nz, (Nat.log2 p.2.1 : Int) + p.2.2 = top) →
        let low := top - 30
        let cut := fun (p : Bool × Nat × Int) => exactInt p.1 (p.2.1 / 2 ^ (low - p.2.2).toNat) p.2.2 (if p.2.2 < low then p.2.2 else low)
        let n := (nz.map cut).foldl (fun a b => a + b) 0
        let r := fadd32 0 c (.fin (decide (n < 0)) n.natAbs (if n = 0 then 0 else low))
        kblock fp32 c ps inNan inSnan = (r.1, r.2 ||| if nz.any (fun p => p.2.1 % 2 ^ (low - p.2.2).toNat != 0) then fALN ||| fNX else 0))))

/-- The sum of the terms of a series that a term and its number give: y + y²/2 + y³/3 + … in units of 2^−128, for y = x/2^40. -/
def lnTerms (x : Nat) : Nat → Nat → Nat → Nat
  | 0, _, _ => 0
  | k + 1, n, t => t / n + lnTerms x k (n + 1) (t * x / 2 ^ 40)

/-- The natural logarithm of 1/(1 − x/2^40) in units of 2^−128, for x up to 2^39, by 130 terms of its series, each cut to the unit: less than
300 units below the exact value. -/
def lnUnits (x : Nat) : Nat := lnTerms x 130 1 (x * 2 ^ 88)

/-- 17 R371, 03 R56: a transcendental word leaves its destination empty and a producer pending that holds the results and
flags of the active lanes; no register holds a new value yet.
04 R95, 04 R96, 04 R97: FRCP and FRSQ are the exact reciprocal and reciprocal square root rounded once; FEXP2 and FLOG2 are the sums of the spec's
listings, with its tables, rounded to the nearest. The constants C, D and L are the integers nearest to the spec's expressions, with ln 2 and the
logarithms taken from their series to within 300 × 2^−128.
03 R56, 03 R73, 04 R89: a producer's completion writes its values in the lanes that still live, sets its flags, makes its
registers full if it fills, and is then no longer pending. -/
def Obligations.PendingResults : Prop :=
  (let word := fun (i : Instr) (f : FmtV) (op : FV → Nat × Flags) =>
     ∀ (s : State) (x : Issue), s.issues i = some x → ∃ (t : State) (p : Producer), exec i s = .next t ∧
       Ends x { x.g.markEmpty p.vregs p.sregs with pend := x.g.pend ++ [p] } { s with fresh := s.fresh + 1 } t ∧
       p.id = s.fresh ∧ p.fills = true ∧
       (fnSk f.fn = true → p.vregs = [] ∧ p.sregs = [f.dst.toNat] ∧ p.fp = (op (f32 (srcA f x 1 0))).2 ∧
         p.swrites = [(f.dst.toNat, BitVec.ofNat 32 (op (f32 (srcA f x 1 0))).1)]) ∧
       (fnSk f.fn = false → p.vregs = [f.dst.toNat] ∧ p.sregs = [] ∧ p.vmask = [(f.dst.toNat, x.active)] ∧
         p.fp = orFlags (x.lanes.map (fun l => (op (f32 (srcA f x 1 l))).2)) ∧
         ∀ l, l < 32 → hasLane x.active l = true →
           Sparse.get p.vwrites (32 * f.dst.toNat + l) = BitVec.ofNat 32 (op (f32 (srcA f x 1 l))).1)
   (∀ f, word (.frcp f) f (frcp32 (fnRm f.fn))) ∧ (∀ f, word (.frsq f) f (frsq32 (fnRm f.fn))) ∧
   (∀ f, word (.fexp2 f) f fexp2) ∧ (∀ f, word (.flog2 f) f flog2)) ∧
  ((∀ (rm : Nat) (n : Bool) (m : Nat) (e : Int), rm < 4 → 0 < m → RoundsTo rm n (recipCmp m e) (frcp32 rm (.fin n m e))) ∧
   (∀ (rm : Nat) (m : Nat) (e : Int), rm < 4 → 0 < m → m < 2 ^ 24 → RoundsTo rm false (rsqrtCmp m e) (frsq32 rm (.fin false m e))) ∧
   (∀ (rm : Nat) (n : Bool) (e : Int), frcp32 rm (.fin n 0 e) = (infBits n, fDZ) ∧ frsq32 rm (.fin n 0 e) = (infBits n, fDZ) ∧
     frcp32 rm (.inf n) = (if n then 2 ^ 31 else 0, 0) ∧ frsq32 rm (.inf n) = (if n then (0x7FC00000, fNV) else (0, 0)) ∧
     ∀ m, 0 < m → frsq32 rm (.fin true m e) = (0x7FC00000, fNV)) ∧
   (∀ (rm : Nat) (sn : Bool), let r := (0x7FC00000, if sn then fNV else 0)
     frcp32 rm (.nan sn) = r ∧ frsq32 rm (.nan sn) = r ∧ fexp2 (.nan sn) = r ∧ flog2 (.nan sn) = r) ∧
   (∀ i, i < 64 → (2 * (nth 0 exp2E i).toNat - 1) ^ 64 < 2 ^ (63 * 64 + i) ∧ 2 ^ (63 * 64 + i) < (2 * (nth 0 exp2E i).toNat + 1) ^ 64) ∧
   (∀ i, i < 64 → 2 * (nth 0 log2T i).toNat * (64 + i) ≤ 2 ^ 47 + (64 + i) ∧ 2 ^ 47 ≤ 2 * (nth 0 log2T i).toNat * (64 + i) + (64 + i)) ∧
   (let ln2 : Int := lnUnits (2 ^ 39)
    (∀ k, k < 4 → let f : Int := nth 0 [1, 2, 6, 24] k * (2 ^ 128) ^ (k + 1)
      (2 * nth 0 exp2C k * f - 2 ^ 63 * ln2 ^ (k + 1)).natAbs < f.natAbs) ∧
    (∀ k, k < 6 → (2 * nth 0 log2D k * (k + 1) * ln2 - (if k % 2 = 0 then 1 else -1) * 2 ^ 191).natAbs < (k + 1) * ln2.natAbs) ∧
    (∀ i, i < 64 → (2 * nth 0 log2L i * ln2 - 2 ^ 63 * lnUnits (2 ^ 40 - (nth 0 log2T i).toNat)).natAbs < ln2.natAbs)) ∧
   (fexp2 (.inf true) = (0, 0) ∧ fexp2 (.inf false) = (0x7F800000, 0)) ∧
   (∀ (neg : Bool) (m : Nat) (e : Int),
     let low := if e < 0 then e else 0
     let v := exactInt neg m e low
     let unit : Int := ((2 ^ (-low).toNat : Nat) : Int)
     let k := fun (a b : Int) => a * b / ((2 ^ 62 : Nat) : Int)
     let n := v / unit
     let y := (v - n * unit) * ((2 ^ 62 : Nat) : Int) / unit
     let i := (y / ((2 ^ 56 : Nat) : Int)).toNat
     let u := y % ((2 ^ 56 : Nat) : Int)
     let c := fun j => nth 0 exp2C j
     let p := ((2 ^ 62 : Nat) : Int) + k (c 0 + k (c 1 + k (c 2 + k (c 3) u) u) u) u
     let r := (fp32.round 0 .ieee false (k (nth 0 exp2E i) p).toNat (n - 62)).1
     let nx := ¬ (v % unit = 0 ∧ -149 ≤ n)
     (128 * unit ≤ v → fexp2 (.fin neg m e) = (0x7F800000, fOF ||| fNX)) ∧ (v < -150 * unit → fexp2 (.fin neg m e) = (0, fUF ||| fNX)) ∧
     (-150 * unit ≤ v → v < 128 * unit → fexp2 (.fin neg m e) =
       (r, (if nx then fNX else 0) ||| if nx ∧ r < 2 ^ 23 then fUF else 0))) ∧
   (flog2 (.inf true) = (0x7FC00000, fNV) ∧ flog2 (.inf false) = (0x7F800000, 0)) ∧
   (∀ (neg : Bool) (m : Nat) (e : Int),
     let b := Nat.log2 m
     let i := (m - 2 ^ b) * 64 / 2 ^ b
     let one : Int := ((2 ^ (b + 40) : Nat) : Int)
     let z := ((m : Int) * nth 0 log2T i - one) * ((2 ^ 62 : Nat) : Int) / one
     let k := fun (a b : Int) => a * b / ((2 ^ 62 : Nat) : Int)
     let d := fun j => nth 0 log2D j
     let v := ((b : Int) + e) * ((2 ^ 62 : Nat) : Int) + nth 0 log2L i + k (d 0 + k (d 1 + k (d 2 + k (d 3 + k (d 4 + k (d 5) z) z) z) z) z) z
     (m = 0 → flog2 (.fin neg m e) = (infBits true, fDZ)) ∧ (0 < m → neg = true → flog2 (.fin neg m e) = (0x7FC00000, fNV)) ∧
     (0 < m → neg = false → flog2 (.fin neg m e) =
       ((fp32.round 0 .ieee (decide (v < 0)) v.natAbs (-62)).1, if m = 2 ^ b then 0 else fNX)))) ∧
  (∀ (s : State) (p : Party) (id : Nat) (g : Group) (q : Producer), s.grp? p = some g →
     g.pend.find? (fun q => q.id = id) = some q → q.kind ≠ .ocall → q.kind ≠ .drain → q.kind ≠ .icinv → q.header = none → g.v.wf = true → g.sr.wf = true →
     ∃ t g', exec (.producerComplete p id) s = .next t ∧ t = s.setGrp p g' ∧
       (∀ n l, l < 32 → g'.vget n l = if q.vmask.any (fun k => k.1 = n && hasLane (k.2 &&& g.live) l) = true
         then Sparse.get q.vwrites (32 * n + l) else g.vget n l) ∧
       (∀ n v, q.swrites = [(n, v)] → g'.sget n = v) ∧
       g'.fpflags = g.fpflags ||| q.fp ∧ g'.mxflags = g.mxflags ||| q.mx ∧
       (∀ r ∈ g'.pend, r.id ≠ id) ∧
       (q.fills = true → (∀ n ∈ q.vregs, n ∉ g'.vEmpty) ∧ ∀ n ∈ q.sregs, n ∉ g'.sEmpty) ∧
       g'.preds = g.preds ∧ g'.masks = g.masks ∧ g'.tab = g.tab ∧ g'.alloc = g.alloc ∧ g'.gens = g.gens)

/-- 19 R423, 17 R381, 17 R382, 18 R398, 03 R66: SHFL, GRED, GSCAN and MATCH read every active lane first, write the active
lanes only, and let lanes outside the active set supply nothing (or the identity); 04 R101, 04 R102: the tree of GRED and the steps of GSCAN.
17 R379, 17 R383, 16 R356: COMPACT packs the chosen lanes' values into the lowest active lanes and counts them; GSORT
sorts the present lanes' pairs; GMERGEK merges the active lanes' lists of pairs and keeps the k first.
18 R417, 03 R67: RGPUT deposits every chosen lane's record or, where the core's table of 256 lacks room, none and says
so; RGTAKE hands the block's oldest records to the active lanes in order, with their work identifiers. -/
def Obligations.CrossLaneWords : Prop :=
  ((∀ f, CrossWord (.shfl f) f (tyRegs (fnTy f.fn)) (fun x l =>
     let b := srcB f x 1 l
     let j : Int := if fnSub f.fn = 0 then (b % 32 : Nat) else if fnSub f.fn = 1 then (if (l : Int) - b < 0 then l else l - b)
       else if fnSub f.fn = 2 then (if 31 < l + b then l else l + b) else (l ^^^ b % 32 : Nat)
     srcA f x (tyRegs (fnTy f.fn)) (if hasLane x.active j.toNat then j.toNat else l)) (fun _ => 0)) ∧
   (∀ f, CrossWord (.gred f) f (tyRegs (fnTy f.fn))
     (fun x _ => ((tree (redOp (fnTy f.fn) (fnSub f.fn)) (redIn f x (fnTy f.fn) (fnSub f.fn))).headD (0, 0)).1)
     (fun x => ((tree (redOp (fnTy f.fn) (fnSub f.fn)) (redIn f x (fnTy f.fn) (fnSub f.fn))).headD (0, 0)).2)) ∧
   (∀ f, CrossWord (.gscan f) f 1
     (fun x l =>
       let y := scan (scanOp (fnTy f.fn) (fnSub f.fn % 4)) (scanIn f x (fnTy f.fn) (fnSub f.fn % 4))
       canonOf (fnTy f.fn) (if f.fn.getLsbD 2 = false then (nth (0, 0) y l).1
         else if l = 0 then redId (fnTy f.fn) (fnSub f.fn % 4) else (nth (0, 0) y (l - 1)).1))
     (fun x => orFlags (x.lanes.map (fun l =>
       (nth (0, 0) (scan (scanOp (fnTy f.fn) (fnSub f.fn % 4)) (scanIn f x (fnTy f.fn) (fnSub f.fn % 4))) l).2)))) ∧
   (∀ (op : Nat × Flags → Nat × Flags → Nat × Flags) (x : Nat → Nat → Nat × Flags),
     ((∀ k i, k < 5 → x (k + 1) i = op (x k (2 * i)) (x k (2 * i + 1))) → tree op ((List.range 32).map (x 0)) = [x 5 0]) ∧
     ((∀ k i, k < 5 → i < 32 → x (k + 1) i = if 2 ^ k ≤ i then op (x k (i - 2 ^ k)) (x k i) else x k i) →
       scan op ((List.range 32).map (x 0)) = (List.range 32).map (x 5))) ∧
   (∀ (ty : Nat) (a b : Nat × Flags),
     (ty ≠ 8 → redOp ty 0 a b = (((intOf ty a.1 + intOf ty b.1) % 2 ^ tyWidth ty).toNat, a.2 ||| b.2) ∧
       redOp ty 1 a b = (if intOf ty a.1 ≤ intOf ty b.1 then a.1 else b.1, a.2 ||| b.2) ∧
       redOp ty 2 a b = (if intOf ty a.1 ≤ intOf ty b.1 then b.1 else a.1, a.2 ||| b.2) ∧
       redOp ty 3 a b = (a.1 &&& b.1, a.2 ||| b.2) ∧ redOp ty 4 a b = (a.1 ||| b.1, a.2 ||| b.2) ∧ redOp ty 5 a b = (a.1 ^^^ b.1, a.2 ||| b.2) ∧
       redId ty 0 = 0 ∧ redId ty 3 = 2 ^ tyWidth ty - 1 ∧ redId ty 4 = 0 ∧ redId ty 5 = 0) ∧
     (let sum := fadd32 0 (f32 a.1) (f32 b.1)
      let less := fmm fp32 false a.1 b.1
      let more := fmm fp32 true a.1 b.1
      redOp 8 0 a b = (sum.1, sum.2 ||| (a.2 ||| b.2)) ∧ redOp 8 1 a b = (less.1, less.2 ||| (a.2 ||| b.2)) ∧
      redOp 8 2 a b = (more.1, more.2 ||| (a.2 ||| b.2)) ∧
      redId 8 0 = 0x80000000 ∧ redId 8 1 = 0x7F800000 ∧ redId 8 2 = 0xFF800000)) ∧
   (∀ f, CrossWord (.matchL f) f 1 (fun x l =>
     ((List.range 32).filter (fun j => hasLane x.active j &&
       srcA f x (tyRegs (fnTy f.fn)) j == srcA f x (tyRegs (fnTy f.fn)) l)).foldl (fun m j => m + 2 ^ j) 0) (fun _ => 0))) ∧
  ((∀ f, RegWord (.compact f) (fun x _ g' =>
     let p := x.lanes.filter (fun l => predAt x.g f.sb.toNat l)
     ∃ g1, VecOut x.g g1 f.dst.toNat (tyRegs (fnTy f.fn)) x.active
         (fun l => nth 0 (p.map (fun j => srcA f x (tyRegs (fnTy f.fn)) j)) (rankIn x.active l)) 0 ∧
       ScaOut g1 g' f.sc.toNat 1 p.length 0)) ∧
   (∀ f, CrossWord (.gsort f) f 2 (fun x l =>
     let out := sortBy (pairLe (fnTy f.fn) (f.fn.getLsbD 0)) ((lanesOf x.g.present).map (fun l => ⟨srcA f x 1 l, srcB f x 1 l⟩))
     (nth default out (rankIn x.g.present l)).key + 2 ^ 32 * (nth default out (rankIn x.g.present l)).pay) (fun _ => 0)) ∧
   (∀ f, CrossWord (.gmergek f) f 2 (fun x l =>
     let pick := fun (r : Nat) => x.lanes.map (fun l => (⟨(x.g.vget r l).toNat, (x.g.vget (r + 1) l).toNat⟩ : KeyPair))
     let all := sortBy (pairLe (fnTy f.fn) false)
       ((pick f.sa.toNat ++ pick f.sb.toNat).filter (fun p => !keyNan (fnTy f.fn) p.key))
     let p := if rankIn x.active l < min (x.g.sget f.sc.toNat).toNat x.lanes.length then
       nth (emptyPair (fnTy f.fn)) all (rankIn x.active l) else emptyPair (fnTy f.fn)
     p.key + 2 ^ 32 * p.pay) (fun _ => 0))) ∧
  ((∀ (f : FmtV) (s : State) (x : Issue) (b : Block), s.issues (.rgput f) = some x → s.blockOfParty x.party = some b →
     let p := x.lanes.filter (fun l => predAt x.g f.sb.toNat l)
     let used := (s.sched.records.filter (fun r => r.1 = b.core)).length
     (256 < used + p.length → exec (.rgput f) s =
       .next (retire x (x.g.sset f.dst.toNat (BitVec.ofNat 32 (0x80000000 + p.length))) s)) ∧
     (used + p.length ≤ 256 → ∃ t, exec (.rgput f) s = .next t ∧
       Ends x (x.g.sset f.dst.toNat (BitVec.ofNat 32 p.length)) { s with sched.records := t.sched.records } t ∧
       ∃ new, t.sched.records = s.sched.records ++ new ∧ new.map (fun r => (r.1, r.2.blk, r.2.wid, r.2.regs)) =
         p.map (fun l => (b.core, b.uid, nth 0 x.g.wids l, (List.range (rgWin f.fn)).map (fun i => x.g.vget (f.sa.toNat + i) l))))) ∧
   (∀ (f : FmtV) (s : State) (x : Issue) (b : Block), s.issues (.rgtake f) = some x → s.blockOfParty x.party = some b →
     x.g.v.wf = true → x.g.sr.wf = true → x.g.wids.length = 32 →
     let mine := (s.sched.records.filter (fun r => r.1 = b.core && r.2.blk = b.uid)).map (fun r => r.2)
     let m := min x.lanes.length mine.length
     ∃ (t : State) (g : Group), exec (.rgtake f) s = .next t ∧ Ends x g { s with sched.records := t.sched.records } t ∧
       (∀ n, g.sget n = if n = f.dst.toNat then BitVec.ofNat 32 m else x.g.sget n) ∧
       (t.sched.records.filter (fun r => r.1 = b.core && r.2.blk = b.uid)).map (fun r => r.2) = mine.drop m ∧
       (t.sched.records.filter (fun r => !(r.1 = b.core && r.2.blk = b.uid))) =
         s.sched.records.filter (fun r => !(r.1 = b.core && r.2.blk = b.uid)) ∧
       (∀ l, l < 32 → nth 0 g.wids l =
         if hasLane x.active l = true ∧ rankIn x.active l < m then (nth default mine (rankIn x.active l)).wid else nth 0 x.g.wids l) ∧
       (∀ n l, l < 32 → g.vget n l =
         if hasLane x.active l = true ∧ rankIn x.active l < m ∧ f.sa.toNat ≤ n ∧ n < f.sa.toNat + rgWin f.fn
         then nth 0 (nth default mine (rankIn x.active l)).regs (n - f.sa.toNat) else x.g.vget n l)))

/-- 18 R402, 03 R59, 03 R60: each form of MSK writes its mask (never an exited or absent lane) or reads one into a scalar
register; a mask write re-evaluates parked lanes. LEAVE clears the active lanes of its mask.
03 R46, R49, R60, R64: what a re-evaluation releases and to which PC, and how lanes enter the table, are stated in full.
18 R393, 19 R436, 03 R53, 03 R60: JOIN and WAITM park the active lanes of their mask at the word and send the others on,
then masks are re-evaluated; YIELD sends every lane on in a deferred entry, but where there is an entry at the next word already whose DEF is
0, which the lanes join: it stays 0 (the model's choice, log entry 79). -/
def Obligations.MaskWords : Prop :=
  (let wrote := fun (i : Instr) (d : Nat) (m : Issue → LaneMask) =>
     ∀ (s : State) (x : Issue), s.issues i = some x →
       ∃ ms, exec i s = .next (retire x (Group.reeval { x.g with masks := ms }) s) ∧
         ∀ n, nth 0 ms n = if n = d ∧ d < x.g.masks.length then m x &&& x.g.live else nth 0 x.g.masks n
   (∀ f, fnSub f.fn = 0 → wrote (.msk f) f.dst.toNat (fun x => x.g.pget f.sa.toNat &&& x.active)) ∧
   (∀ f, fnSub f.fn = 1 → wrote (.msk f) f.dst.toNat (fun x =>
     (x.g.mget f.dst.toNat &&& ~~~x.active) ||| (x.g.pget f.sa.toNat &&& x.active))) ∧
   (∀ f, fnSub f.fn = 2 → wrote (.msk f) f.dst.toNat (fun x => x.g.sget f.sa.toNat)) ∧
   (∀ f, fnSub f.fn = 3 → wrote (.msk f) f.dst.toNat (fun x => x.g.mget f.sa.toNat &&& x.g.mget f.sb.toNat)) ∧
   (∀ f, fnSub f.fn = 4 → wrote (.msk f) f.dst.toNat (fun x => x.g.mget f.sa.toNat ||| x.g.mget f.sb.toNat)) ∧
   (∀ f, fnSub f.fn = 5 → wrote (.msk f) f.dst.toNat (fun x => x.g.mget f.sa.toNat &&& ~~~x.g.mget f.sb.toNat)) ∧
   (∀ f, fnSub f.fn = 6 → wrote (.msk f) f.dst.toNat (fun x => x.g.mget f.sa.toNat ^^^ x.g.mget f.sb.toNat)) ∧
   (∀ (f : FmtV) (s : State) (x : Issue), fnSub f.fn = 7 → s.issues (.msk f) = some x → x.g.sr.wf = true →
     ∃ g1, ScaOut x.g g1 f.dst.toNat 1 (x.g.mget f.sa.toNat).toNat 0 ∧ exec (.msk f) s = .next (retire x g1.reeval s)) ∧
   (∀ f, wrote (.leave f) f.sa.toNat (fun x => x.g.mget f.sa.toNat &&& ~~~x.active))) ∧
  ((∀ (f : FmtV) (s : State) (x : Issue) (i : Instr) (st : EntrySt),
     (i = .join f ∧ st = .join) ∨ (i = .waitm f ∧ st = .waitm) → s.issues i = some x →
     let p := x.active &&& x.g.mget f.sa.toNat
     let g1 := x.g.advance x.pc x.mask x.df [(x.mask &&& ~~~p, x.pc + 8)]
     exec i s = .next (s.setGrp x.party
       { (Group.reeval (if p = 0 then g1 else { g1 with tab := insParked g1.tab x.pc p st (BitVec.ofNat 4 f.sa.toNat) }))
         with run := none })) ∧
   (∀ (f : FmtV) (s : State) (x : Issue), s.issues (.yield f) = some x →
     let g1 := x.g.advance x.pc x.mask x.df []
     exec (.yield f) s = .next (s.setGrp x.party
       { g1 with tab := wakeUniform g1.live (insReady g1.tab (x.pc + 8) x.mask true), run := none }))) ∧
  (∀ g : Group, Reevaluates g g.reeval) ∧ InsertsLanes

/-- 16 R352, 18 R416, 14 R309: BRA and CALL send the active lanes to PC + 8 × OFF32 and the other lanes of the entry to the
next word; CALL first writes the address of the next word to its link pair in the active lanes; BRX and RET send each
active lane to its own target.
03 R48, R49: a word that does not transfer sends every executing lane of its entry to the next word (`retire`), and its run goes on at
it unless the word ends the run or is its 24th (03 R50); what the update does to every lane and to the DEF bits is stated in full.
17 R364, 03 R59: EXIT on a group without a faulted pair removes the active lanes from the live set, every mask and the
table, and the others go on; with a faulted pair it raises COMBFAULT; on a Ranger it stops the Ranger, on a wave it is a method fault. BRX and RET
raise ALIGN in the lanes whose target is misaligned, and the other lanes go on to theirs. -/
def Obligations.ControlWords : Prop :=
  ((∀ (g : Group) (pc : DWord) (mask : LaneMask) (df : Bool) (nxt : List (LaneMask × DWord)),
      Advances g (g.advance pc mask df nxt) pc mask df nxt) ∧
   (∀ (x : Issue) (g : Group) (s : State),
     let words := (x.g.run.map (fun r => r.words)).getD 0 + 1
     retire x g s = s.setGrp x.party { g.advance x.pc x.mask x.df [(x.mask, x.pc + 8)] with
       run := if x.last = true ∨ 24 ≤ words then none else x.g.run.map (fun r => { r with words := words, pc := x.pc + 8 }) })) ∧
  ((∀ (f : FmtB) (s : State) (x : Issue), s.issues (.bra f) = some x → ∃ t, exec (.bra f) s = .next t ∧
     Moves x s t [(x.active, x.pc + 8 * f.off.signExtend 64), (x.mask &&& ~~~x.active, x.pc + 8)]) ∧
   (∀ (f : FmtB) (s : State) (x : Issue), s.issues (.call f) = some x → x.g.v.wf = true → ∃ t g1, exec (.call f) s = .next t ∧
     VecOut x.g g1 (2 * f.fn.toNat) 2 x.active (fun _ => (x.pc + 8).toNat) 0 ∧
     Moves { x with g := g1 } s t [(x.active, x.pc + 8 * f.off.signExtend 64), (x.mask &&& ~~~x.active, x.pc + 8)]) ∧
   (∀ (f : FmtV) (s : State) (x : Issue) (i : Instr), i = .brx f ∨ i = .ret f → s.issues i = some x →
     let tgt := fun l => if f.fn.getLsbD 0 then x.g.spair f.sa.toNat else x.g.vpair f.sa.toNat l
     (∀ l ∈ x.lanes, (tgt l).toNat % 8 = 0) → ∃ t, exec i s = .next t ∧
     Moves x s t ((x.mask &&& ~~~x.active, x.pc + 8) :: x.lanes.map (fun l => (laneBit l, tgt l)))) ∧
   (∀ (f : FmtV) (s : State) (x : Issue) (i : Instr), i = .brx f ∨ i = .ret f → s.issues i = some x → f.fn.getLsbD 0 = true →
     (x.g.spair f.sa.toNat).toNat % 8 ≠ 0 → exec i s = .next ((s.setGrp x.party { x.g.advance x.pc (x.mask &&& ~~~x.active) x.df
         [(x.mask &&& ~~~x.active, x.pc + 8)] with run := none }).raise x.party ⟨0x05, 0, x.g.spair f.sa.toNat, 8⟩ x.active
           x.pc x.word)) ∧
   (∀ (f : FmtV) (s : State) (x : Issue) (i : Instr) (bad : LaneMask) (l0 : Nat), i = .brx f ∨ i = .ret f → s.issues i = some x →
     f.fn.getLsbD 0 = false → let tgt := fun l => x.g.vpair f.sa.toNat l
     let wrong := fun l => l ∈ x.lanes ∧ (tgt l).toNat % 8 ≠ 0
     (∀ l, l < 32 → (hasLane bad l = true ↔ wrong l)) → wrong l0 → (∀ l, wrong l → l0 ≤ l) →
     exec i s = .next ((s.setGrp x.party { x.g.advance x.pc (x.mask &&& ~~~bad) x.df ((x.mask &&& ~~~x.active, x.pc + 8) ::
         (x.lanes.filter (fun l => (tgt l).toNat % 8 = 0)).map (fun l => (laneBit l, tgt l))) with run := none }).raise x.party
       ⟨0x05, 0, tgt l0, 8⟩ bad x.pc x.word))) ∧
  ((∀ (f : FmtV) (s : State) (x : Issue) (h : Handle), s.issues (.exit f) = some x → x.party = .group h → x.g.marks = [] →
     exec (.exit f) s = .next (State.afterExit (s.setGrp (.group h)
       { (x.g.advance x.pc x.mask x.df [(x.mask &&& ~~~x.active, x.pc + 8)]).exitLanes x.active with run := none }) h) ∧
     ((x.g.advance x.pc x.mask x.df [(x.mask &&& ~~~x.active, x.pc + 8)]).exitLanes x.active).live = x.g.live &&& ~~~x.active ∧
     ∀ m ∈ ((x.g.advance x.pc x.mask x.df [(x.mask &&& ~~~x.active, x.pc + 8)]).exitLanes x.active).masks, m &&& x.active = 0) ∧
   (∀ (f : FmtV) (s : State) (x : Issue) (h : Handle) (m : FaultMark) (rest : List FaultMark), s.issues (.exit f) = some x → x.party = .group h →
     x.g.marks = m :: rest → exec (.exit f) s = .next
       (trapWord x ⟨0x0D, 0, m.obj, BitVec.ofNat 64 (m.cause.toNat + 256 * m.meth.toNat)⟩ x.active s)) ∧
   (∀ (f : FmtV) (s : State) (x : Issue) (n : Nat), s.issues (.exit f) = some x → x.party = .ranger n → n < s.rangers.length →
     ∃ t, exec (.exit f) s = .next t ∧ (nth Ranger.blank t.rangers n).running = false) ∧
   (∀ (f : FmtV) (s : State) (x : Issue) (u : UnitId) (k : Nat), s.issues (.exit f) = some x → x.party = .wave u k →
     ∃ t, exec (.exit f) s = .next t ∧ t.potluck.waves = s.potluck.waves.filter (fun w => !w.is u k)))

/-- What resumption makes of a group before its parked masks are re-evaluated (12 R275). -/
def Resumes (g q : Group) : Prop :=
  let moved := fun (e : Entry) (l : Nat) => ∃ r, g.trap = some r ∧ (r.cause = 0x17 ∨ r.cause = 0x16) ∧ e.pc = r.pc ∧ hasLane r.lanes l = true
  let at_ := fun (e : Entry) (l : Nat) (pc : DWord) => (moved e l ∧ pc = e.pc + 8) ∨ (¬ moved e l ∧ pc = e.pc)
  (∃ tab live masks, q = { g.dropWaits with tab := tab, live := live, masks := masks, trap := none, stopped := false, stopReq := false
                                            run := none, latch := none }) ∧
  (∀ l < 32, hasLane q.live l = true ↔ hasLane g.live l = true ∧ LaneIn g.tab (fun e => e.valid = true) l) ∧
  (∀ n, nth 0 q.masks n = nth 0 g.masks n &&& ~~~(g.live &&& ~~~q.live)) ∧
  (∀ e ∈ g.tab, ∀ l < 32, e.valid = true → hasLane e.mask l = true → hasLane g.live l = true →
    LaneIn q.tab (fun y => y.parked = e.parked ∧ at_ e l y.pc) l) ∧
  (∀ y ∈ q.tab, ∀ l < 32, hasLane y.mask l = true → hasLane g.live l = true ∧
    ∃ e ∈ g.tab, e.valid = true ∧ hasLane e.mask l = true ∧ e.parked = y.parked ∧ at_ e l y.pc)

/-- 19 R432, 16 R351, 12 R268: TRAP and BKPT stop the issuing group with the active lanes at the word, cause TRAPCODE with
its code in AUX or cause BKPT; the other lanes of the entry have gone on.
12 R275, 07 R166: TRAPRET on a Ranger resumes the stopped group it has selected, which acquires, and writes OK; the record clears, the
group may issue, the lanes of a TRAPCODE or BKPT record go on to the next word, a live lane in no valid entry exits, and the table is
the valid entries' with every parked mask re-evaluated. With no group selected it writes NOGROUP and does nothing, with one that is not
stopped RUNNING, with a fatal record FATAL, with a live lane in two valid entries BADTABLE. (That a group that has exited counts as none,
and which lanes' waits go, are log entries 45 and 84.) -/
def Obligations.TrapWords : Prop :=
  (∀ (f : FmtV) (s : State) (x : Issue) (h : Handle) (i : Instr) (c : Cause),
     (i = .trap f ∧ c = ⟨0x17, 0, 0, BitVec.ofNat 64 f.fn.toNat⟩) ∨ (i = .bkpt f ∧ c = ⟨0x16, 0, 0, 0⟩) →
     s.issues i = some x → x.party = .group h →
       exec i s = .next ((s.setGrp (.group h) { (x.g.advance x.pc (x.mask &&& ~~~x.active) x.df
         [(x.mask &&& ~~~x.active, x.pc + 8)]) with run := none }).trapGroup h c x.active x.pc x.word)) ∧
  ((∀ (f : FmtV) (s : State) (x : Issue) (r : Nat), s.issues (.trapret f) = some x → x.party = .ranger r →
     exec (.trapret f) s = .next ((retire x x.g s).trapReturn r)) ∧
   (∀ (s : State) (r : Nat), s.selected r = none → s.trapReturn r = s.setWstat r 1) ∧
   (∀ (s : State) (r : Nat) (h : Handle) (g : Group), s.selected r = some (h, g) →
     let sound := g.tab.Pairwise (fun a b => a.valid = true → b.valid = true → a.mask &&& b.mask &&& g.live = 0)
     let u := ((s.setWstat r 0).setGrp (.group h) g.resume).acquire (some h.core) .device
     s.grp? (.group h) = some g ∧ g.live ≠ 0 ∧ (g.stopped = false → s.trapReturn r = s.setWstat r 2) ∧
     (∀ t, g.stopped = true → g.trap = some t → t.fatal = true → s.trapReturn r = s.setWstat r 7) ∧
     (g.stopped = true → (∀ t, g.trap = some t → t.fatal = false) →
       (¬ sound → s.trapReturn r = s.setWstat r 6) ∧
       (sound → s.trapReturn r = if g.resume.live = g.live then u else u.afterExit h))) ∧
   (∀ g : Group, ∃ q : Group, g.resume = q.reeval ∧ Resumes g q) ∧
   (∀ (g : Group), g.resume.trap = none ∧ g.resume.stopped = false ∧ g.resume.stopReq = false ∧ g.resume.run = none ∧
     g.resume.waits = [] ∧ g.resume.v = g.v ∧ g.resume.sr = g.sr ∧ g.resume.preds = g.preds) ∧
   (∀ (g : Group) (r : TrapRec) (e : Entry), g.trap = some r → r.cause = 0x17 → g.tab = [e] → e.valid = true → e.pc = r.pc →
     e.st = .ready → e.mask = r.lanes → r.lanes = g.live → g.live ≠ 0 →
     g.resume.live = g.live ∧ g.resume.tab = [{ e with pc := r.pc + 8, pm := 0 }]))

/-- 02 R28, 02 R29, 18 R415, 19 R437: RGIVE returns registers to the block's pool and discards their contents, once no producer is pending on
them; RCLAIM at the head of the queue takes them at once when enough are free, zero and full, else it waits at its word with its claim last in the
queue, and the grant gives them to the group that waits; a count of 0 has no effect, and one past the bound raises REGRANGE; WID reads the
work identifier, one of its fields, the group index or the block's number. -/
def Obligations.PoolWords : Prop :=
  (∀ (f : FmtV) (s : State) (x : Issue) (b : Block), s.issues (.rgive f) = some x → s.blockOfParty x.party = some b →
    f.fn.toNat ≠ 0 → 8 * f.fn.toNat + 8 ≤ x.g.alloc →
    (∀ i, i < 8 * f.fn.toNat → x.g.vPending (x.g.alloc - 8 * f.fn.toNat + i) = false) →
    exec (.rgive f) s = .next ((retire x (x.g.giveRegs (8 * f.fn.toNat)) s).updBlock b.uid
      (fun b => { b with free := b.free + 8 * f.fn.toNat }))) ∧
  (∀ (f : FmtV) (s : State) (x : Issue) (b : Block), s.issues (.rclaim f) = some x → s.blockOfParty x.party = some b →
    f.fn.toNat ≠ 0 → x.g.alloc + 8 * f.fn.toNat ≤ 8 * (s.hdrOfBlock b).rmaxq → b.claims = [] → 8 * f.fn.toNat ≤ b.free →
    exec (.rclaim f) s = .next ((retire x (x.g.takeRegs (8 * f.fn.toNat))
      (s.updBlock b.uid (fun b => { b with claims := [⟨x.g.index, 8 * f.fn.toNat⟩] }))).updBlock b.uid
        (fun b => { b with free := b.free - 8 * f.fn.toNat, claims := b.claims.drop 1 }))) ∧
  (∀ (s : State) (blk : Nat) (b : Block) (c : Claim) (g : Group) (w : Wait), s.blockUid blk = some b → b.claims.head? = some c →
    b.groups.find? (fun g => g.index = c.gix && !g.stopped && !g.saving) = some g → g.waits.find? (fun w => w.kind = .rclaim c.n) = some w →
    c.n ≤ b.free → g.stepping = false →
    exec (.rclaimGrant blk) s = .next (((s.setGrp (.group ⟨b.core, g.part, g.slot⟩)
      ((g.takeRegs c.n).endWait w)).updBlock b.uid (fun b => b.grantClaim c.n)).stepStop (.group ⟨b.core, g.part, g.slot⟩) w)) ∧
  (∀ (f : FmtV) (s : State) (x : Issue) (i : Instr), i = .rgive f ∨ i = .rclaim f → s.issues i = some x → f.fn.toNat = 0 →
    exec i s = .next (retire x x.g s)) ∧
  (∀ (f : FmtV) (s : State) (x : Issue) (b : Block) (i : Instr), s.issues i = some x → s.blockOfParty x.party = some b → f.fn.toNat ≠ 0 →
    (i = .rgive f ∧ x.g.alloc < 8 * f.fn.toNat + 8) ∨ (i = .rclaim f ∧ 8 * (s.hdrOfBlock b).rmaxq < x.g.alloc + 8 * f.fn.toNat) →
    exec i s = .next (trapWord x ⟨0x02, 0, 0, BitVec.ofNat 64 (8 * f.fn.toNat + 2048)⟩ x.g.live s)) ∧
  (∀ (f : FmtV) (s : State) (x : Issue) (k : Nat), s.issues (.rgive f) = some x → 8 * f.fn.toNat + 8 ≤ x.g.alloc → k < 8 * f.fn.toNat →
    x.g.vPending (x.g.alloc - 8 * f.fn.toNat + k) = true →
    exec (.rgive f) s = .next { (s.setGrp x.party { x.g with run := none }) with cur := none }) ∧
  (∀ (f : FmtV) (s : State) (x : Issue) (b : Block), s.issues (.rclaim f) = some x → s.blockOfParty x.party = some b →
    f.fn.toNat ≠ 0 → x.g.alloc + 8 * f.fn.toNat ≤ 8 * (s.hdrOfBlock b).rmaxq → (∀ c ∈ b.claims, c.gix ≠ x.g.index) →
    b.claims ≠ [] ∨ b.free < 8 * f.fn.toNat →
    let u := s.updBlock b.uid (fun b' => { b' with claims := b.claims ++ [⟨x.g.index, 8 * f.fn.toNat⟩] })
    exec (.rclaim f) s = .next { (({ u with fresh := u.fresh + 1 } : State).setGrp x.party { x.g with
      waits := x.g.waits ++ [⟨x.pc, x.mask, x.active, s.fresh, .rclaim (8 * f.fn.toNat), x.word⟩], run := none }) with cur := none }) ∧
  (∀ (g : Group) (n r l : Nat), l < 32 →
    (g.giveRegs n).alloc = g.alloc - n ∧ ((g.giveRegs n).vget r l = if r < g.alloc - n then g.vget r l else 0) ∧
    (g.takeRegs n).alloc = g.alloc + n ∧ (g.takeRegs n).vget r l = (if g.alloc ≤ r ∧ r < g.alloc + n then 0 else g.vget r l) ∧
    (g.alloc ≤ r → r < g.alloc + n → r ∉ (g.takeRegs n).vEmpty) ∧
    (r < g.alloc → (r ∈ (g.takeRegs n).vEmpty ↔ r ∈ g.vEmpty)) ∧ (r < g.alloc - n → (r ∈ (g.giveRegs n).vEmpty ↔ r ∈ g.vEmpty))) ∧
  (∀ (f : FmtV) (h : Handle), RegWord (.wid f) (fun x s g' => x.party = .group h →
    (∀ b, s.blockOf h = some b → (s.hdrOfBlock b).ext.length = 6) → VecOut x.g g' f.dst.toNat (if f.fn.toNat = 6 then 2 else 1) x.active (fun l =>
      let hd := ((s.blockOf h).map (fun b => s.hdrOfBlock b)).getD default
      let wid := nth 0 x.g.wids l
      let f_ := fun n => widField hd.widths n wid
      let e_ := fun n => nth 0 hd.ext n
      if f.fn.toNat < 6 then f_ f.fn.toNat else if f.fn.toNat = 6 then wid.toNat
      else if f.fn.toNat = 7 then
        (if hd.c = 1 then f_ 1 else if hd.c = 2 then f_ 1 + e_ 1 * f_ 2 else widIndex hd.widths 1 hd.extB wid)
      else widIndex hd.widths (hd.c + 1) hd.extK wid) 0))

/-- 00 R4, 05 R460, 07 R149: a write of n bytes within one 16-byte sector is read back little-endian at the home, leaves every
other byte as it was and keeps the memory canonical.
05 R108, 07 R147, 19 R425, 18 R395: what a party stores at an address of HBM or the capacity tier, a load of the same bytes
by that party then returns, whatever the page's cache policy, and whether or not its L1 holds the sector.
05 R108, 18 R395, 19 R425: neither a store nor a load changes any other byte at a home, but for bytes that the party's own L1 held
dirty, which it may push to the home: the byte there is then the one that the L1 held. -/
def Obligations.StoreThenLoad : Prop :=
  (∀ (s : State) (bypass : Bool) (pa n x : Nat), Memory.wf s.mem = true → pa % 16 + n ≤ 16 →
     Memory.wf (s.homeWrite bypass pa n x).mem = true ∧
     ∀ a, (s.homeWrite bypass pa n x).byte a =
       if pa ≤ a ∧ a < pa + n then BitVec.ofNat 8 (x >>> (8 * (a - pa))) else s.byte a) ∧
  (∀ (s : State) (p : Party) (t : Trans) (k x : Nat) (home : Bool), Memory.wf s.mem = true → k ≤ 4 → t.pa % 2 ^ k = 0 →
     x < 2 ^ (8 * 2 ^ k) → ((∃ n, region t.pa = .hbm n) ∨ region t.pa = .ct) → s.poisoned t.pa = false →
     ((s.storeBytes p t (2 ^ k) x home).loadBytes p t (2 ^ k)).2 = some x) ∧
  (∀ (s : State) (p : Party) (t : Trans) (k x : Nat) (home : Bool), Memory.wf s.mem = true → k ≤ 4 → t.pa % 2 ^ k = 0 →
     ((∃ n, region t.pa = .hbm n) ∨ region t.pa = .ct) →
     (∀ a, ¬ (t.pa ≤ a ∧ a < t.pa + 2 ^ k) → (s.storeBytes p t (2 ^ k) x home).byte a = s.byte a ∨
       s.ownDirty p a ((s.storeBytes p t (2 ^ k) x home).byte a)) ∧
     (∀ a, (s.loadBytes p t (2 ^ k)).1.byte a = s.byte a ∨ s.ownDirty p a ((s.loadBytes p t (2 ^ k)).1.byte a)))

/-- 18 R395, 03 R56, 14 R307: LD with every lane resolved and answered leaves its destination empty and pending with the data read,
extended as FN says, in the lanes that were answered, each access under the cache policy that CH gives it; it changes no other register.
18 R395, 05 R105: LDS reads the bytes of its block's scratchpad (or of another block of the cluster set). -/
def Obligations.LoadWords : Prop :=
  (∀ (f : FmtM) (s s1 s3 : State) (x : Issue) (accs0 : List Acc) (vals : List (Nat × Nat)), s.issues (.ld f) = some x →
     let n := szBytes (fnSz f.fn)
     let accs := accessCh f.fn accs0
     let sc := scopeOf (fnScope f.fn)
     let rmt := decide (fnOrd f.fn = 1) && fnRmt f.fn
     (rmt && rmtBad sc) = false →
     resolveAll x needRd (laneAddrs f.fn f.av.toNat (f.off.signExtend 64) n false x s) s = (s1, accs0, []) →
     (fnOrd f.fn = 1 → peerScope sc accs = none) → (∀ a ∈ accs, s1.mustWait x.party a.t n true = false) →
     readAll x n accs (if fnOrd f.fn = 1 then acquireAt x rmt sc s1 else s1) = (s3, vals, []) →
     s3.bkptOf x.party 1 n (accs.map (fun a => (a.lane, a.va))) = none →
     ∃ p : Producer, exec (.ld f) s = .next (retire x { x.g.markEmpty p.vregs p.sregs with pend := x.g.pend ++ [p] }
         { s3 with fresh := s3.fresh + 1 }) ∧
       p.kind = .load ∧ p.fills = true ∧ p.sregs = [] ∧ p.swrites = [] ∧
       p.vregs = (List.range (szRegs (fnSz f.fn))).map (fun i => f.dv.toNat + i) ∧
       p.vmask = (List.range (szRegs (fnSz f.fn))).map (fun i => (f.dv.toNat + i, maskOf (vals.map (fun v => v.1)))) ∧
       (accs ≠ [] → p.site = some ⟨x.pc, x.word, x.mask, accs.map (fun a => a.va)⟩) ∧
       p.vwrites = Sparse.setAll [] ((vals.map (fun lv => (List.range (szRegs (fnSz f.fn))).map (fun i =>
         (32 * (f.dv.toNat + i) + lv.1, BitVec.ofNat 32 (loadExt f.fn n lv.2 >>> (32 * i)))))).flatten)) ∧
  (∀ (f : FmtM) (s : State) (x : Issue) (b : Block) (accs : List (Nat × Block × Nat × DWord)), s.issues (.lds f) = some x →
     s.blockOfParty x.party = some b →
     let n := szBytes (fnSz f.fn)
     let sc := scopeOf (fnScope f.fn)
     let rmt := decide (fnOrd f.fn = 1) && fnRmt f.fn
     (rmt && rmtBad sc) = false →
     let t := if fnOrd f.fn = 1 then acquireAt x rmt sc s else s
     splitLanes ((scratchAddrs f.fn f.av.toNat (f.off.signExtend 64) n x).map (scratchLane s b n)) = (accs, []) →
     (∀ a ∈ accs, s.scratchOwned a.2.1.uid a.2.2.1 = false ∧ a.2.1.scPoisoned a.2.2.1 n = false) →
     ∃ p : Producer, exec (.lds f) s = .next (retire x { x.g.markEmpty p.vregs p.sregs with pend := x.g.pend ++ [p] }
         { t with fresh := t.fresh + 1 }) ∧ p.kind = .load ∧ p.fills = true ∧ p.sregs = [] ∧ p.swrites = [] ∧
       p.vregs = (List.range (szRegs (fnSz f.fn))).map (fun i => f.dv.toNat + i) ∧
       p.vmask = (List.range (szRegs (fnSz f.fn))).map (fun i => (f.dv.toNat + i, maskOf (accs.map (fun a => a.1)))) ∧
       p.vwrites = Sparse.setAll [] ((accs.map (fun a => (List.range (szRegs (fnSz f.fn))).map (fun i =>
         (32 * (f.dv.toNat + i) + a.1, BitVec.ofNat 32 (loadExt f.fn n (a.2.1.scRead a.2.2.1 n) >>> (32 * i)))))).flatten))

/-- 19 R425, 07 R149: ST writes the low bytes of its data registers at every lane's address in lane order, after the release
that its order or an earlier fence asks for; no register changes but the fences it uses up.
19 R425, 05 R105: STS writes scratchpad bytes in lane order; memory does not change, nor any register.
05 R125, 16 R359: CSTORE appends, at the vector's count, one word with its lanes and then one word per active lane, and
advances the count by 1 + the number of lanes; the header's capacity is not written. -/
def Obligations.StoreWords : Prop :=
  (∀ (f : FmtM) (s s1 : State) (x : Issue) (accs0 : List Acc), s.issues (.st f) = some x →
     let n := szBytes (fnSz f.fn)
     let accs := accessCh f.fn accs0
     let sc := scopeOf (fnScope f.fn)
     let rel := decide (fnOrd f.fn = 2)
     resolveAll x needWr (laneAddrs f.fn f.av.toNat (f.off.signExtend 64) n true x s) s = (s1, accs0, []) →
     (rel = true → peerScope sc accs = none) → (∀ a ∈ accs, s1.mustWait x.party a.t n false = false) →
     let t := accs.foldl (fun u a => u.storeBytes x.party a.t n
       (dataOf x.g f.dv.toNat (szRegs (fnSz f.fn)) a.lane % 2 ^ (8 * n)) (relWide x rel sc)) (relBefore x rel sc s1)
     t.bkptOf x.party 2 n (accs.map (fun a => (a.lane, a.va))) = none →
     exec (.st f) s = .next (retire x (useFence x x.g) t) ∧
     (Memory.wf s.mem = true → (∀ a ∈ accs, a.t.pa % n = 0 ∧ ((∃ k, region a.t.pa = .hbm k) ∨ region a.t.pa = .ct)) →
       ∀ a, (∀ c ∈ accs, ¬ (c.t.pa ≤ a ∧ a < c.t.pa + n)) →
         (∀ e ∈ (relBefore x rel sc s1).l1, partyCore x.party = some e.core → e.sector = a / 16 → e.dirty.getLsbD (a % 16) = false) →
         t.byte a = (relBefore x rel sc s1).byte a)) ∧
  ((∀ (f : FmtM) (s : State) (x : Issue) (b : Block) (accs : List (Nat × Block × Nat × DWord)), s.issues (.sts f) = some x →
     s.blockOfParty x.party = some b →
     let n := szBytes (fnSz f.fn)
     splitLanes ((scratchAddrs f.fn f.av.toNat (f.off.signExtend 64) n x).map (scratchLane s b n)) = (accs, []) →
     (∀ a ∈ accs, s.scratchOwned a.2.1.uid a.2.2.1 = false) →
     let u := relBefore x (decide (fnOrd f.fn = 2)) (scopeOf (fnScope f.fn)) s
     let t := accs.foldl (fun u a => u.updBlock a.2.1.uid (fun y =>
       y.scWrite a.2.2.1 n (dataOf x.g f.dv.toNat (szRegs (fnSz f.fn)) a.1 % 2 ^ (8 * n)))) u
     exec (.sts f) s = .next (retire x (useFence x x.g) t) ∧ t.mem = u.mem ∧ t.l1 = u.l1) ∧
   (∀ (b : Block) (off n v : Nat), Sparse.wf b.scratch = true →
     ∀ a, Sparse.get (b.scWrite off n v).scratch a =
       if off ≤ a ∧ a < off + n then BitVec.ofNat 8 (v >>> (8 * (a - off))) else Sparse.get b.scratch a)) ∧
  (∀ (f : FmtV) (s s1 s2 s3 s4 : State) (x : Issue) (t : Trans) (h : Nat) (accs : List Acc), s.issues (.cstore f) = some x →
     let va := x.g.spair f.sa.toNat
     let n := x.lanes.length
     let ws := recordWords x f.sb.toNat va (h % 2 ^ 24)
     va.toNat % 8 = 0 → s.resolve x.party va needRw = (s1, .ok t) → s1.waveWindow x.party t.pa = false →
     s1.mustWait x.party t 8 false = false → (∀ tgt, region t.pa ≠ .peer tgt) → (∀ o, region t.pa ≠ .mmio o) →
     (s1.dropOwn x.party t.pa).loadBytes x.party { t with leaf := t.leaf ||| 0x400#64 } 8 = (s2, some h) →
     resolvePages x.party needWr (pagesOf (va.toNat + 8) (4 * (h / 2 ^ 32 % 2 ^ 24))) s2 = (s3, none) →
     h % 2 ^ 24 + 1 + n ≤ h / 2 ^ 32 % 2 ^ 24 →
     resolveAll x needWr (ws.map (fun w => (w.1, .ok w.2.1))) s3 = (s4, accs, []) →
     (∀ a ∈ accs, s4.mustWait x.party a.t 4 false = false) →
     let u := (relBefore x false .group s4).storeBytes x.party t 8 (h + 1 + n) true
     let w := (accs.zip ws).foldl (fun u aw => u.storeBytes x.party aw.1.t 4 aw.2.2.2 (relWide x false .group)) u
     w.bkptOf x.party 2 4 ((lowLane x.active, va) :: (lowLane x.active, va + 4) :: ws.map (fun w => (w.1, w.2.1))) = none →
     exec (.cstore f) s = .next (retire x (useFence x x.g) w))

/-- 16 R342, 05 R112: an atomic at a home returns the old value and leaves the operation's new value there, and no other byte
at a home changes but dirty bytes of its sector in the party's own L1.
16 R344, 09 R207: a floating-point ATOM of a deterministic launch on memory-side pages stages its lanes' operations, or waits for room.
That memory under the log stays as it was is the model's choice (log entry 71).
16 R342, 16 R343: every other ATOM, and ATOMS, perform every lane's operation in lane order, each ATOMS at the scratchpad bytes of its lane; under
RET the old values come back by a pending producer, in 32-bit parts, lane by lane. (That ATOMS matches breakpoints by its scratchpad address is log entry 79.) -/
def Obligations.AtomicWords : Prop :=
  (∀ (s : State) (p : Party) (t : Trans) (aop d : Nat), Memory.wf s.mem = true → aop < 0x1A → t.pa % atomBytes aop = 0 →
     ((∃ n, region t.pa = .hbm n) ∨ region t.pa = .ct) → s.poisoned t.pa = false → d < 2 ^ 128 →
     let old := (s.dropOwn p t.pa).homeRead t.pa (atomBytes aop)
     let d' := if atomBytes aop = 4 ∧ aop ≠ 0x12 then d % 2 ^ 32 else d
     (s.atomBytes p t aop d).2 = some old ∧
     (s.atomBytes p t aop d).1.homeRead t.pa (atomBytes aop) = atomNew aop old d' % 2 ^ (8 * atomBytes aop) ∧
     ∀ a, ¬ (t.pa ≤ a ∧ a < t.pa + atomBytes aop) → (s.atomBytes p t aop d).1.byte a = s.byte a ∨
       s.ownDirty p a ((s.atomBytes p t aop d).1.byte a)) ∧
  ((∀ (f : FmtM) (s s1 : State) (x : Issue) (b : Block) (accs : List Acc), s.issues (.atom f) = some x → s.blockOfParty x.party = some b →
     s1.blockOfParty x.party = some b → s.detOf x.party = true → atomFp (atomOp f) = true → fnSk f.fn = false →
     (fnRmt f.fn && rmtBad (scopeOf (fnScope f.fn))) = false →
     resolveAll x needRw (laneAddrs f.fn f.av.toNat (atomOff f) (atomBytes (atomOp f)) true x s) s = (s1, accs, []) →
     (fnOrd f.fn ≠ 0 → peerScope (scopeOf (fnScope f.fn)) accs = none) → (∀ a ∈ accs, leafMs a.t.leaf = true) →
     let ops := accs.map (fun a => (a.lane, StagedOp.atomic a.t.pa a.va (atomOp f) false (BitVec.ofNat 64 (dataOf x.g f.dv.toNat 1 a.lane))))
     let r := stageOps x ops s1
     (accs.length ≤ s1.stageRoom x.g x.ctx → r.2.bkptOf x.party 3 4 (accs.map (fun a => (a.lane, a.va))) = none →
       exec (.atom f) s = .next (retire x r.1 r.2) ∧ r.2.mem = s1.mem ∧
       (∀ l, s1.launches.find? (fun y => y.id = b.launch) = some l → ∃ l', r.2.launches.find? (fun y => y.id = b.launch) = some l' ∧
         l'.staged.map (fun e => e.op) = l.staged.map (fun e => e.op) ++ ops.map (fun o => o.2))) ∧
     (s1.stageRoom x.g x.ctx < accs.length → exec (.atom f) s = .next
       { (({ s1 with fresh := s1.fresh + 1 } : State).setGrp x.party { x.g with
         waits := x.g.waits ++ [⟨x.pc, x.mask, x.active, s1.fresh, .detlog, x.word⟩], run := none }) with cur := none })) ∧
   (∀ (f : FmtM) (s s1 s3 : State) (x : Issue) (accs : List Acc) (olds : List (Nat × Nat)), s.issues (.atom f) = some x →
     let n := atomBytes (atomOp f)
     let sc := scopeOf (fnScope f.fn)
     (s.detOf x.party && atomFp (atomOp f)) = false → (fnRmt f.fn && rmtBad sc) = false →
     resolveAll x needRw (laneAddrs f.fn f.av.toNat (atomOff f) n true x s) s = (s1, accs, []) →
     (fnOrd f.fn ≠ 0 → peerScope sc accs = none) → (∀ a ∈ accs, s1.mustWait x.party a.t n false = false) →
     let s2 := relBefore x (ordRel (fnOrd f.fn)) sc s1
     atomAll f x accs (if ordAcq (fnOrd f.fn) && fnRmt f.fn then s2.promote (partyCore x.party) sc else s2) = (s3, olds, []) →
     let s4 := if ordAcq (fnOrd f.fn) then s3.acquire (partyCore x.party) sc else s3
     s4.bkptOf x.party 3 n (accs.map (fun a => (a.lane, a.va))) = none →
     (fnSk f.fn = false → exec (.atom f) s = .next (retire x (useFence x x.g) s4)) ∧
     (fnSk f.fn = true → ∃ p : Producer, exec (.atom f) s = .next (retire x ((useFence x x.g).issue p) { s4 with fresh := s4.fresh + 1 }) ∧
       p.kind = .atomic ∧ p.fills = true ∧ p.vregs = (List.range (atomRegs (atomOp f))).map (fun i => f.dv.toNat + i) ∧
       p.vmask = (List.range (n / 4)).map (fun i => (f.dv.toNat + i, maskOf (olds.map (fun o => o.1)))) ∧ p.sregs = [] ∧ p.swrites = [] ∧
       p.vwrites = Sparse.setAll [] ((olds.map (fun lv => (List.range (n / 4)).map (fun i =>
         (32 * (f.dv.toNat + i) + lv.1, BitVec.ofNat 32 (lv.2 >>> (32 * i)))))).flatten))) ∧
   (∀ (f : FmtM) (s s3 : State) (x : Issue) (b : Block) (accs : List (Nat × Block × Nat × DWord)) (olds : List (Nat × Nat)),
     s.issues (.atoms f) = some x → s.blockOfParty x.party = some b →
     (s.detOf x.party && atomFp (atomOp f)) = false →
     let n := atomBytes (atomOp f)
     let sc := scopeOf (fnScope f.fn)
     (fnRmt f.fn && rmtBad sc) = false →
     splitLanes ((scratchAddrs f.fn f.av.toNat (atomOff f) n x).map (scratchLane s b n)) = (accs, []) →
     (∀ a ∈ accs, s.scratchOwned a.2.1.uid a.2.2.1 = false) →
     let s2 := relBefore x (ordRel (fnOrd f.fn)) sc s
     accs.foldl (scratchAtom f x n) (if ordAcq (fnOrd f.fn) && fnRmt f.fn then s2.promote (partyCore x.party) sc else s2, [], [])
       = (s3, olds, []) →
     let s4 := if ordAcq (fnOrd f.fn) then s3.acquire (partyCore x.party) sc else s3
     s4.bkptOf x.party 3 n (accs.map (fun a => (a.1, a.2.2.2))) = none →
     (fnSk f.fn = false → exec (.atoms f) s = .next (retire x (useFence x x.g) s4)) ∧
     (fnSk f.fn = true → ∃ p : Producer, exec (.atoms f) s = .next (retire x ((useFence x x.g).issue p) { s4 with fresh := s4.fresh + 1 }) ∧
       p.kind = .atomic ∧ p.fills = true ∧ p.vregs = (List.range (atomRegs (atomOp f))).map (fun i => f.dv.toNat + i) ∧
       p.vmask = (List.range (n / 4)).map (fun i => (f.dv.toNat + i, maskOf (olds.map (fun o => o.1)))) ∧ p.sregs = [] ∧ p.swrites = [] ∧
       p.vwrites = Sparse.setAll [] ((olds.map (fun lv => (List.range (n / 4)).map (fun i =>
         (32 * (f.dv.toNat + i) + lv.1, BitVec.ofNat 32 (lv.2 >>> (32 * i)))))).flatten))) ∧
   (∀ (f : FmtM) (s s1 : State) (x : Issue) (a : Acc) (rest : List Acc) (v : Nat),
     s.atomBytes x.party a.t (atomOp f) (dataOf x.g f.dv.toNat (atomRegs (atomOp f)) a.lane) = (s1, some v) →
     atomAll f x (a :: rest) s = ((atomAll f x rest s1).1, (a.lane, v) :: (atomAll f x rest s1).2.1, (atomAll f x rest s1).2.2) ∧
     atomAll f x [] s = (s, [], [])) ∧
   (∀ (f : FmtM) (s : State) (x : Issue) (n : Nat) (y : Block) (l off : Nat) (va : DWord), s.blockUid y.uid = some y →
     y.scPoisoned off n = false → n = atomBytes (atomOp f) →
     scratchAtom f x n (s, [], []) (l, y, off, va) = (s.updBlock y.uid (fun y => y.scWrite off n
       (atomNew (atomOp f) (y.scRead off n) (dataOf x.g f.dv.toNat (atomRegs (atomOp f)) l))), [(l, y.scRead off n)], [])))

/-- 17 R370, 07 R152, 18 R414, 17 R390: FENCE acquires now and makes the next store of its lanes a release; PREF fills caches, changes
no table and no byte at a home but for dirty ones that it pushes out of its own L1, and never traps; what it may leave beside them is
the log of a violation, for an address in a register window (13 R300); ICINV releases, leaves its destination pending and starts an invalidation.
17 R390, 03 R70: when an invalidation ends, every copy of the range that a core's instruction cache or a loop buffer holds
is gone, and the destination register of the word that asked becomes full. (That a FENCE flushes and invalidates at its own word, and that its
release stays with its lanes for their next store, is the model's reading, log entry 21.) -/
def Obligations.FenceWords : Prop :=
  ((∀ (f : FmtV) (s : State) (x : Issue), s.issues (.fence f) = some x →
     let sc := scopeOf (fnScope f.fn)
     let s1 := if ordRel (fnOrd f.fn) then s.release (partyCore x.party) sc else s
     let s2 := if ordAcq (fnOrd f.fn) then s1.acquire (partyCore x.party) sc else s1
     exec (.fence f) s = .next (retire x
       (if ordRel (fnOrd f.fn) then { x.g with fenceRel := x.g.fenceRel ++ [(x.active, sc)] } else x.g) s2)) ∧
   (∀ (f : FmtM) (s : State) (x : Issue), s.issues (.pref f) = some x → readiness x.g (specPref f).ops ≠ .wait →
     ∃ u : State, exec (.pref f) s = .next (retire x x.g u) ∧
       u = { s with l1 := u.l1, rdc := u.rdc, mem := u.mem, old := u.old, poison := u.poison, l2strm := u.l2strm, fresh := u.fresh
                    plat := { s.plat with logs := u.plat.logs, pba := u.plat.pba, out := u.plat.out } } ∧
       ∀ a, u.byte a = s.byte a ∨ s.ownDirty x.party a (u.byte a)) ∧
   (∀ (f : FmtV) (s : State) (x : Issue), s.issues (.icinv f) = some x → (x.g.spair f.sa.toNat).toNat < 2 ^ 57 →
     ∃ (op : IcinvOp) (p : Producer) (u : State), exec (.icinv f) s = .next (retire x (x.g.issue p)
         { u with icinvs := u.icinvs ++ [op], fresh := u.fresh + 1 }) ∧ u = s.release (partyCore x.party) .device ∧
       p.sregs = [f.dst.toNat] ∧ p.vregs = [] ∧ op.ctx = x.ctx ∧ op.dst = f.dst.toNat ∧
       (x.g.sget f.sb.toNat ≠ 0 → op.lo ≤ (x.g.spair f.sa.toNat).toNat ∧
         (x.g.spair f.sa.toNat).toNat + (x.g.sget f.sb.toNat).toNat ≤ op.hi))) ∧
  (∀ (s : State) (id : Nat) (o : IcinvOp), s.icinvs.find? (fun o => o.id = id) = some o →
     (∀ y ∈ s.icinvs, y.party = o.party → y.blk = o.blk → o.id ≤ y.id) → ∃ t, exec (.icinvComplete id) s = .next t ∧
     (∀ c ∈ t.code, c.ctx = o.ctx → ¬ (o.lo ≤ c.va.toNat ∧ c.va.toNat < o.hi)) ∧
     (∀ l ∈ t.loops, l.ctx = o.ctx → ∀ i, i < l.words.length →
       ¬ (o.lo ≤ (l.start + BitVec.ofNat 64 (8 * i)).toNat ∧ (l.start + BitVec.ofNat 64 (8 * i)).toNat < o.hi)) ∧
     (∀ y ∈ t.icinvs, y.id ≠ id) ∧ t.mem = s.mem ∧
     (∀ (h : Handle) (b : Block) (g : Group) (q : Producer), o.party = .group h → s.blockOf h = some b → b.uid = o.blk →
       s.grp? o.party = some g → g.pend.find? (fun q => q.id = id && q.kind = .icinv) = some q → q.fills = true →
       ∀ g', t.grp? o.party = some g' → ∀ n ∈ q.sregs, n ∉ g'.sEmpty))

/-- 05 R118: an arrival at a sound barrier adds its count, and the arrival that completes the expected count advances the
phase and clears the arrived count; nothing else at a home changes; at a barrier that expects none, whose fourth word is not zero, or that the
count would overfill, an arrival changes nothing and is a BARFAULT.
16 R341, 19 R435, 05 R120: ARRIVE performs its arrival as a release; WAITB goes on as an acquire when the phase differs
and waits at its word when it does not; a wake or a poll that sees another phase completes the wait. (That an arrival of count 0 at a barrier whose
ARRIVED already is EXPECTED advances the phase too is the model's choice, log entry 79.) -/
def Obligations.BarrierWords : Prop :=
  (∀ (s : State) (die ctx : Nat) (t : Trans) (n : Nat), Memory.wf s.mem = true → t.pa % 16 = 0 →
     ((∃ k, region t.pa = .hbm k) ∨ region t.pa = .ct) → s.poisoned t.pa = false →
     let ex := s.homeRead t.pa 4
     let ar := s.homeRead (t.pa + 4) 4
     ex ≠ 0 → s.homeRead (t.pa + 12) 4 = 0 → ar + n ≤ ex →
     ∃ u, s.arrive die ctx t n = .done u ∧
       u.homeRead t.pa 4 = ex ∧
       u.homeRead (t.pa + 4) 4 = (if ar + n = ex then 0 else ar + n) ∧
       u.homeRead (t.pa + 8) 4 = (if ar + n = ex then (s.homeRead (t.pa + 8) 4 + 1) % 2 ^ 32 else s.homeRead (t.pa + 8) 4) ∧
       ∀ a, ¬ (t.pa + 4 ≤ a ∧ a < t.pa + 12) → u.byte a = s.byte a) ∧
  (∀ (s : State) (die ctx : Nat) (t : Trans) (n : Nat), ((∃ k, region t.pa = .hbm k) ∨ region t.pa = .ct) → s.poisoned t.pa = false →
     s.homeRead t.pa 4 = 0 ∨ s.homeRead (t.pa + 12) 4 ≠ 0 ∨ s.homeRead t.pa 4 < s.homeRead (t.pa + 4) 4 + n →
     s.arrive die ctx t n = .barfault s) ∧
  ((∀ (f : FmtV) (s s1 u : State) (x : Issue) (t : Trans), s.issues (.arrive f) = some x →
     let va := x.g.spair f.sa.toNat
     let n := if f.fn.getLsbD 6 then f.fn.toNat / 128 % 16 else (x.g.sget f.sb.toNat).toNat
     let sc := scopeOf (fnScope f.fn)
     va.toNat % 16 = 0 → s.resolve x.party va needRw = (s1, .ok t) → s1.waveWindow x.party t.pa = false →
     ((Acc.mk 0 va t).peer && sc != .system) = false → s1.mustWait x.party t 16 false = false →
     ((relBefore x true sc s1).dropOwn x.party t.pa).arrive (partyDie x.party) x.ctx t n = .done u →
     exec (.arrive f) s = .next (retire x (useFence x x.g) u)) ∧
   (∀ (f : FmtV) (s s1 s2 : State) (x : Issue) (t : Trans) (v : Nat), s.issues (.waitb f) = some x →
     let va := x.g.spair f.sa.toNat
     let sc := scopeOf (fnScope f.fn)
     va.toNat % 16 = 0 → s.resolve x.party va needRd = (s1, .ok t) →
     ((fnRmt f.fn && rmtBad sc) || ((Acc.mk 0 va t).peer && sc != .system)) = false → s1.mustWait x.party t 16 false = false →
     s1.phaseAt x.party t = (s2, some v) →
     (v ≠ (x.g.sget f.sb.toNat).toNat → exec (.waitb f) s = .next (retire x x.g (acquireAt x (fnRmt f.fn) sc s2))) ∧
     (v = (x.g.sget f.sb.toNat).toNat → exec (.waitb f) s = .next
       { (({ s2 with fresh := s2.fresh + 1 } : State).setGrp x.party { x.g with
         waits := x.g.waits ++ [⟨x.pc, x.mask, x.active, s2.fresh, .waitb va (x.g.sget f.sb.toNat) sc (fnRmt f.fn), x.word⟩]
         run := none }) with cur := none })) ∧
   (∀ (s s0 s1 : State) (p : Party) (pc : DWord) (i : Instr) (g : Group) (w : Wait) (va : DWord) (t : Trans) (v : Nat) (ph : Word)
       (sc : Scope) (rmt : Bool), i = .waitbWake p pc ∨ i = .waitbPoll p pc → s.grp? p = some g → g.stopped = false → g.saving = false →
     g.waits.find? (fun w => w.pc = pc && (match w.kind with
       | .waitb _ _ _ _ => true
       | _ => false)) = some w → w.kind = .waitb va ph sc rmt → s.resolve p va needRd = (s0, .ok t) →
     s0.mustWait p t 16 false = false → s0.phaseAt p t = (s1, some v) → v ≠ ph.toNat →
     exec i s = .next (State.stepStop (State.setGrp (State.acquire (if rmt then s1.promote (partyCore p) sc else s1)
       (partyCore p) sc) p (g.endWait w)) p w)))

/-- 05 R115, 19 R420: with no earlier operation waiting on the buffer, SBRES takes the free slot at the producer index and SBTAKE the
filled slot at the consumer index; each writes the slot word to its register, which is full, and advances its index, toggling the
phase at the wrap; where there is no such slot, or an earlier operation waits, the word waits and its destination is empty. SBFILL
and SBFREE change the slot they name.
05 R115, 05 R116, 19 R421: the oldest waiting SBRES or SBTAKE of a buffer, no engine's reservation being older, is granted when its
slot is there: the slot word is written, its register is full, and its lanes go on.
05 R113: a configuration write to an idle slot buffer resets it: every slot free, both indices and phases zero; its count
0 takes it out of use and its waiting takers raise SBFAULT. -/
def Obligations.SlotWords : Prop :=
  ((∀ (f : FmtV) (s : State) (x : Issue) (b : Block) (i : Instr) (take : Bool), (i = .sbres f ∧ take = false) ∨ (i = .sbtake f ∧ take = true) →
     s.issues i = some x → s.blockOfParty x.party = some b →
     let sb := b.sbuf f.sa.toNat
     let ix := if take then sb.cix else sb.pix
     let ph := if take then sb.cph else sb.pph
     let last := decide (ix + 1 = sb.slots.length)
     let nx := if last then 0 else ix + 1
     let np := if last then !ph else ph
     let slots := setNth sb.slots ix (if take then .taken else .reserved)
     let mine := fun (k : WaitKind) => match k with
       | .sbres m _ => decide (m = f.sa.toNat ∧ take = false)
       | .sbtake m _ => decide (m = f.sa.toNat ∧ take = true)
       | _ => false
     (sb.slots[ix]? = some (if take then SlotSt.filled else SlotSt.free) → (∀ g ∈ b.groups, ∀ w ∈ g.waits, mine w.kind = false) →
       (take = false → s.engineAsks b.uid f.sa.toNat = []) →
       exec i s = .next ((retire x ((x.g.sset f.dst.toNat (BitVec.ofNat 32
           ((256 * (sb.cfg.toNat % 4096) + ix * (64 * (sb.cfg.toNat / 4096 % 16384))) % 2 ^ 20 + 2 ^ 20 * ix + if ph then 2 ^ 26 else 0))).markFull
             [] [f.dst.toNat]) s).updBlock b.uid (fun y => y.setSbuf f.sa.toNat (if take then { sb with slots := slots, cix := nx, cph := np }
           else { sb with slots := slots, pix := nx, pph := np })))) ∧
     (sb.slots ≠ [] → (sb.slots[ix]? ≠ some (if take then SlotSt.filled else SlotSt.free) ∨
         ∃ g ∈ b.groups, g.stopped = false ∧ g.saving = false ∧ ∃ w ∈ g.waits, mine w.kind = true ∧ w.stamp < s.fresh) →
       exec i s = .next { (({ s with fresh := s.fresh + 1 } : State).setGrp x.party
         { x.g.markEmpty [] [f.dst.toNat] with
           waits := x.g.waits ++ [⟨x.pc, x.mask, x.active, s.fresh, if take then .sbtake f.sa.toNat f.dst.toNat else .sbres f.sa.toNat f.dst.toNat, x.word⟩]
           run := none }) with cur := none })) ∧
   (∀ (f : FmtV) (s : State) (x : Issue) (b : Block) (i : Instr) (fill : Bool), (i = .sbfill f ∧ fill = true) ∨ (i = .sbfree f ∧ fill = false) →
     s.issues i = some x → s.blockOfParty x.party = some b →
     let sb := b.sbuf f.sa.toNat
     let ix := (x.g.sget f.sb.toNat).toNat / 2 ^ 20 % 64
     sb.slots[ix]? = some (if fill then SlotSt.reserved else SlotSt.taken) →
     exec i s = .next ((retire x x.g s).updBlock b.uid (fun y => y.setSbuf f.sa.toNat
       { sb with slots := setNth sb.slots ix (if fill then .filled else .free) })))) ∧
  (∀ (s : State) (blk n : Nat) (b : Block) (g : Group) (w : Wait) (d : Nat) (r : Word × SlotBuf) (i : Instr) (take : Bool),
     (i = .sbresGrant blk n ∧ take = false) ∨ (i = .sbtakeGrant blk n ∧ take = true) → s.blockUid blk = some b →
     oldestWait b (fun k => match k with
       | .sbres m d => if m = n ∧ take = false then some d else none
       | .sbtake m d => if m = n ∧ take = true then some d else none
       | _ => none) = some (g, w, d) → (take = false → ∀ t ∈ s.engineAsks b.uid n, w.stamp ≤ t) →
     (if take then (b.sbuf n).take else (b.sbuf n).reserve .reserved) = some r →
     exec i s = .next (((s.setGrp (.group ⟨b.core, g.part, g.slot⟩) (((g.sset d r.1).markFull [] [d]).endWait w)).updBlock blk
       (fun y => y.setSbuf n r.2)).stepStop (.group ⟨b.core, g.part, g.slot⟩) w)) ∧
  (∀ (s : State) (blk n : Nat) (v : Word) (b : Block), s.blockUid blk = some b → n < b.sbufs.length →
     (∀ t ∈ (b.sbuf n).slots, t = SlotSt.free) → s.engineNames b.uid n = false → v.toNat / 2 ^ 26 % 64 ≠ 0 →
     64 * (v.toNat / 4096 % 16384) ≠ 0 →
     256 * (v.toNat % 4096) + (v.toNat / 2 ^ 26 % 64 + 1) * (64 * (v.toNat / 4096 % 16384)) ≤ (s.hdrOfBlock b).scratch →
     exec (.sbcfgWrite blk n v) s = .next (s.updBlock b.uid (fun y => y.setSbuf n
       ⟨v, List.replicate (v.toNat / 2 ^ 26 % 64 + 1) .free, 0, false, 0, false⟩))) ∧
  (∀ (s : State) (blk n : Nat) (v : Word) (b : Block), s.blockUid blk = some b → n < b.sbufs.length →
     (∀ t ∈ (b.sbuf n).slots, t = SlotSt.free) → s.engineNames b.uid n = false → v.toNat / 2 ^ 26 % 64 = 0 →
     let u := s.updBlock b.uid (fun y => y.setSbuf n ⟨v, [], 0, false, 0, false⟩)
     let mine := fun (k : WaitKind) => match k with
       | .sbres m _ => m = n
       | .sbtake m _ => m = n
       | _ => False
     ((∀ g ∈ b.groups, ∀ w ∈ g.waits, ¬ mine w.kind) → exec (.sbcfgWrite blk n v) s = .next u) ∧
     (∀ (g : Group) (w : Wait), b.groups = [g] → g.waits = [w] → mine w.kind → exec (.sbcfgWrite blk n v) s = .next
       ((u.setGrp (.group ⟨b.core, g.part, g.slot⟩) g.dropWaits).trapGroup ⟨b.core, g.part, g.slot⟩ ⟨0x11, 0, 0, BitVec.ofNat 64 n⟩
         w.act w.pc w.word)))

/-- The generators after an operand of a GMMA: a generated one's moves on by the product's K (08 R189). -/
def advanced (o : GmmaOp) (sd : Side) (gs : List Gen) : List Gen :=
  match sd with
  | .gen n g _ => setNth gs n (genAdvance g o.t o.k)
  | .stored _ _ _ _ => gs

/-- The elements that a generator gives (08 R184 to R188): the mixing function, the scoped key, the value of each kind, and its delivery
with SCALE or, for a mask kind under ADDITIVE, as 0 or −∞. PI is π × 2^256 cut to an integer, and T the sine table of R187. -/
def GeneratorValues : Prop :=
  (∀ x : DWord, gmix x =
    let x := (x ^^^ (x >>> 31)) * 0x7FB5D329728EA185
    let x := (x ^^^ (x >>> 27)) * 0x81DADEF4BC2DD44D
    x ^^^ (x >>> 33)) ∧
  (∀ (g : Gen) (widths : List Nat) (wid : DWord), ∃ mask : DWord,
    genKey g widths wid = gmix (genSeed g ^^^ (BitVec.ofNat 64 (genSalt g) <<< 48) ^^^ (wid &&& mask)) ∧
    ∀ b, b < 64 → (mask.getLsbD b = true ↔ ∃ n, n < 6 ∧ (genScope g).testBit n = true ∧
      let lo := ((5 :: widths).take n).foldl (fun a b => a + b) 0
      lo ≤ b ∧ b < lo + nth 0 (5 :: widths) n)) ∧
  (∀ (g : Gen) (key : DWord) (i j : Word),
    let h := gmix (key ^^^ gmix (i ++ j))
    let h2 := gmix (h + 1)
    let one := fun (p : Prop) (v : FV) => (p → v = intValue 1) ∧ (¬ p → v = intValue 0)
    let bytes := fun (n : Nat) (x : DWord) => sumOver n (fun k => ((x.toNat / 256 ^ k % 256 : Nat) : Int))
    let v := genValue g key i j
    (genKind g = 0 → v = intValue (if h.getLsbD 63 then -1 else 1)) ∧
    (genKind g = 1 → let n := bytes 8 h + bytes 4 h2 - 1530
      v = .fin (decide (n < 0)) n.natAbs (-8)) ∧
    (genKind g = 2 → let n := ((h.toNat / 2 ^ 40 : Nat) : Int) - 2 ^ 23
      v = .fin (decide (n < 0)) n.natAbs (-23)) ∧
    (genKind g = 3 → v = intValue (if ((List.range 32).filter (fun b => (i &&& j).getLsbD b)).length % 2 = 1 then -1 else 1)) ∧
    (genKind g = 5 → one ((j.toNat : Int) ≤ (i.toNat : Int) + toSigned 32 (genParam g)) v) ∧
    (genKind g = 6 → one (((i.toNat : Int) - j.toNat).natAbs ≤ genParam g) v) ∧
    (genKind g = 7 → one (h.toNat / 2 ^ 32 < genParam g) v) ∧
    (genKind g = 4 → (genDim g ≤ j.toNat → v = intValue 0) ∧
      (j.toNat < genDim g →
        let a := i.toNat * genFreq g (j.toNat / 2) % 2 ^ 32
        let turn := if j.toNat % 2 = 0 then (a + 2 ^ 30) % 2 ^ 32 else a
        let s := fun (p : Nat) => sinTab (p / 2 ^ 18) + (sinTab (p / 2 ^ 18 + 1) - sinTab (p / 2 ^ 18)) * (p % 2 ^ 18 : Nat) / (2 ^ 18 : Int)
        let p := turn % 2 ^ 30
        let n := nth (-s (2 ^ 30 - p)) [s p, s (2 ^ 30 - p), -s p] (turn / 2 ^ 30)
        v = fp32.value (fp32.round 0 .ieee (decide (n < 0)) n.natAbs (-30)).1))) ∧
  (∀ (g : Gen) (q m : Nat) (e : Int) (neg : Bool), fp32.value (genParam g) = .fin neg m e →
    let PI := 363771576891766324280234942777729862653393377328392429958772151117938894466185
    let least := fun (n : Nat) => ((2 * n - 1) * PI) ^ genDim g * m ^ (2 * q) * 2 ^ (2 * q * e.toNat) ≤ 2 ^ (288 * genDim g + 2 * q * (-e).toNat)
    let n := genFreq g q
    n < 2 ^ 31 ∧ (0 < n → least n) ∧ (n + 1 < 2 ^ 31 → ¬ least (n + 1))) ∧
  (sinTab 0 = 0 ∧ sinTab 2048 = 759250125 ∧ sinTab 4096 = 2 ^ 30 ∧ sinTab 4097 = 2 ^ 30) ∧
  (∀ (g : Gen) (ty : Nat) (key : DWord) (i j : Word),
    let v := genValue g key i j
    let mask := genAdditive g = true ∧ 5 ≤ genKind g
    let u := fmul32 0 v (fp32.value (genScale g))
    let least := fun (n : Nat) => nth 0 [0x80, 0, 0xFF800000, 0xFC00, 0xFF80, 0xFE, 0xFC, 0xF] (n - 6)
    (mask → 6 ≤ ty → ty ≤ 13 → ty ≠ 7 → genElem g ty key i j = (if v.isZero then least ty else 0, 0)) ∧
    (¬ mask → ty = 8 → genElem g ty key i j = u) ∧
    (¬ mask → ty ≠ 8 → genElem g ty key i j = ((convert ty 8 0 false u.1).1, u.2 ||| (convert ty 8 0 false u.1).2)))

/-- 08 R182, 17 R377, 17 R378: GENSET copies eight scalar registers into a generator register when they hold a valid
descriptor; GENRD leaves its destination pending with the elements its lanes name, and MXFLAGS wait for its completion.
08 R173, 08 R176, 17 R374: GMMA outside a gang takes its product's value and its generators' advance at issue and leaves
the operation in flight; GMMA_COMPLETE writes the tile of the oldest operation and its flags, and changes nothing else of the
group; GANGSET sets the gang list and restarts its count, and a count above 8 raises GANGFAULT once its register is full. 08 R171 to R174: each
element of the product, K-block by K-block, and the elements of its operands; 08 R184 to R188: those of a generator (GeneratorValues). That value and generators are of the issue is the model's reading (log entry
36), as is who faults where a list changes while a member waits (`gangFault`, log entry 34). -/
def Obligations.MatrixWords : Prop :=
  ((∀ (f : FmtV), ∀ (s : State) (x : Issue), s.issues (.genset f) = some x →
     let gn := genOfWords ((List.range 8).map (fun i => x.g.sget (f.sa.toNat + i)))
     genValid gn = true →
     exec (.genset f) s = .next (retire x { x.g with gens := setNth x.g.gens f.dst.toNat gn } s)) ∧
   (∀ (f : FmtV), ∀ (s : State) (x : Issue), s.issues (.genrd f) = some x →
     let gn := nth 0 x.g.gens f.sa.toNat
     let el := fun l => genElem gn (genTy (genFmt gn)) (genKey gn (s.widthsOf x.party l) (nth 0 x.g.wids l))
       (genRow0 gn + x.g.vget f.sb.toNat l) (genCol0 gn + x.g.vget f.sc.toNat l)
     genValid gn = true → ∃ p : Producer, exec (.genrd f) s = .next (retire x (x.g.issue p) { s with fresh := s.fresh + 1 }) ∧
       p.kind = .genrd ∧ p.fills = true ∧ p.vregs = [f.dst.toNat] ∧ p.sregs = [] ∧ p.fp = 0 ∧
       p.mx = orFlags (x.lanes.map (fun l => (el l).2)) ∧
       ∀ l, l < 32 → hasLane x.active l = true →
         Sparse.get p.vwrites (32 * f.dst.toNat + l) = BitVec.ofNat 32 (placeTy (genTy (genFmt gn)) (el l).1))) ∧
  ((∀ (f : FmtV) (s : State) (x : Issue) (b : Block) (o : GmmaOp), s.issues (.gmma f) = some x → s.blockOfParty x.party = some b →
     gmmaParse f x s = .ok o → (x.g.gang = [] ∨ x.g.gang = [gangName b x.g]) →
     s.sidePoison o.a o.fa o.k = none → s.sidePoison o.b o.fb o.k = none →
     exec (.gmma f) s = .next (retire x { x.g with
       gmmas := x.g.gmmas ++ [⟨o.tile, (s.gmmaValue x.g o).1, (s.gmmaValue x.g o).2⟩]
       gens := advanced o o.b (advanced o o.a x.g.gens), gangSeq := x.g.gangSeq + 1 } s)) ∧
   (∀ (s : State) (h : Handle) (g : Group) (m : InGmma) (rest : List InGmma), s.grp? (.group h) = some g → g.gmmas = m :: rest →
     ∃ g', exec (.gmmaComplete h) s = .next (s.setGrp (.group h) g') ∧
       g' = { g with gmmas := rest, mxflags := g.mxflags ||| m.mx, tiles := g'.tiles } ∧
       (m.tile < g.acct → g.live ≠ 0 → g'.tiles = setTile g.tiles m.tile m.value)) ∧
   (∀ (f : FmtV) (s : State) (x : Issue) (b : Block), s.issues (.gangset f) = some x → s.blockOfParty x.party = some b →
     let n := (x.g.sget f.sb.toNat).toNat
     let list := (List.range n).map (fun e => if hasLane x.g.present e then (x.g.vget f.sa.toNat e).toNat else 0)
     n ≤ 8 → (n ≠ 0 → f.sa.toNat ∉ x.g.vEmpty ∧ ∀ m ∈ x.g.marks, f.sa.toNat / 2 ≠ m.pair) → s.gangListOk b (gangName b x.g) n list = true →
     exec (.gangset f) s = .next (retire x { x.g with gang := list, gangSeq := 0 } (s.gangFault b x.g 4))) ∧
   (∀ (f : FmtV) (s : State) (x : Issue) (b : Block), s.issues (.gangset f) = some x → s.blockOfParty x.party = some b →
     let n := (x.g.sget f.sb.toNat).toNat
     8 < n → (∀ m ∈ x.g.marks, f.sa.toNat / 2 ≠ m.pair) → f.sa.toNat ∉ x.g.vEmpty →
     exec (.gangset f) s = .next (trapWord x ⟨0x0B, 0, 0, 1⟩ x.active (s.gangFault b x.g 4)))) ∧
  (∀ (s : State) (g : Group) (o : GmmaOp) (c : Nat → Nat) (m n : Nat), m < 64 → n < 64 →
     c 0 = (if o.clr then 0 else g.tileAt o.tile (64 * m + n)) →
     let scale := fun (sd : Side) (first kb x : Nat) => if o.scl ∧ sd.isStored = true ∧ hasLane g.present (x % 32) = true then
       (g.vget (first + kb) (x % 32)).toNat / 256 ^ (2 * o.bsel + x / 32) % 256 else 127
     (∀ kb, kb < o.nkb →
       let a := (s.sideElems o o.a o.fa kb m).1
       let b := (s.sideElems o o.b o.fb kb n).1
       c (kb + 1) = if o.int then (if s.skipped o kb then c kb else
           ((toSigned 32 (c kb) + ((a.zip b).map (fun p => p.1.toInt * p.2.toInt)).foldl (fun x y => x + y) 0) % (2 ^ 32 : Int)).toNat)
         else (kblockPairs fp32 (fp32.value (c kb)) (if s.skipped o kb then [] else a.zip b)
           (if s.skipped o kb then 127 else scale o.a o.scw kb m) (if s.skipped o kb then 127 else scale o.b (o.scw + o.nkb) kb n)).1) →
     Sparse.get (s.gmmaValue g o).1 (64 * m + n) = BitVec.ofNat 32 (c o.nkb)) ∧
  (∀ (s : State) (o : GmmaOp) (fmt kb x i : Nat), i < 32 → 32 * kb + i < o.k →
     (∀ (a : Word) (u off st : Nat) (y : Block), s.blockUid u = some y → fmt < 7 →
       let w := nth 0 [16, 16, 8, 8, 4, 8, 4] fmt
       let e := y.scRead (off + x * st + w * (32 * kb + i) / 8) 2 / 2 ^ (w * (32 * kb + i) % 8) % 2 ^ w
       (s.sideElems o (.stored a u off st) fmt kb x).1[i]? = some (if fmt = 5 ∨ fmt = 6 then intValue (toSigned w e)
         else (nth fp32 [bf16, fp16, e4m3, e5m2, e2m1] fmt).value e)) ∧
     (∀ (r : Nat) (gn : Gen) (key : DWord), fmt < 6 →
       let k := BitVec.ofNat 32 (32 * kb + i)
       let at_ := if o.t then (genRow0 gn + BitVec.ofNat 32 x, genCol0 gn + k) else (genRow0 gn + k, genCol0 gn + BitVec.ofNat 32 x)
       let e := (genElem gn (nth 0 [10, 9, 11, 12, 13, 6] fmt) key at_.1 at_.2).1
       (s.sideElems o (.gen r gn key) fmt kb x).1[i]? = some (if fmt = 5 then intValue (toSigned 8 e)
         else (nth fp32 [bf16, fp16, e4m3, e5m2, e2m1] fmt).value e))) ∧
  GeneratorValues

/-- 08 R179, 17 R378: a member of a gang enters the latch and waits at its word, its registers unchanged; the latch opens when every
member of the list waits with the same list and count, no operand of theirs waiting for an engine, and then each member's GMMA
proceeds; while some member does not wait, it stays shut.
08 R180: where the items of two members disagree when it would open, every member of the gang faults with code 2.
That the items are compared when the latch opens, and that an operand owned by an engine keeps it shut, is the model's reading (log
entry 35); that the generators advance then is log entry 36. -/
def Obligations.GangLatch : Prop :=
  (∀ (f : FmtV) (s : State) (x : Issue) (b : Block) (o : GmmaOp), s.issues (.gmma f) = some x → s.blockOfParty x.party = some b →
    gmmaParse f x s = .ok o → gangOf b x.g = true →
    (∀ y ∈ s.blocks, ∀ q ∈ y.groups, y.launch = b.launch → y.cset = b.cset → q.latch = none) →
    exec (.gmma f) s = .next { State.next (s.setGrp x.party { x.g with
      run := none, latch := some ⟨x.pc, x.mask, x.g.gangSeq + 1, f, x.word, s.fresh⟩ }) with cur := none }) ∧
  (∀ (s : State) (h : Handle) (b : Block) (g : Group) (lt : Latched), s.blockOf h = some b → s.grp? (.group h) = some g →
    g.latch = some lt →
    let ready := fun (e : Nat) => ∃ y q l, s.member b e = some (y, q) ∧ q.gang = g.gang ∧ q.stopped = false ∧ q.saving = false ∧
      q.latch = some l ∧ l.count = lt.count
    let hs := g.gang.filterMap (fun e => (s.member b e).map (fun yq => (⟨yq.1.core, yq.2.part, yq.2.slot⟩ : Handle)))
    let clear := ∀ k ∈ hs, memberParse s k ≠ .error .wait ∧ memberParse s k ≠ .error .empty
    ((∀ e ∈ g.gang, ready e) → clear →
      (∀ k ∈ hs, ∀ k' ∈ hs, ∀ o o', memberParse s k = .ok o → memberParse s k' = .ok o' → agreeItems o = agreeItems o') →
      exec (.gangLatchOpen h) s = .next (hs.foldl (fun s k => openMember k s) s)) ∧
    ((∀ e ∈ g.gang, ready e) → clear →
      (∃ k ∈ hs, ∃ k' ∈ hs, ∃ o o', memberParse s k = .ok o ∧ memberParse s k' = .ok o' ∧ agreeItems o ≠ agreeItems o') →
      exec (.gangLatchOpen h) s = .next (s.gangFaultBy b (fun y q => g.gang.contains (gangName y q)) 2)) ∧
    ((∀ e ∈ g.gang, ready e) → ¬ clear → exec (.gangLatchOpen h) s = .next s) ∧
    ((∃ e ∈ g.gang, ¬ ready e) → exec (.gangLatchOpen h) s = .next s)) ∧
  (∀ (s : State) (h : Handle) (g : Group) (lt : Latched) (o : GmmaOp), s.grp? (.group h) = some g → g.latch = some lt → g.stepping = false →
    memberParse s h = .ok o → s.sidePoison o.a o.fa o.k = none → s.sidePoison o.b o.fb o.k = none →
    let x := memberIssue h g lt s
    x.party = .group h ∧ x.pc = lt.pc ∧ x.mask = lt.mask ∧ x.word = lt.word ∧ openMember h s = retire x { g with
      latch := none, gmmas := g.gmmas ++ [⟨o.tile, (s.gmmaValue { g with latch := none } o).1, (s.gmmaValue { g with latch := none } o).2⟩]
      gens := advanced o o.b (advanced o o.a g.gens), gangSeq := g.gangSeq + 1 } s)

/-- 16 R336, 16 R337: ACCRD leaves a window's registers pending with the tile's values in the present lanes; ACCWR writes the
registers' values to the tile's window and no register.
16 R338, 16 R339: ACCST stores the tile's rows as converted, piece by piece, to the scratchpad or to memory, and raises the
conversion's flags; it writes no register.
18 R412: PQACC adds to each active lane's accumulator the eight table entries that its code names, read from the block's
scratchpad; no other register changes. -/
def Obligations.AccumulatorWords : Prop :=
  ((∀ (f : FmtV) (s : State) (x : Issue) (col n rb : Nat), s.issues (.accrd f) = some x →
     accWindow (x.g.sget f.sb.toNat).toNat = some (col, n, rb) → f.dst.toNat + n ≤ x.g.alloc →
     (∀ j, j < n → f.dst.toNat + j ∉ x.g.vEmpty) → (∀ m ∈ x.g.gmmas, m.tile ≠ f.sa.toNat) →
     ∃ p : Producer, exec (.accrd f) s = .next (retire x (x.g.issue p) { s with fresh := s.fresh + 1 }) ∧ p.kind = .accrd ∧
       p.fills = true ∧ p.vregs = (List.range n).map (fun j => f.dst.toNat + j) ∧ p.sregs = [] ∧
       ∀ j l, j < n → l < 32 → hasLane x.g.present l = true →
         Sparse.get p.vwrites (32 * (f.dst.toNat + j) + l) = BitVec.ofNat 32 (x.g.tileAt f.sa.toNat (64 * (rb + l) + col + j))) ∧
   (∀ (f : FmtV) (s : State) (x : Issue) (col n rb : Nat), s.issues (.accwr f) = some x → x.g.tiles.wf = true →
     accWindow (x.g.sget f.sb.toNat).toNat = some (col, n, rb) → f.sa.toNat + n ≤ x.g.alloc →
     (∀ j, j < n → f.sa.toNat + j ∉ x.g.vEmpty ∧ ∀ m ∈ x.g.marks, (f.sa.toNat + j) / 2 ≠ m.pair) → (∀ m ∈ x.g.gmmas, m.tile ≠ f.dst.toNat) →
     ∃ tiles : Sparse 32, exec (.accwr f) s = .next (retire x { x.g with tiles := tiles } s) ∧
       ∀ t r c, r < 64 → c < 64 → Sparse.get tiles (4096 * t + 64 * r + c) =
         if t = f.dst.toNat ∧ rb ≤ r ∧ r < rb + 32 ∧ hasLane x.g.present (r - rb) = true ∧ col ≤ c ∧ c < col + n
         then x.g.vget (f.sa.toNat + (c - col)) (r - rb) else Sparse.get x.g.tiles (4096 * t + 64 * r + c))) ∧
  (∀ (f : FmtV) (s : State) (x : Issue), s.issues (.accst f) = some x →
     let o := (f.fn.extractLsb' 8 3).toNat
     let w := (x.g.sget f.sc.toNat).toNat
     let rows := (List.range 64).map (fun r => storedRow o ((List.range 64).map (fun c => x.g.tileAt f.sb.toNat (64 * r + c))))
     let pieces := piecesOf (accstRuns o (f.fn.getLsbD 6) w (rows.map (fun r => (r.1, r.2.1))))
     let g' := useFence x (x.g.addMx (orFlags (rows.map (fun r => r.2.2))))
     accstOk o (f.fn.getLsbD 6) w = true → (∀ m ∈ x.g.gmmas, m.tile ≠ f.sb.toNat) →
     (∀ (b : Block) (u off : Nat), f.fn.getLsbD 7 = true → (x.g.sget f.sa.toNat).toNat % 16 = 0 → s.blockOfParty x.party = some b →
       s.operandAt b (x.g.sget f.sa.toNat) (pieces.foldl (fun a p => if a < p.1 + p.2.length then p.1 + p.2.length else a) 0) =
         some (u, off) → (∀ p ∈ pieces, s.scratchOwned u (off + p.1) = false) →
       exec (.accst f) s = .next (retire x g' ((relBefore x false .group s).scratchPieces u off pieces))) ∧
     (∀ (s1 : State) (l : List (Trans × List Byte)), f.fn.getLsbD 7 = false → (x.g.spair f.sa.toNat).toNat % 16 = 0 →
       resolvePieces x.party (x.g.spair f.sa.toNat) pieces s = (s1, .ok l) →
       (∀ a ∈ l, s1.mustWait x.party a.1 a.2.length false = false) →
       exec (.accst f) s = .next (retire x g' (l.foldl (fun s a =>
         s.storeBytes x.party a.1 a.2.length (ofBytes a.2) (relWide x false .group)) (relBefore x false .group s1))))) ∧
  (∀ (f : FmtV) (s : State) (x : Issue) (b y : Block) (off : Nat), s.issues (.pqacc f) = some x → x.g.v.wf = true → x.g.sr.wf = true →
     s.blockOfParty x.party = some b → (x.g.sget f.sb.toNat).toNat % 64 = 0 →
     s.scratchAt b (((x.g.sget f.sb.toNat).toNat + 512 * fnSub f.fn) % 2 ^ 32) 512 = some (y, off) →
     (∀ i, i < 8 → s.scratchOwned y.uid (off + 64 * i) = false) → (∀ i, i < 32 → off / 16 + i ∉ y.scPoison) →
     ∃ t g, exec (.pqacc f) s = .next t ∧ Ends x g s t ∧ AluOut x g (fnSk f.fn) f.dst.toNat 1 (fun l =>
       pqSum (fnTy f.fn) (fun o => y.scRead (off + o) 4) (srcA f x 1 l) (srcC f x 1 l)))

/-- 16 R346, 07 R155, 07 R156: BCOPY and BGATHER with a sound record release the issuing core, take the destination's lines
and start an engine with the record's command; no register changes.
05 R116, 16 R347, 16 R348: an engine with a slot buffer asks for the slot at the producer index at once, and reserves it and owns its lines
when the buffer has one and no earlier reservation waits; until then it waits in its place, while its group goes on (the model's reading, log
entry 88); one whose rows are done completes with status 0: it leaves, reports the rows done, fills
the slot it reserved and arrives; one whose reserved slot meets its source completes with status 2; one that meets a fault stops there and completes with its status;
one that is not through stays, and so does one whose cluster set is saved. That an engine moves as many sectors as its event says, and that it
stops at a line that a batch owns, is the model's reading (log entries 72, 39).
16 R347, 00 R4: one step of an engine with a global source and destination, the source's sector in no RDC, copies one 16-byte sector. -/
def Obligations.CopyWords : Prop :=
  (∀ (f : FmtV) (s s1 : State) (x : Issue) (b : Block) (core : Nat) (w : List Nat) (gather : Bool) (i : Instr),
     (i = .bcopy f ∧ gather = false) ∨ (i = .bgather f ∧ gather = true) → s.issues i = some x →
     (x.g.spair f.sa.toNat).toNat % 64 = 0 → readRecord x (x.g.spair f.sa.toNat) 8 s = (s1, .ok w) →
     s1.blockOfParty x.party = some b → partyCore x.party = some core →
     copyCheck s1 b (copyCmd gather w).1 (copyCmd gather w).2 = none →
     let r := s1.release (some core) .device
     ∃ (u : State) (e : CopyEngine), exec i s = .next (retire x x.g
         (State.askSlot b e { u with copies := u.copies ++ [e], fresh := u.fresh + 1 })) ∧
       e.cmd = (copyCmd gather w).1 ∧ e.blk = b.uid ∧ e.gix = x.g.index ∧ e.ctx = x.ctx ∧ e.row = 0 ∧ e.sector = 0 ∧ e.slot = none ∧
       e.core = core ∧ e.launch = b.launch ∧ e.cset = b.cset ∧ e.asked = none ∧ e.id = r.fresh ∧ e.owned = e.pending r b ∧
       ((copyCmd gather w).1.sbd = true → e.owned = []) ∧ u = r.takeLines core e.owned) ∧
  (∀ (s u : State) (b : Block) (e e' : CopyEngine), (e.cmd.sbd = false → State.askSlot b e s = s) ∧
     (copyReserve b e s = .go u e' → State.askSlot b e s = u) ∧ (copyReserve b e s = .wait u → State.askSlot b e s = u)) ∧
  ((∀ (s u v : State) (id : Nat) (upto : Option Nat) (e e' e'' : CopyEngine),
     s.copies.find? (fun e => e.id = id) = some e → s.blockSaved e.blk = false →
     copyReserve (e.block s) e s = .go u e' → u.awaitsBatch e' = false →
     (e'.cmd.sbd = true → e'.row = 0 → e'.sector = 0 → u.copyMeets (e'.block u) e'.cmd (e'.base u (e'.block u)) = false) →
     copySectors (coreDie (e.block s).core) (e'.block u) (match upto with
       | some n => if n < e'.cmd.rows * (e'.cmd.rowBytes / 16) then n else e'.cmd.rows * (e'.cmd.rowBytes / 16)
       | none => e'.cmd.rows * (e'.cmd.rowBytes / 16)) e' u = (v, e'', .done) →
     exec (.copyEngineComplete id upto) s = .next (copyEnd (coreDie (e.block s).core) e'' 0 0 0 v)) ∧
   (∀ (s u : State) (id : Nat) (upto : Option Nat) (e e' : CopyEngine),
     s.copies.find? (fun e => e.id = id) = some e → s.blockSaved e.blk = false →
     copyReserve (e.block s) e s = .go u e' → u.awaitsBatch e' = false → e'.cmd.sbd = true → e'.row = 0 → e'.sector = 0 →
     u.copyMeets (e'.block u) e'.cmd (e'.base u (e'.block u)) = true →
     exec (.copyEngineComplete id upto) s = .next (copyEnd (coreDie (e.block s).core) e' 2 0 0 u)) ∧
   (∀ (s : State) (b : Block) (e : CopyEngine) (r : Word × SlotBuf), e.cmd.sbd = true → e.slot = none → s.blockUid b.uid = some b →
     s.resFirst b e.cmd.sbn (e.asked.getD s.fresh) = true → (b.sbuf e.cmd.sbn).reserve .engine = some r →
     ∃ u e', copyReserve b e s = .go u e' ∧ e'.slot = some (b.sbuf e.cmd.sbn).pix ∧ e'.asked = none ∧ e'.cmd = e.cmd ∧ e'.row = e.row ∧
       e'.sector = e.sector ∧ e'.owned = e'.pending s (b.setSbuf e.cmd.sbn r.2) ∧
       u = (s.updBlock b.uid (fun _ => b.setSbuf e.cmd.sbn r.2)).setCopy e' ∧ u.blockUid b.uid = some (b.setSbuf e.cmd.sbn r.2)) ∧
   (∀ (s : State) (b : Block) (e : CopyEngine), e.cmd.sbd = true → e.slot = none → s.blockUid b.uid = some b →
     (s.resFirst b e.cmd.sbn (e.asked.getD s.fresh) = false ∨ (b.sbuf e.cmd.sbn).reserve .engine = none) →
     (∀ t, e.asked = some t → copyReserve b e s = .wait s) ∧
     (e.asked = none → copyReserve b e s = .wait (State.next (s.setCopy { e with asked := some s.fresh })))) ∧
   (∀ (s u v : State) (id : Nat) (upto : Option Nat) (e e' e'' : CopyEngine),
     s.copies.find? (fun e => e.id = id) = some e → s.blockSaved e.blk = false →
     copyReserve (e.block s) e s = .go u e' → u.awaitsBatch e' = false → (e'.cmd.sbd = false ∨ e'.row ≠ 0 ∨ e'.sector ≠ 0) →
     let moved := copySectors (coreDie (e.block s).core) (e'.block u) (match upto with
       | some n => if n < e'.cmd.rows * (e'.cmd.rowBytes / 16) then n else e'.cmd.rows * (e'.cmd.rowBytes / 16)
       | none => e'.cmd.rows * (e'.cmd.rowBytes / 16)) e' u
     (∀ st ca fva, moved = (v, e'', .stopped st ca fva) →
       exec (.copyEngineComplete id upto) s = .next (copyEnd (coreDie (e.block s).core) e'' st ca fva v)) ∧
     (moved = (v, e'', .more) ∨ moved = (v, e'', .blocked) → exec (.copyEngineComplete id upto) s = .next (v.setCopy e''))) ∧
   (∀ (s : State) (e : CopyEngine) (die status cause : Nat) (fva : DWord),
     let gone := { s with copies := s.copies.filter (fun y => y.id != e.id) }
     let told := if e.cmd.report = 0 then gone else
       gone.engineReport die e.ctx e.cmd.report 16 (e.row + cause * 2 ^ 40 + status * 2 ^ 48 + fva.toNat * 2 ^ 64)
     let full := match e.slot with
       | some k => told.updBlock e.blk (fun b => b.setSbuf e.cmd.sbn { b.sbuf e.cmd.sbn with slots := setNth (b.sbuf e.cmd.sbn).slots k .filled })
       | none => told
     copyEnd die e status cause fva s = if e.cmd.bar = 0 then full else full.engineArrive die e.ctx e.cmd.bar) ∧
   (∀ (s s1 : State) (die ctx x : Nat) (va : DWord) (t : Trans), va.toNat % 16 = 0 → s.translate (.die die) ctx va needWr = (s1, .ok t) →
     (∃ k, region t.pa = .hbm k) → t.pa % 16 = 0 → Memory.wf s1.mem = true → ∀ i, i < 16 →
     (s.engineReport die ctx va 16 x).byte (t.pa + i) = BitVec.ofNat 8 (x >>> (8 * i))) ∧
   (∀ (s : State) (id : Nat) (upto : Option Nat) (e : CopyEngine), s.copies.find? (fun e => e.id = id) = some e →
     s.blockSaved e.blk = true → exec (.copyEngineComplete id upto) s = .next s)) ∧
  (∀ (s s1 s2 : State) (die : Nat) (b : Block) (e : CopyEngine) (ts td : Trans), e.cmd.gather = false → e.cmd.sks = false →
     e.cmd.dks = false → Memory.wf s.mem = true →
     s.translate (.die die) e.ctx (BitVec.ofInt 64 ((e.cmd.src.toNat : Int) + e.row * e.cmd.sstep) + BitVec.ofNat 64 (16 * e.sector))
       needRd = (s1, .ok ts) →
     (s1.engineRead die e.ctx ts.leaf ts.pa).1.translate (.die die) e.ctx (BitVec.ofInt 64 ((e.cmd.dst.toNat : Int) + e.row * e.cmd.dstep) + BitVec.ofNat 64 (16 * e.sector))
       needWr = (s2, .ok td) →
     (∃ k, region ts.pa = .hbm k) → (∃ k, region td.pa = .hbm k) → ts.pa % 16 = 0 → td.pa % 16 = 0 →
     s1.poisoned ts.pa = false → (homeDie ts.pa = die ∨ ∀ c ∈ s1.rdc, c.sector ≠ ts.pa / 16) →
     (∀ w ∈ s2.potluck.waves, td.pa / 64 ∉ w.lines) → Memory.wf s2.mem = true →
     (copySector die b e s).2.2 = .more ∧
     (∀ i, i < 16 → (copySector die b e s).1.byte (td.pa + i) = s1.byte (ts.pa + i)) ∧
     ∀ a, ¬ (td.pa ≤ a ∧ a < td.pa + 16) → (copySector die b e s).1.byte a = s2.byte a)

/-- 19 R429, 05 R121 to R124: TIERIN and TIEROUT with a sound record start a command; a page that already lies in the target
tier is skipped, one that cannot be moved ends the command with its status, one that is moved counts; a command whose pages
are done reports and completes: by its report word and an arrival, or, with KIND 1, by filling the slot it reserves with the report, which waits
while its block's cluster set is saved. The engine's reads of the page's tables change nothing but the error log (13 R300).
That the command's die is fixed when it starts, and that every command of KIND 0 writes its report word, is the model's reading (log entry 39). -/
def Obligations.TierSteps : Prop :=
  (∀ (f : FmtV) (s s1 : State) (x : Issue) (b : Block) (w : List Nat) (inward : Bool) (i : Instr),
    (i = .tierin f ∧ inward = true) ∨ (i = .tierout f ∧ inward = false) → s.issues i = some x →
    (x.g.spair f.sa.toNat).toNat % 32 = 0 → readRecord x (x.g.spair f.sa.toNat) 4 s = (s1, .ok w) →
    s1.blockOfParty x.party = some b →
    let page := nth 0 w 0
    let w1 := nth 0 w 1
    w1 / 2 ^ 38 % 2 ^ 26 = 0 → w1 / 2 ^ 33 % 2 = 0 → w1 % 2 ^ 32 ≠ 0 → w1 % 2 ^ 32 ≤ 65536 → page % 65536 = 0 → page < 2 ^ 57 →
    (w1 / 2 ^ 32 % 2 = 1 → (b.sbuf (w1 / 2 ^ 34 % 16)).slots ≠ [] ∧ w1 / 2 ^ 34 % 16 < b.sbufs.length) →
    ∃ u t, u = s1.release (partyCore x.party) .device ∧
      exec i s = .next (retire x x.g { u with tiers := u.tiers ++ [t], fresh := u.fresh + 1 }) ∧ t.inward = inward ∧
      t.page.toNat = page ∧ t.count = w1 % 2 ^ 32 ∧ t.pos = 0 ∧ t.moved = 0 ∧ t.skipped = 0 ∧ t.status = none ∧
      t.kind = decide (w1 / 2 ^ 32 % 2 = 1) ∧ t.sb = w1 / 2 ^ 34 % 16 ∧ t.compl = BitVec.ofNat 64 (nth 0 w 2) ∧
      t.report = BitVec.ofNat 64 (nth 0 w 3) ∧ t.blk = b.uid ∧ t.ctx = x.ctx ∧ t.die = u.tierDie x.ctx t.page) ∧
  (∀ (s : State) (id : Nat) (t : TierCmd), s.tiers.find? (fun t => t.id = id) = some t → t.status = none →
    (t.kind = true → s.blockSaved t.blk = false) →
    (t.count ≤ t.pos → exec (.tierPageMove id) s = .next (s.setTier { t with status := some 0 })) ∧
    (t.pos < t.count →
    let u := s.lookTables t.die t.ctx (t.page + BitVec.ofNat 64 (65536 * t.pos)).toNat
    (∀ fr, u.pageAt t.ctx t.inward (t.page + BitVec.ofNat 64 (65536 * t.pos)).toNat = .moved fr →
      exec (.tierPageMove id) s = .next (u.setTier { t with pos := t.pos + 1, skipped := t.skipped + 1 })) ∧
    (∀ st, u.pageAt t.ctx t.inward (t.page + BitVec.ofNat 64 (65536 * t.pos)).toNat = .bad st →
      exec (.tierPageMove id) s = .next (u.setTier { t with status := some st })) ∧
    (∀ pa at_, u.pageAt t.ctx t.inward (t.page + BitVec.ofNat 64 (65536 * t.pos)).toNat = .frame pa at_ →
      (u.frameBusy pa = true → exec (.tierPageMove id) s = .next u) ∧
      (∀ v, u.frameBusy pa = false → movePage t.die t (t.page + BitVec.ofNat 64 (65536 * t.pos)) pa at_ u = (v, none) →
        exec (.tierPageMove id) s = .next (v.setTier { t with pos := t.pos + 1, moved := t.moved + 1 })) ∧
      (∀ v st, u.frameBusy pa = false → movePage t.die t (t.page + BitVec.ofNat 64 (65536 * t.pos)) pa at_ u = (v, some st) →
        exec (.tierPageMove id) s = .next (v.setTier { t with status := some st }))))) ∧
  (∀ (s : State) (die ctx va : Nat), ∃ fresh logs pba out,
    s.lookTables die ctx va = { s with fresh := fresh, plat.logs := logs, plat.pba := pba, plat.out := out }) ∧
  (∀ (s : State) (id : Nat) (t : TierCmd), s.tiers.find? (fun t => t.id = id) = some t → t.kind = true → s.blockSaved t.blk = true →
    exec (.tierPageMove id) s = .next s ∧ exec (.tierCommandComplete id) s = .next s) ∧
  (∀ (s : State) (id : Nat) (t : TierCmd), s.tiers.find? (fun t => t.id = id) = some t → t.kind = false →
    t.status.isSome = true ∨ t.count ≤ t.pos →
    let u := State.engineReport { s with tiers := s.tiers.filter (fun y => y.id != id) } t.die t.ctx t.report 8
      (t.moved + t.skipped * 2 ^ 24 + t.status.getD 0 * 2 ^ 48)
    exec (.tierCommandComplete id) s = .next (if t.compl = 0 then u else u.engineArrive t.die t.ctx t.compl)) ∧
  (∀ (s : State) (id : Nat) (t : TierCmd) (b : Block) (r : Word × SlotBuf), s.tiers.find? (fun t => t.id = id) = some t → t.kind = true →
    t.status.isSome = true ∨ t.count ≤ t.pos → s.blockSaved t.blk = false → s.blockUid t.blk = some b → s.resFirst b t.sb (t.asked.getD s.fresh) = true →
    (b.sbuf t.sb).reserve .engine = some r →
    let k := (b.sbuf t.sb).pix
    exec (.tierCommandComplete id) s = .next (State.updBlock { s with tiers := s.tiers.filter (fun y => y.id != id) } b.uid (fun b =>
      ((b.setSbuf t.sb r.2).scWrite (256 * ((b.sbuf t.sb).cfg.toNat % 4096) + k * (64 * ((b.sbuf t.sb).cfg.toNat / 4096 % 16384))) 8
        (t.moved + t.skipped * 2 ^ 24 + t.status.getD 0 * 2 ^ 48)).engineFill t.sb k))) ∧
  (∀ (s : State) (id : Nat) (t : TierCmd) (b : Block), s.tiers.find? (fun t => t.id = id) = some t → t.kind = true →
    t.status.isSome = true ∨ t.count ≤ t.pos → s.blockSaved t.blk = false → s.blockUid t.blk = some b →
    (s.resFirst b t.sb (t.asked.getD s.fresh) = false ∨ (b.sbuf t.sb).reserve .engine = none) →
    (t.asked = none → exec (.tierCommandComplete id) s = .next (State.next (s.setTier { t with asked := some s.fresh }))) ∧
    (∀ a, t.asked = some a → exec (.tierCommandComplete id) s = .next s))

/-- 09 R193: OBIND of a sound header that nobody else holds binds the object at its home's unit, with the header's methods,
window, size and SOLO, keeping the queue of an earlier binding, and clears the header's STATUS; OBIND.u removes the object
and refuses its queued requests.
09 R194, 18 R404: OCALL in a launch that is not deterministic releases, sends one request per lane to its object's unit,
and leaves its reply pair empty until every lane's reply has landed; each request names its block, group, lane, pair and producer. -/
def Obligations.CallWords : Prop :=
  ((∀ (f : FmtV) (s s1 : State) (x : Issue) (t : Trans), s.issues (.obind f) = some x →
     let va := x.g.spair f.sa.toNat
     s.resolve x.party va needRw = (s1, .ok t) → va.toNat % 64 = 0 → leafMs t.leaf = false →
     ((∃ k, region t.pa = .hbm k) ∨ region t.pa = .ct) →
     let u := s1.release (partyCore x.party) .device
     (∀ i, i < 4 → u.poisoned (t.pa + 16 * i) = false) → u.headerOk t.pa = true → u.batchOn t.pa = false →
     (match u.boundAt t.pa with
       | some o => o.ctx = x.ctx
       | none => (u.potluck.bound.filter (fun o => o.unit = unitOf t.pa)).length < 1024) →
     ∃ o : Bound, exec (.obind f) s = .next (retire x x.g (State.putHome
         { u with potluck.bound := u.potluck.bound.filter (fun o => o.hdrPa != t.pa) ++ [o] } (t.pa + 0x13) 1 0)) ∧
       o.hdrPa = t.pa ∧ o.hdrVa = va ∧ o.ctx = x.ctx ∧ o.unit = unitOf t.pa ∧ o.faulted = false ∧
       o.methods = BitVec.ofNat 64 (u.homeRead t.pa 8) ∧ o.window = BitVec.ofNat 64 (u.homeRead (t.pa + 8) 8) ∧
       o.size = u.homeRead (t.pa + 16) 2 ∧ o.solo = decide (u.homeRead (t.pa + 18) 1 % 2 = 1) ∧ o.queue = ((u.boundAt t.pa).map (fun o => o.queue)).getD []) ∧
   (∀ (f : FmtV) (s s1 : State) (x : Issue) (t : Trans) (o : Bound), s.issues (.obindU f) = some x →
     s.resolve x.party (x.g.spair f.sa.toNat) needRw = (s1, .ok t) → (x.g.spair f.sa.toNat).toNat % 64 = 0 → leafMs t.leaf = false →
     ((∃ k, region t.pa = .hbm k) ∨ region t.pa = .ct) →
     let u := s1.release (partyCore x.party) .device
     u.boundAt t.pa = some o → o.ctx = x.ctx → u.batchOn t.pa = false →
     exec (.obindU f) s = .next (retire x x.g (State.reply
       { u with potluck.bound := u.potluck.bound.filter (fun o => o.hdrPa != t.pa) } (refuse o.queue 0x11))))) ∧
  (∀ (f : FmtV) (s s1 : State) (x : Issue) (accs : List Acc), s.issues (.ocall f) = some x →
     resolveAll x needRd (x.lanes.map (fun l => (l, aligned 64 (x.g.vpair f.sa.toNat l)))) s = (s1, accs, []) → accs ≠ [] →
     s1.detOf x.party = false → (∀ a ∈ accs, (∃ k, region a.t.pa = .hbm k) ∨ region a.t.pa = .ct) →
     let u := s1.release (partyCore x.party) .device
     ∃ (p : Producer) (reqs : List Request), exec (.ocall f) s = .next (retire x (x.g.issue p)
         { u with fresh := u.fresh + 1, potluck.net := u.potluck.net ++ reqs }) ∧
       p.kind = .ocall ∧ p.vregs = [f.dst.toNat, f.dst.toNat + 1] ∧ p.sregs = [] ∧ p.fills = true ∧ p.id = u.fresh ∧
       p.lanes = maskOf (accs.map (fun a => a.lane)) ∧
       (let blk := ((u.blockOfParty x.party).map (fun b => b.uid)).getD 0
        reqs.map (fun r => (r.hdrVa, r.hdrPa, r.arg, r.wid, r.dest)) =
          accs.map (fun a => (a.va, a.t.pa, x.g.vpair f.sb.toNat a.lane, nth 0 x.g.wids a.lane,
            some ⟨blk, x.g.index, a.lane, f.dst.toNat, p.id, none, false⟩))) ∧
       ∀ r ∈ reqs, r.meth = f.fn.setWidth 8 ∧ r.ctx = x.ctx ∧ r.unit = unitOf r.hdrPa ∧ r.widths = s1.widthsOf x.party 0)

/-- The registers with which a wave of some requests starts (09 R198). -/
def WaveStart (g : Group) (reqs : List Request) (hdr : DWord) (size : Nat) (pc : DWord) : Prop :=
  let m := BitVec.ofNat 32 (2 ^ reqs.length - 1)
  g.tab = [⟨pc, m, .ready, 0, false, true⟩] ∧ g.present = m ∧ g.live = m ∧ g.alloc = 128 ∧
  (∀ l r, reqs[l]? = some r → g.vpair 0 l = r.arg ∧ g.vpair 2 l = r.wid ∧ g.vget 4 l = r.meth.setWidth 32 ∧ nth 0 g.wids l = r.wid) ∧
  (∀ n l, l < 32 → 4 < n ∨ reqs.length ≤ l → g.vget n l = 0) ∧
  g.sget 0 = BitVec.ofNat 32 reqs.length ∧ g.spair 2 = hdr ∧ g.sget 4 = BitVec.ofNat 32 size ∧
  (∀ n, n ∉ [0, 2, 3, 4] → g.sget n = 0) ∧ g.mget 0 = m ∧ (∀ n, n ≠ 0 → g.mget n = 0) ∧ (∀ n, n < 7 → g.pget n = 0) ∧
  (∀ n, nth 0 g.gens n = 0) ∧ g.fpflags = 0 ∧ g.mxflags = 0 ∧ g.vEmpty = [] ∧ g.sEmpty = [] ∧ g.marks = [] ∧ g.pend = []

/-- 09 R196: the oldest request on its way to a unit joins its object's queue when the object is bound by the request's
context, sound, and the unit has room; it is refused with NOTBOUND or FAULTED otherwise, and waits while the unit is full.
09 R197, 09 R198: a free wave context takes the requests of one method from the front of the queue whose head waits
longest, at most 32, one under SOLO, and starts a wave (09 R198) with its window staged and the registers of the rule: its lanes hold their
arguments, work identifiers and method; a batch of a null method is
refused with NOMETHOD. -/
def Obligations.BatchEvents : Prop :=
  (∀ (s : State) (u : UnitId) (r : Request), s.potluck.net.find? (fun r => r.unit = u) = some r →
     let gone := { s with potluck.net := s.potluck.net.erase r }
     (∀ o, s.boundAt r.hdrPa = some o → o.ctx = r.ctx → o.faulted = false → s.unitLoad u < 4096 →
       exec (.ocallRequestArrive u) s = .next (State.next (gone.updBound r.hdrPa
         (fun o => { o with queue := o.queue ++ [{ r with stamp := s.fresh }] })))) ∧
     (∀ o, s.boundAt r.hdrPa = some o → o.ctx = r.ctx → o.faulted = false → 4096 ≤ s.unitLoad u →
       exec (.ocallRequestArrive u) s = .next s) ∧
     (s.boundAt r.hdrPa = none → exec (.ocallRequestArrive u) s = .next (gone.reply (refuse [r] 0x11))) ∧
     (∀ o, s.boundAt r.hdrPa = some o → o.ctx ≠ r.ctx → exec (.ocallRequestArrive u) s = .next (gone.reply (refuse [r] 0x11))) ∧
     (∀ o, s.boundAt r.hdrPa = some o → o.ctx = r.ctx → o.faulted = true →
       exec (.ocallRequestArrive u) s = .next (gone.reply (refuse [r] 0x10)))) ∧
  ((∀ (s : State) (u : UnitId) (k : Nat) (o : Bound) (rest : List Bound), s.freeWave u = some k →
     sortBy (fun (a b : Bound) => (a.queue.head?.map (fun r => r.stamp)).getD 0 ≤ (b.queue.head?.map (fun r => r.stamp)).getD 0)
       (s.potluck.bound.filter (fun o => o.unit = u && o.queue != [] && !s.batchOn o.hdrPa)) = o :: rest →
     let b := batchOf o.solo o.queue
     ∀ t, startBatch o k b none (s.updBound o.hdrPa (fun o => { o with queue := o.queue.drop b.length })) = some t →
       exec (.batchStart u) s = .next t) ∧
   (∀ (o : Bound) (k : Nat) (reqs : List Request) (s s1 s2 s3 : State) (ls : List Nat) (t : Trans) (pc : Nat), reqs ≠ [] →
     windowLines o.unit o.ctx o.window (o.size / 64) 0 s = (s1, some ls) → (∀ l ∈ ls, s1.lineOwned (64 * l) = false) →
     s1.translate (.die o.unit.die) o.ctx (o.methods + BitVec.ofNat 64 (8 * ((reqs.head?.map (fun (r : Request) => r.meth)).getD 0).toNat)) needRd
       = (s2, .ok t) → s2.loadBytes (.wave o.unit k) t 8 = (s3, some pc) →
     (∀ l ∈ ls, ∀ i, i < 4 → s3.poisoned (64 * l + 16 * i) = false) →
     (pc = 0 → startBatch o k reqs none s = some (s3.reply (refuse reqs 0x12))) ∧
     (pc ≠ 0 → ∃ w : Wave, startBatch o k reqs none s = some { s3 with potluck.waves := s3.potluck.waves ++ [w] } ∧ w.is o.unit k = true ∧
       w.reqs = reqs ∧ w.n = reqs.length ∧ w.hdrPa = o.hdrPa ∧ w.hdrVa = o.hdrVa ∧ w.ctx = o.ctx ∧ w.lines = ls ∧ w.windowVa = o.window ∧
       w.size = o.size ∧ w.words = 0 ∧ w.det = none ∧
       (∀ i, i < o.size → Sparse.get w.staged i = s3.byte (64 * nth 0 ls (i / 64) + i % 64)) ∧
       (reqs.length ≤ 32 → WaveStart w.grp reqs o.hdrVa o.size (BitVec.ofNat 64 pc)))) ∧
   (∀ (solo : Bool) (l : List Request), l ≠ [] → batchOf solo l ≠ [] ∧ batchOf solo l <+: l ∧ (batchOf solo l).length ≤ 32 ∧
     (solo = true → (batchOf solo l).length = 1) ∧
     ∀ r ∈ batchOf solo l, ∀ q ∈ batchOf solo l, (r : Request).meth = q.meth))

/-- 09 R199, 09 R200: OLD reads and OST writes the wave's staged window, never memory; of several lanes that write a byte, the last
one's stays.
09 R200, 09 R201: with every lane of the wave together, OCOMMIT writes the window back as one update, each staged byte at its line's home
and no other byte, and OABORT discards it; both end the wave and reply to every requester with its lane's pair. With a lane of the batch gone they
are a method fault; with some lanes not there yet the word has not issued, and waits, before its reply registers are looked at. -/
def Obligations.WaveWords : Prop :=
  ((∀ (f : FmtV) (s : State) (x : Issue) (w : Wave) (offs : List (Nat × Nat)), s.issues (.old f) = some x → s.waveOf x.party = some w →
     splitLanes (windowOffs w f.sa.toNat (2 ^ (f.fn.toNat % 4)) x) = (offs, []) →
     exec (.old f) s = .next (retire x (putLanes x.g f.dst.toNat (if 2 ^ (f.fn.toNat % 4) = 8 then 2 else 1) (offs.map (fun (o : Nat × Nat) =>
       let v := ofBytes ((List.range (2 ^ (f.fn.toNat % 4))).map (fun i => Sparse.get w.staged (o.2 + i)))
       (o.1, if f.fn.getLsbD 2 then ofInt 32 (toSigned (8 * 2 ^ (f.fn.toNat % 4)) v) else v)))) s)) ∧
   (∀ (f : FmtV) (s : State) (x : Issue) (w : Wave) (offs : List (Nat × Nat)), s.issues (.ost f) = some x → s.waveOf x.party = some w →
     w.staged.wf = true → splitLanes (windowOffs w f.sa.toNat (2 ^ (f.fn.toNat % 4)) x) = (offs, []) →
     ∃ staged : Sparse 8,
       (let ws := updFirst (fun (y : Wave) => y.is w.unit w.wslot) (fun (y : Wave) => { y with staged := staged }) s.potluck.waves
        exec (.ost f) s = .next (retire x x.g { s with potluck.waves := ws })) ∧
       (∀ a, (∀ o ∈ offs, ¬ (o.2 ≤ a ∧ a < o.2 + 2 ^ (f.fn.toNat % 4))) → Sparse.get staged a = Sparse.get w.staged a) ∧
       (∀ pre o post, offs = pre ++ o :: post → ∀ i, i < 2 ^ (f.fn.toNat % 4) →
         (∀ q ∈ post, ¬ (q.2 ≤ o.2 + i ∧ o.2 + i < q.2 + 2 ^ (f.fn.toNat % 4))) →
         Sparse.get staged (o.2 + i) = BitVec.ofNat 8 ((x.g.vpair f.sb.toNat o.1).toNat >>> (8 * i))))) ∧
  (∀ (f : FmtV) (s : State) (x : Issue) (w : Wave) (i : Instr) (commit : Bool), (i = .ocommit f ∧ commit = true) ∨ (i = .oabort f ∧ commit = false) →
     s.issues i = some x → s.waveOf x.party = some w → x.g.live = x.g.present → x.mask = x.g.live →
     let u := { s with potluck.waves := s.potluck.waves.filter (fun y => !y.is w.unit w.wslot) }
     exec i s = .next ((if commit then u.writeWindow w else u).reply (batchReplies w x.g f.sa.toNat)) ∧
     (batchReplies w x.g f.sa.toNat).map (fun r => (r.dest, r.value, r.fault)) =
       (w.reqs.zip (List.range w.reqs.length)).filterMap (fun ri => ri.1.dest.map (fun t => (t, x.g.vpair f.sa.toNat ri.2, none)))) ∧
  (∀ (f : FmtV) (s : State) (x : Issue) (w : Wave) (i : Instr), i = .ocommit f ∨ i = .oabort f → s.issueOf i = some x → i.legal = true →
     partyIllegal x.party i x.op = false → partyForbids x.party i x.op = false → rangeFault x.g (specOf i).ops = none → x.active ≠ 0 →
     s.waveOf x.party = some w →
     (x.g.live ≠ x.g.present → exec i s = .next (trapWord x ⟨0x108, 0, 0, 0⟩ x.active s)) ∧
     (x.g.live = x.g.present → x.mask ≠ x.g.live →
       let waits := fun (e : Entry) => if e.pc = x.pc ∧ e.st = .ready then { e with st := .uwait } else e
       exec i s = .next { s.setGrp x.party { x.g with run := none, tab := x.g.tab.map waits } with
         cur := s.cur.map (fun c => { c with mask := 0 }) }) ∧
     (x.g.live = x.g.present → x.mask = x.g.live → x.g.role.may x.op = true →
       (∀ c, readiness x.g (specOf i).ops = .trap c → exec i s = .next (trapWord x c x.active s)) ∧
       (readiness x.g (specOf i).ops = .wait → exec i s = .next { (s.setGrp x.party { x.g with run := none }) with cur := none }) ∧
       (∀ c, readiness x.g (specOf i).ops = .go → markFault x.g (specOf i).ops = some c → exec i s = .next (trapWord x c x.active s)))) ∧
  (∀ (s : State) (w : Wave), Memory.wf s.mem = true →
     (∀ pre ln post, w.lines = pre ++ ln :: post → ln ∉ post → ∀ i, i < 64 →
       (s.writeWindow w).byte (64 * ln + i) = Sparse.get w.staged (64 * pre.length + i)) ∧
     ∀ a, a / 64 ∉ w.lines → (s.writeWindow w).byte a = s.byte a)

/-- 09 R198, 09 R203: a wave at 4,096 words faults: it ends, its object is faulted with an empty queue, and every request of
the batch and the queue gets a fault reply.
09 R194, 09 R201, 09 R204: a reply lands in its requester's pair, or marks the pair faulted, or is discarded where its lane has
exited; the pair is full with the reply of the last lane. -/
def Obligations.ReplyEvents : Prop :=
  (∀ (s : State) (u : UnitId) (k : Nat) (w : Wave), s.potluck.waves.find? (fun w => w.is u k) = some w → 4096 ≤ w.words →
     ∃ t, exec (.waveLimit u k) s = .next t ∧ t.potluck.waves = s.potluck.waves.filter (fun x => !x.is u k) ∧
       (∀ o, t.boundAt w.hdrPa = some o → o.faulted = true ∧ o.queue = []) ∧
       t.potluck.replies = s.potluck.replies ++ (refuse w.reqs 0x04 ++
         refuse (((s.boundAt w.hdrPa).map (fun o => o.queue)).getD []) 0x10)) ∧
  ((∀ (s : State) (ix : Nat) (r : Reply) (b : Block) (i : Instr), s.potluck.replies[ix]? = some r →
     (i = .ocallReply ix ∧ r.fault = none) ∨ (i = .faultReply ix ∧ r.fault ≠ none) →
     replyBlocked s.potluck.replies ix r = false → r.dest.peer = false → s.blockUid r.dest.blk = some b →
     (∀ g ∈ b.groups, g.saving = false) →
     ∃ t u, exec i s = .next t ∧ u = (s.updBlock b.uid (fun b => b.land r)).acquire (some b.core) .device ∧
       t = { u with potluck.replies := dropNth s.potluck.replies ix }) ∧
   (∀ (g : Group) (r : Reply), g.v.wf = true → r.dest.lane < 32 → hasLane g.live r.dest.lane = true → r.fault = none →
     (g.land r).vpair r.dest.vd r.dest.lane = r.value ∧
     (∀ n l, l < 32 → (l ≠ r.dest.lane ∨ (n ≠ r.dest.vd ∧ n ≠ r.dest.vd + 1)) → (g.land r).vget n l = g.vget n l)) ∧
   (∀ (g : Group) (r : Reply) (c : Byte), hasLane g.live r.dest.lane = true → r.fault = some c →
     (∀ m ∈ g.marks, m.pair ≠ r.dest.vd / 2) →
     (g.land r).marks = g.marks ++ [⟨r.dest.vd / 2, r.obj, c, r.meth⟩] ∧ (g.land r).v = g.v) ∧
   (∀ (g : Group) (r : Reply), hasLane g.live r.dest.lane = false → (g.land r).v = g.v ∧ (g.land r).marks = g.marks) ∧
   (∀ (g : Group) (r : Reply) (p : Producer), g.pend.find? (fun p => p.id = r.dest.prod) = some p →
     p.fills = true → p.lanes &&& ~~~laneBit r.dest.lane = 0 → ∀ n ∈ p.vregs, n ∉ (g.land r).vEmpty))

/-- 15 R330, 19 R428, 04 R89: SYSRD writes the register's value once for the entry; SYSWR of a flag register clears the bits
written as one; a Ranger's write of SYS.CTXTAB or of a context's
private stride changes that register.
15 R331: SYS.CLKLO read by a party latches the high word, which SYS.CLKHI then returns. The clock's value is free. -/
def Obligations.SystemRegisterWords : Prop :=
  ((∀ (f : FmtS) (s u : State) (x : Issue) (v : Word), s.issues (.sysrd f) = some x → s.sysRead x.party x.g f.sysnum.toNat = .value u v →
     exec (.sysrd f) s = .next (retire x (x.g.sset f.reg.toNat v) u)) ∧
   (∀ (f : FmtS) (s : State) (x : Issue), s.issues (.syswr f) = some x → f.sysnum = 0 → x.g.flagsPending 0 = false →
     exec (.syswr f) s = .next (retire x { x.g with fpflags := x.g.fpflags &&& ~~~((x.g.sget f.reg.toNat).setWidth 8) } s)) ∧
   (∀ (f : FmtS) (s : State) (x : Issue), s.issues (.syswr f) = some x → f.sysnum = 1 → x.g.flagsPending 1 = false →
     exec (.syswr f) s = .next (retire x { x.g with mxflags := x.g.mxflags &&& ~~~((x.g.sget f.reg.toNat).setWidth 8) } s)) ∧
   (∀ (f : FmtS) (s : State) (x : Issue) (r : Nat), s.issues (.syswr f) = some x → x.party = .ranger r → f.sysnum = 0x200 →
     exec (.syswr f) s = .next { (retire x x.g s) with dev.ctxtab := x.g.sget f.reg.toNat }) ∧
   (∀ (f : FmtS) (s : State) (x : Issue) (r : Nat), s.issues (.syswr f) = some x → x.party = .ranger r → f.sysnum = 0x107 →
     ∃ u, exec (.syswr f) s = .next u ∧ u = (retire x x.g s).updCtx ((s.rg r).ctxsel.toNat % 256)
       (fun c => { c with privStride := x.g.sget f.reg.toNat &&& 0xFFFFFFF0#32 })) ∧
   (∀ (s : State) (p : Party) (g : Group), s.sysRead p g 2 = .value s g.phwm) ∧
   (∀ (s : State) (r : Nat) (g : Group), s.sysRead (.ranger r) g 0x200 = .value s s.dev.ctxtab) ∧
   (∀ (s : State) (h : Handle) (g : Group), s.sysRead (.group h) g 6 = .value s ((handleCode h).setWidth 32))) ∧
  (∀ (s : State) (p : Party), (s.grp? p).isSome = true → ∃ t v, exec (.clkloRead p) s = .next t ∧ t = { s with fresh := s.fresh + 1, dev.clkhi := t.dev.clkhi } ∧
     lookD 0 t.dev.clkhi (clkKey p) = v ∧ (∀ k, k ≠ clkKey p → lookD 0 t.dev.clkhi k = lookD 0 s.dev.clkhi k) ∧
     ∀ g, t.sysRead p g 9 = .value t v)

/-- 15 R330, 12 R267, 19 R428: a party that may not reach a register raises PRIV with the register's number: a group on a
Ranger's register, and TRAPRET anywhere but on a Ranger.
18 R395, 19 R425, 16 R343, 12 R267: LD, ST and ATOM of a group, under every order and with a scalar or a vector global address, whose
every lane's address is misaligned trap with ALIGN in those lanes, naming the lowest lane's address and the size; a relaxed one with no
fence pending reaches no memory. (07 R153, 16 R344: an order under .rmt that no scope allows, and a deterministic launch's floating-point ATOM with
RET, trap for that first.) -/
def Obligations.PrivilegeAndAlignmentTraps : Prop :=
  ((∀ (f : FmtS) (s : State) (x : Issue) (h : Handle), s.issues (.sysrd f) = some x → x.party = .group h →
     rangerRead f.sysnum.toNat = true → exec (.sysrd f) s = .next (trapWord x ⟨0x19, 0, 0, f.sysnum.setWidth 64⟩ x.active s)) ∧
   (∀ (f : FmtS) (s : State) (x : Issue) (h : Handle), s.issues (.syswr f) = some x → x.party = .group h →
     0x100 ≤ f.sysnum.toNat → f.sysnum.toNat ≤ 0x30A →
     exec (.syswr f) s = .next (trapWord x ⟨0x19, 0, 0, f.sysnum.setWidth 64⟩ x.active s)) ∧
   (∀ (f : FmtV) (s : State) (x : Issue) (h : Handle), s.issues (.trapret f) = some x → x.party = .group h →
     exec (.trapret f) s = .next (trapWord x ⟨0x19, 0, 0, 0⟩ x.active s))) ∧
  (∀ (f : FmtM) (s : State) (x : Issue) (i : Instr) (n : Nat) (off : DWord),
     let rmt := fnRmt f.fn = true ∧ rmtBad (scopeOf (fnScope f.fn)) = true
     (i = .ld f ∧ n = szBytes (fnSz f.fn) ∧ off = f.off.signExtend 64 ∧ ¬ (fnOrd f.fn = 1 ∧ rmt)) ∨
       (i = .st f ∧ n = szBytes (fnSz f.fn) ∧ off = f.off.signExtend 64) ∨
       (i = .atom f ∧ n = atomBytes (atomOp f) ∧ off = atomOff f ∧ ¬ rmt ∧
         ¬ (s.detOf x.party = true ∧ atomFp (atomOp f) = true ∧ fnSk f.fn = true)) →
     s.issues i = some x → fnAm f.fn = 0 ∨ fnAm f.fn = 1 → (∃ h, x.party = .group h) →
     let va := fun (l : Nat) => (if fnAm f.fn = 0 then x.g.spair f.av.toNat else x.g.vpair f.av.toNat l) + off
     (∀ l ∈ x.lanes, (va l).toNat % n ≠ 0) →
     ∃ u : State, exec i s = .next (u.raise x.party ⟨0x05, 0, va (lowLane x.active), BitVec.ofNat 64 n⟩ x.active x.pc x.word) ∧
       (fnOrd f.fn = 0 → x.g.fenceRel = [] → u.mem = s.mem))

/-- 02 R39, 18 R394, 02 R40: LAUNCH reads its header and queues the launch when it passes every check and the pool has room;
its status register is pending with 0 then, with 1 where the pool is full, with 2 + 256 × the code of the failing check, and with 3 +
256 × the cause where its header cannot be read (a misaligned address, cause 5, among them). Where an engine owns a line of the header,
it issues all the same, and reads the header and writes that status when it completes.
02 R32: an accepted launch stands at the end of its queue, running, with no cluster set placed.
02 R32, 13 R292: the dispatcher takes the next committed slot of a mailbox: the slot is free again, its pointer advances,
and a record that passes every check is queued; one that fails is logged with its code; a cancelled slot leaves nothing. (That the log is die
0's, with the header's context and ADDR 0, is the model's choice, log entry 88.) -/
def Obligations.LaunchEvents : Prop :=
  (∀ (f : FmtV) (s s1 : State) (x : Issue) (w : Nat), s.issues (.launch f) = some x → (x.g.spair f.sa.toNat).toNat % 64 = 0 →
     readHeader x.party (x.g.spair f.sa.toNat) s = (s1, .bits w) →
     let code := s1.checkHeader w (headerOf w) (some x.ctx)
     let status := if code ≠ 0 then 2 + 256 * code else if 8192 ≤ s1.sched.pool.length then 1 else 0
     let u := if status = 0 then (s1.release (partyCore x.party) .device).accept (headerOf w) .pool else s1
     ∃ p : Producer, exec (.launch f) s = .next (retire x (x.g.issue p) { u with fresh := u.fresh + 1 }) ∧ p.kind = .launchStatus ∧
       p.fills = true ∧ p.vregs = [] ∧ p.sregs = [f.dst.toNat] ∧ p.swrites = [(f.dst.toNat, BitVec.ofNat 32 status)] ∧ p.header = none) ∧
  (∀ (f : FmtV) (s s1 : State) (x : Issue) (c : Nat), s.issues (.launch f) = some x →
     ((x.g.spair f.sa.toNat).toNat % 64 ≠ 0 ∧ s1 = s ∧ c = 5) ∨
       ((x.g.spair f.sa.toNat).toNat % 64 = 0 ∧ readHeader x.party (x.g.spair f.sa.toNat) s = (s1, .bad c)) →
     ∃ p : Producer, exec (.launch f) s = .next (retire x (x.g.issue p) { s1 with fresh := s1.fresh + 1 }) ∧ p.kind = .launchStatus ∧
       p.fills = true ∧ p.vregs = [] ∧ p.sregs = [f.dst.toNat] ∧ p.swrites = [(f.dst.toNat, BitVec.ofNat 32 (3 + 256 * c))] ∧ p.header = none) ∧
  (∀ (f : FmtV) (s s1 : State) (x : Issue), s.issues (.launch f) = some x → (x.g.spair f.sa.toNat).toNat % 64 = 0 →
     readHeader x.party (x.g.spair f.sa.toNat) s = (s1, .wait) →
     ∃ p : Producer, exec (.launch f) s = .next (retire x (x.g.issue p) { s1 with fresh := s1.fresh + 1 }) ∧ p.kind = .launchStatus ∧
       p.fills = true ∧ p.vregs = [] ∧ p.sregs = [f.dst.toNat] ∧ p.header = some (x.g.spair f.sa.toNat)) ∧
  (∀ (s u : State) (p : Party) (g : Group) (q : Producer) (va : DWord) (st : Nat), s.grp? p = some g →
     g.pend.find? (fun y => y.id = q.id && y.kind != .ocall && y.kind != .drain && y.kind != .icinv) = some q → q.header = some va →
     s.launchStatus p (s.ctxOfParty p) va = (u, some st) →
     exec (.producerComplete p q.id) s = .next (u.setGrp p (g.complete { q with swrites := q.sregs.map (fun n => (n, BitVec.ofNat 32 st)) }))) ∧
  (∀ (s : State) (h : Header) (o : Origin), ∃ l : Launch, (s.accept h o).launches = s.launches ++ [l] ∧ l.hdr = h ∧ l.next = 0 ∧
     l.stage = .running ∧ l.staged = [] ∧ l.origin = o ∧ l.id = s.fresh ∧
     lookD [] (s.accept h o).sched.queues h.queue = lookD [] s.sched.queues h.queue ++ [l.id] ∧
     (s.accept h o).blocks = s.blocks ∧ (s.accept h o).mem = s.mem) ∧
  (∀ (s : State) (mb : Nat), (s.mb mb).closing = false →
     let m := s.mb mb
     let u := s.setMb mb { m with slots := put m.slots m.dptr .free, dptr := (m.dptr + 1) % 256 }
     let w := m.record m.dptr
     (m.slot m.dptr = .cancelled → exec (.mailboxConsume mb) s = .next u) ∧
     (m.slot m.dptr = .committed → u.checkHeader w (headerOf w) (some m.ctx) = 0 →
       exec (.mailboxConsume mb) s = .next (u.accept (headerOf w) (.mailbox mb))) ∧
     (m.slot m.dptr = .committed → u.checkHeader w (headerOf w) (some m.ctx) ≠ 0 →
       exec (.mailboxConsume mb) s = .next (u.logOne 0 0x04 (headerOf w).ctx 0
         (BitVec.ofNat 64 (u.checkHeader w (headerOf w) (some m.ctx))))) ∧
     (m.slot m.dptr = .free ∨ m.slot m.dptr = .reserved → exec (.mailboxConsume mb) s = .next s))

/-- The work identifier of a lane of group `i` of block `j` of a cluster set: the lane, then the digits of the three numbers over the
extents of their levels, the first the fastest, each at its field's first bit (02 R20, R21, R22). -/
def placedWid (h : Header) (i j cset lane : Nat) : DWord :=
  let digits := fun (n : Nat) (ext : List Nat) => (List.range ext.length).map (fun k =>
    n / (ext.take k).foldl (fun a b => a * b) 1 % nth 0 ext k)
  let fs := lane :: (digits i h.extB ++ digits j h.extK ++ digits cset h.extS)
  BitVec.ofNat 64 (((List.range 6).map (fun k =>
    nth 0 fs k * 2 ^ ((5 :: h.widths).take k).foldl (fun a b => a + b) 0)).foldl (fun a b => a + b) 0)

/-- A placed block of a cluster set of a launch (02 R36). -/
def Placed (l : Launch) (cset j core : Nat) (b : Block) : Prop :=
  b.core = core ∧
     b.j = j ∧ b.cset = cset ∧ b.launch = l.id ∧ b.scratch = [] ∧ b.scPoison = [] ∧ b.claims = [] ∧ b.free = 0 ∧
     b.groups.length = l.hdr.groups ∧ b.sbufs.length = l.hdr.sbufs ∧
     ∀ i g, b.groups[i]? = some g → g.index = i ∧ g.part = i % 4 ∧ g.role = l.hdr.role i ∧ g.alloc = l.hdr.alloc i ∧
       g.live = g.present ∧ g.present = BitVec.ofNat 32 (2 ^ l.hdr.lanes - 1) ∧
       g.tab = [⟨l.hdr.entry, g.present, .ready, 0, false, true⟩] ∧ g.vEmpty = [] ∧ g.sEmpty = [] ∧ g.sr = [] ∧ g.pend = [] ∧
       g.preds = List.replicate 7 0 ∧ g.masks = List.replicate 12 0 ∧ g.trap = none ∧ g.stopped = false ∧ g.fpflags = 0 ∧
       g.mxflags = 0 ∧ g.phwm = BitVec.ofNat 32 l.hdr.privInit ∧ g.tiles = [] ∧ g.gang = [] ∧ (∀ n, nth 0 g.gens n = 0) ∧
       (l.hdr.lanes ≤ 32 → ∀ n ln, ln < 32 →
         nth 0 g.wids ln = (if ln < l.hdr.lanes then placedWid l.hdr i j cset ln else 0) ∧ g.vpair 0 ln = nth 0 g.wids ln ∧
         (2 ≤ n → g.vget n ln = 0))

/-- 02 R34, 02 R36: a cycle in which one queue head waits, and its next cluster set fits a cluster of a die, places that set there, and
the round robin of the die moves to the queue; one that die 0 places may be followed by the next one on die 1. Placing a set puts its
blocks on the cores, numbered in order, and the launch's last set takes it off its queue; a cycle with nothing to place changes
nothing.
02 R36: a placed block's groups start with every present lane live and ready at the launch's entry, their allocation that
of their role, every register full, v0:v1 the lane's work identifier (02 R20), the other vector registers, scalar registers, generators, predicates
and masks zero, no trap, and the block's scratchpad zero. That a placed set ends its launch's reservation whatever cluster it uses is the
model's choice (log entry 79). -/
def Obligations.PlacementEvents : Prop :=
  ((∀ (s : State) (l : Launch) (cores : List Nat), ∃ bs : List Block, (s.placeSet l cores).blocks = s.blocks ++ bs ∧
     bs.length = cores.length ∧ (∀ j b, bs[j]? = some b → Placed l l.next j (nth 0 cores j) b) ∧
     (s.placeSet l cores).launches = (s.updLaunch l.id (fun y => { y with next := y.next + 1, age := 0, reserved := none })).launches ∧
     (let queue := fun (u : State) (n : Nat) => lookD [] u.sched.queues n
      (l.hdr.sets ≤ l.next + 1 → queue (s.placeSet l cores) l.hdr.queue = (queue s l.hdr.queue).filter (fun i => i != l.id) ∧
        (∀ n, n ≠ l.hdr.queue → queue (s.placeSet l cores) n = queue s n) ∧
        (s.placeSet l cores).sched.pool = s.sched.pool.filter (fun i => i != l.id)) ∧
      (l.next + 1 < l.hdr.sets → (s.placeSet l cores).sched.queues = s.sched.queues ∧ (s.placeSet l cores).sched.pool = s.sched.pool))) ∧
   (∀ (s : State) (q id : Nat) (l : Launch), s.sched.saved = [] → s.sched.queues = [(q, [id])] → s.launches = [l] → l.id = id →
     l.hdr.queue = q → l.hdr.prio < 64 → l.next < l.hdr.sets → s.privFits l.hdr = true →
     let fits := fun (s : State) (d : Nat) => if s.privFits l.hdr then s.findCluster d id l.hdr l.hdr.nblocks else none
     let puts := fun (s : State) (l : Launch) (cores : List Nat) (d : Nat) =>
       { s.placeSet l cores with sched := { (s.placeSet l cores).sched with rr := setNth s.sched.rr d q } }
     (∀ cores, fits s 0 = none → l.age < 65536 → fits s 1 = some cores → exec .dispatcherCycle s = .next (puts s l cores 1)) ∧
     (∀ cores, fits s 0 = some cores → l.next + 1 < l.hdr.sets →
       let u := puts s l cores 0
       (fits u 1 = none → exec .dispatcherCycle s = .next u) ∧
       ∀ cores', fits u 1 = some cores' →
         exec .dispatcherCycle s = .next (puts u { l with next := l.next + 1, age := 0, reserved := none } cores' 1))) ∧
   (∀ (s : State) (q id : Nat) (l : Launch) (cores : List Nat), s.sched.saved = [] → s.sched.queues = [(q, [id])] →
     s.launches = [l] → l.id = id → l.hdr.queue = q → l.hdr.prio < 64 → l.next + 1 = l.hdr.sets → s.privFits l.hdr = true →
     s.findCluster 0 id l.hdr l.hdr.nblocks = some cores →
     ∃ t, exec .dispatcherCycle s = .next t ∧ t = { s.placeSet l cores with
       sched := { (s.placeSet l cores).sched with rr := setNth s.sched.rr 0 q } }) ∧
   (∀ (s : State), s.sched.saved = [] → (∀ q ∈ s.sched.queues, q.2 = []) → exec .dispatcherCycle s = .next s)) ∧
  (∀ (s : State) (l : Launch) (cset j core : Nat), ∃ b : Block, (s.placeBlock l cset j core).blocks = s.blocks ++ [b] ∧
     Placed l cset j core b)

/-- 12 R276, 12 R278 to R281: when the Rucksack's save of a cluster set that may be saved is done, there is room, no copy engine of it is at
work and no LAUNCH of it has still to read its header, the set's blocks leave their cores into a saved set; with no image nothing is saved and every
Ranger that asked reads NOSAVE; a save that the dispatcher began ends with nothing saved where a group of the set has stopped; when a restore is
done, no group of the set is being restored any more, and they go on unless a PREEMPT of the set has come meanwhile. That a save with room may still get no image, as its event's operand says, the room that
is tried, and the blocks that a saved set holds whole are the model's choices (log entries 69, 80, 70). -/
def Obligations.RucksackEvents : Prop :=
  (∀ (s : State) (launch cset : Nat) (op : SaveOp), s.sched.saveOps.find? (fun o => o.launch = launch && o.cset = cset) = some op →
    canSave (s.setBlocks launch cset) = true → (∀ v ∈ s.sched.saved, ¬ (v.launch = launch ∧ v.cset = cset)) →
    let hd := ((s.launchOf launch).map (fun l => l.hdr)).getD default
    s.setBlocks launch cset ≠ [] →
    (s.saveRoom hd.ctx (sum ((s.setBlocks launch cset).map (imageBytes hd)))).isSome = true →
    (∀ e ∈ s.copies, ∀ b ∈ s.setBlocks launch cset, e.blk ≠ b.uid) →
    let halted := ∃ b ∈ s.setBlocks launch cset, ∃ g ∈ b.groups, g.live ≠ 0 ∧ g.stopped = true
    (op.by_ = [] → halted → ∀ image, ∃ t, exec (.rucksackSaveDone launch cset image) s = .next t ∧ t.sched.saved = s.sched.saved ∧
      t.sched.saveOps = s.sched.saveOps.filter (fun o => !(o.launch = launch && o.cset = cset)) ∧
      ∀ b ∈ t.blocks, b.launch = launch → b.cset = cset → ∀ g ∈ b.groups, g.saving = false) ∧
    (op.by_ ≠ [] ∨ ¬ halted →
    ((∀ b ∈ s.setBlocks launch cset, ∀ g ∈ b.groups, ∀ q ∈ g.pend, q.header = none) → ∃ t v, exec (.rucksackSaveDone launch cset true) s = .next t ∧ t.sched.saved = s.sched.saved ++ [v] ∧ v.launch = launch ∧ v.cset = cset ∧
      v.hold = op.hold ∧ v.blocks.map (fun b => b.uid) = (s.setBlocks launch cset).map (fun b => b.uid) ∧
      t.blocks = s.blocks.filter (fun b => !(b.launch = launch && b.cset = cset))) ∧
    (∃ t, exec (.rucksackSaveDone launch cset false) s = .next t ∧ t.sched.saved = s.sched.saved ∧
      (∀ b ∈ t.blocks, b.launch = launch → b.cset = cset → ∀ g ∈ b.groups, g.saving = false) ∧
      ∀ r ∈ op.by_, r < s.rangers.length → (nth Ranger.blank t.rangers r).wstat = 9))) ∧
  (∀ (s : State) (launch cset : Nat) (v : SavedSet),
    s.sched.saved.find? (fun v => v.launch = launch && v.cset = cset && v.restoring) = some v →
    ∃ t, exec (.rucksackRestoreDone launch cset) s = .next t ∧ t.sched.saved = s.sched.saved.filter (fun y => y.ticket != v.ticket) ∧
      ((∀ o ∈ s.sched.saveOps, ¬ (o.launch = launch ∧ o.cset = cset)) →
        ∀ b ∈ t.blocks, b.launch = launch → b.cset = cset → ∀ g ∈ b.groups, g.saving = false) ∧
      ((∃ o ∈ s.sched.saveOps, o.launch = launch ∧ o.cset = cset) →
        ∀ b ∈ t.blocks, b.launch = launch → b.cset = cset → ∀ g ∈ b.groups, g.saving = true))

/-- 02 R43, 02 R44: a launch whose threads have all exited and that staged nothing writes every core's dirty bytes home, then
makes its completion arrival and leaves; an arrival that waits for a Ranger is made by the retry; one that would raise BARFAULT, or whose address
raises XPERM or XRSV, is not made, and DONEFAULT is logged (so is one at a poisoned barrier, the model's choice, log entry 79).
02 R42: a pool that has stayed full is logged; 09 R207: a deterministic log that a Ranger extends lets its context's
waiting words go on, and one that it does not extend makes them trap with DETFAULT. That the release is of all 192 cores, that the pool's event
asserts the time for which it has stayed full, and that an extension by no page is a refusal, are the model's readings and choice (log entries 44, 42, 27). -/
def Obligations.LaunchCompletes : Prop :=
  ((∀ (s : State) (id : Nat) (l : Launch), s.launchOf id = some l → l.stage = .running → s.allExited l = true → l.staged = [] →
     exec (.launchComplete id) s = .next (((List.range 192).foldl (fun s k => s.flushCore k) s).doneArrival l)) ∧
   (∀ (s : State) (id : Nat) (l : Launch), s.launchOf id = some l → l.stage = .doneWait →
     exec (.doneArrivalRetry id) s = .next (s.doneArrival l)) ∧
   (∀ (s : State) (l : Launch), l.hdr.done = 0 → s.doneArrival l = s.endLaunch l) ∧
   (∀ (s s1 u : State) (l : Launch) (t : Trans), l.hdr.done ≠ 0 → s.translate (.die 0) l.hdr.ctx l.hdr.done needRw = (s1, .ok t) →
     s1.arrive 0 l.hdr.ctx t 1 = .done u → s.doneArrival l = u.endLaunch l) ∧
   (∀ (s s1 u : State) (l : Launch) (t : Trans), l.hdr.done ≠ 0 → s.translate (.die 0) l.hdr.ctx l.hdr.done needRw = (s1, .ok t) →
     (s1.arrive 0 l.hdr.ctx t 1 = .barfault u ∨ s1.arrive 0 l.hdr.ctx t 1 = .poison u) →
     s.doneArrival l = (u.logOne 0 0x02 l.hdr.ctx l.hdr.done (BitVec.ofNat 64 l.hdr.queue)).endLaunch l) ∧
   (∀ (s s1 : State) (l : Launch) (f : Flt), l.hdr.done ≠ 0 → s.translate (.die 0) l.hdr.ctx l.hdr.done needRw = (s1, .error f) →
     s.doneArrival l = if f.cause = 0x06 then s1.updLaunch l.id (fun l => { l with stage := .doneWait })
       else (s1.logOne 0 0x02 l.hdr.ctx l.hdr.done (BitVec.ofNat 64 l.hdr.queue)).endLaunch l) ∧
   (∀ (s : State) (l : Launch), (s.endLaunch l).launches = s.launches.filter (fun y => y.id != l.id))) ∧
  ((∀ s : State, 8192 ≤ s.sched.pool.length → exec .poolStarvation s = .next (s.logPlain 0 0x01 0 0)) ∧
   (∀ (s : State) (ctx pages : Nat) (b : Block) (g : Group), s.blocks = [b] → b.groups = [g] → (s.hdrOfBlock b).ctx = ctx → g.waits ≠ [] →
     (∀ w ∈ g.waits, w.kind = .detlog) →
     ∃ t, exec (.detLogExtend ctx pages) s = .next t ∧
       (t.ctxOf ctx).detLogPages = (s.ctxOf ctx).detLogPages + pages ∧
       ∃ g', t.grp? (.group ⟨b.core, g.part, g.slot⟩) = some g' ∧ g'.waits = [] ∧
         (pages ≠ 0 → g' = { g with waits := [] }) ∧ (pages = 0 → g'.stopped = true ∧ (g'.trap.map (fun r => r.cause)) = some 0x0F)))

/-- 12 R268, 12 R269, 07 R166: a trap of a group leaves it stopped with a record of its cause, level, lanes, PC, address, AUX,
word, handle, context and sequence number, and puts its handle last in its die's trap queue; FATAL is set for causes 0x14
and 0x15 only; the group's registers do not change.
02 R31, 12 R267: a watchdog expiry, for an access of the group that has had no answer, is a fatal trap at the word that made the access, in
its lanes, and without such an access nothing happens; an uncorrectable error of a group's state is a fatal trap; a deadlocked block's
groups all stop with REGDEADLOCK. (Which access is meant, and the word and lanes of ECCFATAL, are log entry 43.) -/
def Obligations.TrapEvents : Prop :=
  (∀ (s : State) (h : Handle) (c : Cause) (lanes : LaneMask) (pc word : DWord) (g : Group), s.grp? (.group h) = some g →
     coreDie h.core < s.plat.trapq.length → coreDie h.core < s.plat.recSeq.length →
     ∃ (g' : Group) (r : TrapRec), (s.trapGroup h c lanes pc word).grp? (.group h) = some g' ∧
       g' = { g with trap := some r, stopped := true, stepping := false, run := none } ∧
       r.cause = BitVec.ofNat 8 c.code ∧ r.level = BitVec.ofNat 3 c.level ∧ r.fatal = (c.code = 0x14 || c.code = 0x15) ∧
       r.lanes = lanes ∧ r.pc = pc ∧ r.addr = c.addr ∧ r.aux = c.aux ∧ r.word = word ∧ r.handle = handleCode h ∧
       r.ctx = BitVec.ofNat 8 (s.ctxOfParty (.group h)) ∧ r.seq = nth 0 s.plat.recSeq (coreDie h.core) ∧
       nth [] (s.trapGroup h c lanes pc word).plat.trapq (coreDie h.core) = nth [] s.plat.trapq (coreDie h.core) ++ [h] ∧
       nth 0 (s.trapGroup h c lanes pc word).plat.recSeq (coreDie h.core) = nth 0 s.plat.recSeq (coreDie h.core) + 1) ∧
  ((∀ (s : State) (h : Handle) (va : DWord) (g : Group) (y : Site), s.grp? (.group h) = some g → g.stopped = false → g.live ≠ 0 →
     s.unanswered (.group h) g va = some y →
     ∃ t g' r, exec (.watchdog (.group h) va) s = .next t ∧ t.grp? (.group h) = some g' ∧ g'.stopped = true ∧ g'.trap = some r ∧
       r.cause = 0x15 ∧ r.fatal = true ∧ r.addr = va ∧ r.pc = y.pc ∧ r.lanes = y.lanes &&& g.live ∧ r.word = y.word) ∧
   (∀ (s : State) (p : Party) (va : DWord) (g : Group), s.grp? p = some g → s.unanswered p g va = none →
     exec (.watchdog p va) s = .next s) ∧
   (∀ (s : State) (g : Group) (q : Producer) (y : Site) (va : DWord) (p : Party) (pre post : List Producer), g.pend = pre ++ q :: post →
     (∀ z ∈ pre, ∀ w, z.site = some w → va ∉ w.vas) → q.site = some y → va ∈ y.vas → s.unanswered p g va = some y) ∧
   (∀ (s : State) (h : Handle) (what : BitVec 2) (g : Group) (y : Site), s.grp? (.group h) = some g → g.stopped = false → g.live ≠ 0 →
     s.siteHere (.group h) g = some y →
     ∃ t g' r, exec (.eccfatal (.group h) what) s = .next t ∧ t.grp? (.group h) = some g' ∧ g'.stopped = true ∧ g'.trap = some r ∧
       r.cause = 0x14 ∧ r.fatal = true ∧ r.aux = what.setWidth 64 ∧ r.pc = y.pc ∧ r.lanes = y.lanes &&& g.live) ∧
   (∀ (s : State) (blk : Nat) (b : Block) (g : Group), s.blockUid blk = some b → s.deadlocked b = true → s.blocks = [b] → b.groups = [g] →
     ∃ t g', exec (.regdeadlock blk) s = .next t ∧ t.grp? (.group ⟨b.core, g.part, g.slot⟩) = some g' ∧ g'.stopped = true ∧
       g'.trap.map (fun r => r.cause) = some 0x10))

/-- 14 R313, 09 R199, 15 R324, 12 R267: a word whose encoding is illegal, or that its party may not hold, traps with ILLOP, code 1, in
every lane of its entry (of the group, for a uniform opcode), before anything else is looked at; then a vector register at or above
the allocation raises REGRANGE, whatever the guard.
09 R459: of the others, a word that a wave may not perform raises FORBID, code 3, where its guard lets a lane perform it.
14 R302, 02 R26, 14 R304, 03 R57, 09 R204: where no lane performs it, the word is skipped. Otherwise, in the lanes that perform it, an
opcode that the group's role lacks raises ROLEFAULT, a slot buffer that the block lacks SBFAULT, and an empty source with its T bit
set EMPTYREAD; with the bit clear the word blocks and is issued again, its registers unchanged; a faulted pair raises COMBFAULT; for a uniform
word they do once every live lane is together and performs it.
03 R64, 03 R65, 12 R267: a uniform word in a group with an exited lane, or whose guard is mixed, traps with NONUNIFORM in every live
lane, but for an opcode that the role lacks, which traps with ROLEFAULT there; one whose entry is not yet every live lane does not
issue: its entry waits (UWAIT) and its run ends; and a group whose lanes all wait or are parked, some waiting so, traps with NONUNIFORM
at the lowest such entry when its head is selected. 18 R414, 03 R57: PREF waits for an empty address register.
16 R337, 09 R204: ACCWR blocks, or with its T bit set raises EMPTYREAD, for an empty register of its window, and raises COMBFAULT for a faulted
one, in every live lane.
The order of the checks where a word meets two of them is the model's reading (log entry 22). What a dual word waits for and traps on
is in DualWords. -/
def Obligations.IssueChecks : Prop :=
  (∀ (s : State) (i : Instr) (x : Issue), s.issueOf i = some x →
     let all := if isUniform x.op then x.g.live else if 0x61 ≤ x.op ∧ x.op ≤ 0x65 ∧ x.active ≠ 0 then x.active else x.mask
     (i.legal = false ∨ partyIllegal x.party i x.op = true → exec i s = .next (trapWord x ⟨0x01, 0, 0, 0⟩ all s)) ∧
     (i.legal = true → partyIllegal x.party i x.op = false → partyForbids x.party i x.op = true → waveLacks i x.op = true → x.active ≠ 0 →
       exec i s = .next (trapWord x ⟨0x103, 0, 0, 0⟩ x.active s)) ∧
     (i.legal = true → partyIllegal x.party i x.op = false → (partyForbids x.party i x.op = false ∨ waveLacks i x.op = false ∨ x.active = 0) →
       ∀ c, rangeFault x.g (specOf i).ops = some c → exec i s = .next (trapWord x c all s))) ∧
  (∀ (s : State) (i : Instr) (x : Issue), s.issueOf i = some x → i.legal = true → partyIllegal x.party i x.op = false →
     rangeFault x.g (specOf i).ops = none →
     (partyForbids x.party i x.op = true → x.active ≠ 0 → exec i s = .next (trapWord x ⟨0x103, 0, 0, 0⟩ x.active s)) ∧
     (x.active = 0 → (isUniform x.op = true → x.g.live = x.g.present ∧ x.mask = x.g.live) → exec i s = .next (retire x x.g s)) ∧
     (let looks :=
         (∀ c, bufFault (s.sbufsOf x.party) (specOf i).ops = some c → exec i s = .next (trapWord x c x.active s)) ∧
         (bufFault (s.sbufsOf x.party) (specOf i).ops = none →
           (∀ c, readiness x.g (specOf i).ops = .trap c → exec i s = .next (trapWord x c x.active s)) ∧
           (readiness x.g (specOf i).ops = .wait →
             exec i s = .next { (s.setGrp x.party { x.g with run := none }) with cur := none }) ∧
           (∀ c, readiness x.g (specOf i).ops = .go → markFault x.g (specOf i).ops = some c →
             exec i s = .next (trapWord x c x.active s)))
      partyForbids x.party i x.op = false → x.active ≠ 0 →
       (isUniform x.op = false → x.op ≠ 0x100 → x.op ≠ 0x57 → x.op ≠ 0xB4 → x.op ≠ 0xB5 →
         (x.g.role.may x.op = false →
           exec i s = .next (trapWord x ⟨0x03, 0, 0, BitVec.ofNat 64 x.g.role.code⟩ x.active s)) ∧
         (x.g.role.may x.op = true → looks)) ∧
       (isUniform x.op = true → x.g.role.may x.op = true → x.g.live = x.g.present → x.mask = x.g.live → x.active = x.g.live → looks)) ∧
     (partyForbids x.party i x.op = false → isUniform x.op = true →
       (x.g.role.may x.op = false → x.active ≠ 0 → (x.g.live ≠ x.g.present ∨ x.mask = x.g.live) →
         exec i s = .next (trapWord x ⟨0x03, 0, 0, BitVec.ofNat 64 x.g.role.code⟩ x.g.live s)) ∧
       ((x.g.role.may x.op = true ∨ x.active = 0) → x.g.live ≠ x.g.present →
         exec i s = .next (trapWord x ⟨0x0C, 0, 0, 1⟩ x.g.live s)) ∧
       (x.g.role.may x.op = true → x.g.live = x.g.present → x.mask = x.g.live → x.active ≠ 0 → x.active ≠ x.g.live →
         exec i s = .next (trapWord x ⟨0x0C, 0, 0, 3⟩ x.g.live s))) ∧
     ((partyForbids x.party i x.op = false ∨ x.active = 0) → isUniform x.op = true → x.g.live = x.g.present → x.mask ≠ x.g.live →
       let waits := fun (e : Entry) => if e.pc = x.pc ∧ e.st = .ready then { e with st := .uwait } else e
       exec i s = .next { s.setGrp x.party { x.g with run := none, tab := x.g.tab.map waits } with
         cur := s.cur.map (fun c => { c with mask := 0 }) })) ∧
  (∀ (s : State) (turn : Turn) (rest : List Turn) (p : Party) (g : Group) (e : Entry) (s1 : State) (w : DWord),
     s.agenda = turn :: rest → s.frozen = false →
     let s0 := { s with agenda := rest }
     ((∃ core part h, turn = .issue core part ∧ s0.arbitrate core part = some h ∧ p = .group h) ∨
       (∃ u k, turn = .wave u k ∧ p = .wave u k) ∨ (∃ n, turn = .ranger n ∧ p = .ranger n)) →
     s0.grp? p = some g → s0.mayIssue p g = true → g.run = none → s0.boundary p = s0 → g.stopReq = false →
     (∀ q ∈ g.tab, q.st ≠ .ready) → e ∈ g.tab → e.st = .uwait → (∀ q ∈ g.tab, q.st = .uwait → e.pc ≤ q.pc) →
     s0.fetch p e.pc = (s1, .ok w) → step s = .next (s0.raise p ⟨0x0C, 0, 0, 2⟩ g.live e.pc w)) ∧
  (∀ (f : FmtM) (s : State) (x : Issue), s.issues (.pref f) = some x → readiness x.g (specPref f).ops = .wait →
     exec (.pref f) s = .next { (s.setGrp x.party { x.g with run := none }) with cur := none }) ∧
  (∀ (f : FmtV) (s : State) (x : Issue), s.issues (.accwr f) = some x →
     let w := (x.g.sget f.sb.toNat).toNat
     let window := fun r => f.sa.toNat ≤ r ∧ r ≤ f.sa.toNat + w / 2 ^ 7 % 2 ^ 6
     (∀ r, window r → r < x.g.alloc → r ∈ x.g.vEmpty → (∀ r', window r' → r' ∈ x.g.vEmpty → r ≤ r') →
       (f.ta = true → exec (.accwr f) s = .next (trapWord x ⟨0x04, 0, 0, BitVec.ofNat 64 r⟩ x.g.live s)) ∧
       (f.ta = false → exec (.accwr f) s = .next { (s.setGrp x.party { x.g with run := none }) with cur := none })) ∧
     (∀ (col n rb : Nat) (c : Cause), accWindow w = some (col, n, rb) → f.sa.toNat + n ≤ x.g.alloc → (∀ r, window r → r ∉ x.g.vEmpty) →
       (∀ m ∈ x.g.gmmas, m.tile ≠ f.dst.toNat) → regFault x.g ((List.range n).map (fun j => f.sa.toNat + j)) = some c →
       exec (.accwr f) s = .next (trapWord x c x.g.live s)))

/-- 11 R249, 11 R251, 11 R252, 11 R253, 11 R264: CFGWR erases an owned tile or loads a block into it, and answers STATE while a
run of the region lives (a status word is a pending producer); CFGSEAL installs an entry that passes every check and returns its handle; CFGEVICT removes an entry
that no run names; CFGKILL kills the region's runs and erases its tiles. A tile or a region that the context does not own
raises CFGFAULT. That the fault comes after the word's release, in every live lane, and that a status word is a producer, is the model's
reading (log entry 76). -/
def Obligations.ConfigurationWords : Prop :=
  (∀ (f : FmtV) (s : State) (x : Issue), s.issues (.cfgwr f) = some x →
    let u := s.release (partyCore x.party) .device
    let tw := x.g.sget f.sc.toNat
    let cnt := (x.g.sget f.sb.toNat).toNat
    let k := tw.toNat / 64 % 8
    let i := tw.toNat % 64
    tw.toNat < 512 →
    (((u.tile k i).ownV = false ∨ (u.tile k i).ownCtx ≠ x.ctx) →
      exec (.cfgwr f) s = .next (trapWord x ⟨0x13, 0, 0, tw.setWidth 64⟩ x.g.live u)) ∧
    ((u.tile k i).ownV = true → (u.tile k i).ownCtx = x.ctx →
      (∀ r, (u.stackOf k).liveRun (u.tile k i).ownRid = some r → Answers (.cfgwr f) x f.dst.toNat 5 r.st.val none s u) ∧
      ((u.stackOf k).liveRun (u.tile k i).ownRid = none →
        (cnt = 0 → Answers (.cfgwr f) x f.dst.toNat 0 0 none s (u.updTile k i Tile.erase)) ∧
        (∀ v t, cnt ≠ 0 → loadTile x.party k i (x.g.spair f.sa.toNat) cnt u = (v, t) →
          Answers (.cfgwr f) x f.dst.toNat t.code t.detail none s v)))) ∧
  (∀ (f : FmtV) (s s1 s2 : State) (x : Issue) (rect : Rect) (head ws : List DWord), s.issues (.cfgseal f) = some x →
    let u := s.release (partyCore x.party) .device
    let w := x.g.sget f.sb.toNat
    let va := x.g.spair f.sa.toNat
    u.wordRegion x.ctx w = some rect → cfgRead x.party u va 16 0 [] = (s1, .ok head) → badHeader head = none →
    cfgRead x.party s1 va (((imgHdr head).len + 7) / 8 - 16) 16 head = (s2, .ok ws) →
    (∀ e, sealChecks s2 (wordStack w) x.ctx (s2.prioOf x.party) rect ws (imgBytes ws (imgHdr head).len) = .ok e →
      let q := sealInstall (wordStack w) e s2
      Answers (.cfgseal f) x f.dst.toNat q.2.1.code q.2.1.detail (some q.2.2) s q.1) ∧
    (∀ t, sealChecks s2 (wordStack w) x.ctx (s2.prioOf x.party) rect ws (imgBytes ws (imgHdr head).len) = .error t →
      Answers (.cfgseal f) x f.dst.toNat t.code t.detail (some 0) s s2)) ∧
  (∀ (f : FmtV) (s : State) (x : Issue) (e : HamperEntry), s.issues (.cfgevict f) = some x →
    let u := s.release (partyCore x.party) .device
    let w := x.g.sget f.sb.toNat
    let k := w.toNat / 256 % 8
    u.namedEntry x.ctx w = .is e →
    ((∀ r ∈ (u.stackOf k).runs, r.entry = e.ix → r.st.live = false) → Answers (.cfgevict f) x f.dst.toNat 0 0 none s
      (u.updStack k (fun st => { st with hamper := st.hamper.filter (fun h => h.ix != e.ix) }))) ∧
    ((∃ r ∈ (u.stackOf k).runs, r.entry = e.ix ∧ r.st.live = true) → Answers (.cfgevict f) x f.dst.toNat 0x0F 0 none s u)) ∧
  (∀ (f : FmtV) (s : State) (x : Issue), s.issues (.cfgkill f) = some x →
    let u := s.release (partyCore x.party) .device
    let w := x.g.sget f.sb.toNat
    (∀ rect, u.wordRegion x.ctx w = some rect →
      Answers (.cfgkill f) x f.dst.toNat 0 0 none s (u.killRegion (wordStack w) (wordRid w) rect.tiles)) ∧
    (u.wordRegion x.ctx w = none → exec (.cfgkill f) s = .next (trapWord x ⟨0x13, 0, 0, w.setWidth 64⟩ x.g.live u))) ∧
  (∀ (s : State) (k rid : Nat) (tiles : List Nat), k < s.fabrics.length → (s.stackOf k).tiles.length = 64 → (∀ i ∈ tiles, i < 64) →
    (s.stackOf k).runs.Pairwise (fun a b => ¬ (a.rid = b.rid ∧ a.slot = b.slot)) →
    (∀ r ∈ ((s.killRegion k rid tiles).stackOf k).runs, r.rid = rid → r.st.live = false) ∧
    ∀ i ∈ tiles, ((s.killRegion k rid tiles).tile k i).ownV = false ∧ ((s.killRegion k rid tiles).tile k i).loaded = false)

/-- 11 R254, 11 R255, 11 R258: CFGRUN issues a PENDING run of its entry's region with the next generation of a free slot, the lowest one
(the model's choice, log entry 88), and returns its handle; CFGRUN.RESUME makes a DRAINED run PENDING again; CFGSTAT stores the run's status and raises its MXFL
flags; CFGDRAIN of a PENDING run drains it at once, and of a RUNNING run waits for the drain with its register pending. -/
def Obligations.RunWords : Prop :=
  (∀ (f : FmtV) (s s1 : State) (x : Issue) (e : HamperEntry) (rid slot : Nat) (pb : List DWord), s.issues (.cfgrun f) = some x →
    let u := s.release (partyCore x.party) .device
    let w := x.g.sget f.sb.toNat
    let va := x.g.spair f.sa.toNat
    let k := w.toNat / 256 % 8
    u.namedEntry x.ctx w = .is e → (u.stackOf k).entryRegion e x.ctx = some rid →
    (List.range 8).find? (fun n => match (u.stackOf k).run rid n with
      | some r => !r.st.live
      | none => true) = some slot →
    va.toNat % 64 = 0 → cfgRead x.party u va 16 0 [] = (s1, .ok pb) →
    ∃ (r : FabRun) (v : State), Answers (.cfgrun f) x f.dst.toNat 0 0 (some (runHandle k r)) s { (v.takeFootprints k r) with fresh := (v.takeFootprints k r).fresh + 1 } ∧
      r.st = .pending ∧ r.rid = rid ∧ r.slot = slot ∧ r.gen = nextGen (u.stackOf k).runGen (8 * rid + slot) ∧ r.entry = e.ix ∧ r.ctx = x.ctx ∧
      r.bases = pb.take 8 ∧ r.err = 0 ∧ r.image = [] ∧ r.owned = [] ∧ v.mem = s1.mem) ∧
  (∀ (f : FmtV) (s : State) (x : Issue) (r : FabRun), s.issues (.cfgrunResume f) = some x →
    let u := s.release (partyCore x.party) .device
    let w := x.g.sget f.sb.toNat
    let k := w.toNat / 64 % 8
    u.namedRun x.ctx w = .is r →
    let placed := ∃ rid < 64, ((u.stackOf k).region rid x.ctx).map Rect.tiles = some r.tiles
    (¬ placed → Answers (.cfgrunResume f) x f.dst.toNat 0x0E 0 (some 0) s u) ∧
    (placed → r.st = .drained → r.rangerDrained = false → Answers (.cfgrunResume f) x f.dst.toNat 0 0 (some w) s (u.resumeRun k r)) ∧
    (placed → r.st ≠ .drained → Answers (.cfgrunResume f) x f.dst.toNat 5 r.st.val (some 0) s u)) ∧
  (∀ (f : FmtV) (s s1 : State) (x : Issue) (r : FabRun) (t : Trans), s.issues (.cfgstat f) = some x →
    let u := s.release (partyCore x.party) .device
    let va := x.g.spair f.sa.toNat
    u.namedRun x.ctx (x.g.sget f.sb.toNat) = .is r → va.toNat % 64 = 0 → u.resolve x.party va needWr = (s1, .ok t) →
    s1.mustWait x.party t 64 false = false →
    ∃ (v : State) (p : Producer), v = ((List.range 4).zip r.status).foldl (fun s nv =>
        s.storeBytes x.party { t with pa := t.pa + 16 * nv.1 } 16 nv.2 true) s1 ∧
      exec (.cfgstat f) s = .next (retire x (((v.grp? x.party).getD x.g).issue p) { v with fresh := v.fresh + 1 }) ∧
      p.sregs = [f.dst.toNat] ∧ p.swrites = [(f.dst.toNat, 0)] ∧ p.mx = r.mxfl) ∧
  (∀ (f : FmtV) (s : State) (x : Issue) (r : FabRun), s.issues (.cfgdrain f) = some x →
    let u := s.release (partyCore x.party) .device
    let w := x.g.sget f.sb.toNat
    let k := w.toNat / 64 % 8
    u.namedRun x.ctx w = .is r →
    (r.st = .pending → Answers (.cfgdrain f) x f.dst.toNat 0 0 none s (u.updRun k r (fun r => { r with st := .drained }))) ∧
    (∀ b, r.st = .running → s.blockOfParty x.party = some b → u.blockOfParty x.party = some b → ∃ (p : Producer) (v : State),
      exec (.cfgdrain f) s = .next (retire x (x.g.issue p) { v with fresh := v.fresh + 1 }) ∧ p.kind = .drain ∧ p.sregs = [f.dst.toNat] ∧
      v = (u.updRun k r (fun r => { r with st := .draining })).updRun k r (fun r => { r with drainers := r.drainers ++ [(b.uid, x.g.index, p.id)] })))

/-- 11 R256, 11 R257, 11 R259, 11 R260: a free region takes the next run: never beside one that holds it, a deterministic one
no later in sequence than any other deterministic run that is pending or drained, another one of the highest priority; the
run then loads, a tile that holds its block already not being written, moves when its tiles hold its image, is DONE when nothing of it is left to do, and DRAINED, with its tiles
saved and its waiting words answered, when drain has passed all of it. A tile that faulted while no run moved on it, and holds what failed, seals domains when a run starts; without one
nothing is sealed. The image of a drained run has a place in the context's save pool where the pool has room (its size and place, and that the run's
tiles are also held whole: log entry 70; the place as for a set's image: 80). What a tile that holds its image keeps at a run's start, and the sealing
then, are log entry 79; that the end of a run needs quiet sources and ends its ownership is log entry 56. -/
def Obligations.RunEvents : Prop :=
  (∀ (k : Stack) (rid : Nat) (r : FabRun), k.nextRun rid = some r → r ∈ k.runs ∧ r.rid = rid ∧ r.st = .pending ∧
    (∀ q ∈ k.runs, q.rid = rid → q.st.holds = false) ∧
    (r.det = true → ∀ q ∈ k.runs, q.rid = rid → q.det = true → q.st = .pending ∨ q.st = .drained → r.seq.toNat ≤ q.seq.toNat) ∧
    (r.det = false → ∀ q ∈ k.runs, q.rid = rid → q.det = false → q.st = .pending → q.prio ≤ r.prio)) ∧
  (∀ (s : State) (k rid : Nat) (r : FabRun), (s.stackOf k).nextRun rid = some r →
    exec (.runSelect k rid) s = .next ((s.updRun k r (fun r => { r with st := .loading })).updStack k (fun st =>
      { st with hamper := updFirst (fun e => e.ix = r.entry) (fun e => { e with prio := r.prio }) st.hamper }))) ∧
  (∀ (s : State) (k rid : Nat) (r : FabRun) (e : HamperEntry), (s.stackOf k).runs.find? (fun r => r.rid = rid && r.st = .loading) = some r →
    (s.stackOf k).hamper.find? (fun e => e.ix = r.entry) = some e →
    let pairs := r.tiles.zip e.blocks
    let held := pairs.foldl (fun (st : Stack) ib => st.updTile ib.1 (fun t => t.hold ib.2)) (s.stackOf k)
    let fin := fun (v : State) => v.updRun k r (fun q => { q with
      st := if q.drainAsked then .draining else .running, drainAsked := false, image := [], resumed := false
      sealed_ := r.tiles.foldl (fun m i => m ||| (held.tile i).sealedDoms) q.sealed_ })
    let fresh := fin (s.updStack k (fun st => pairs.foldl (fun (st : Stack) ib => st.updTile ib.1 (fun t => t.start ib.2 (held.fedBy r ib.1))) st))
    let back := fin (s.updStack k (fun _ => (r.tiles.zip r.image).foldl (fun (st : Stack) it => st.updTile it.1 (fun t => t.restore it.2)) held))
    ((r.resumed = false ∨ r.image = []) → exec (.loadingComplete k rid) s = .next (if r.drainAsked then fresh.startFaults k r else (fresh.startFaults k r).takeAnswers k r)) ∧
    (r.resumed = true → r.image ≠ [] → exec (.loadingComplete k rid) s = .next (if r.drainAsked then back.startFaults k r else (back.startFaults k r).takeAnswers k r))) ∧
  (∀ (s : State) (k : Nat) (r : FabRun), (∀ i ∈ r.tiles, (s.tile k i).fault = false) → s.startFaults k r = s) ∧
  (∀ (t : Tile) (b : List DWord), t.has b = true → t.hold b = t) ∧
  (∀ (s : State) (k rid : Nat) (r : FabRun), (s.stackOf k).runs.find? (fun r => r.rid = rid && r.st = .running) = some r →
    (∀ i ∈ r.tiles, let t := (s.stackOf k).tile i
      t.edges = [] ∧ t.escape = none ∧ (∀ n ∈ t.slots, (t.nodeSt n).quiet = true) ∧
      ∀ nr ∈ t.recList, (t.stream nr.1).phase = .done ∧ (t.stream nr.1).passEnd = false ∧ (t.stream nr.1).etail = false ∧ (t.stream nr.1).buf = []) →
    (∀ f ∈ (s.stackOf k).flights, 8 * f.y + f.x ∉ r.tiles) →
    exec (.runDone k rid) s = .next (s.updRun k r (fun r => { r with st := .done, owned := [] }))) ∧
  (∀ (s : State) (k rid : Nat) (r : FabRun), (s.stackOf k).runs.find? (fun r => r.rid = rid && r.st = .draining) = some r →
    (∀ i ∈ r.tiles, let t := (s.stackOf k).tile i
      t.escape = none ∧ (∀ n ∈ t.slots, (t.nodeSt n).frozen = true) ∧ ∀ nr ∈ t.recList, (t.stream nr.1).drained = true) →
    (∀ f ∈ (s.stackOf k).flights, 8 * f.y + f.x ∉ r.tiles) →
    let u := (s.updRun k r (fun q => { q with
      st := .drained, drains := q.drains + 1, image := q.tiles.map (fun i => (s.stackOf k).tile i) })).updRun k r (fun q => { q with area := 0, bytes := 0 })
    (u.saveRoom r.ctx r.imageBytes = none → exec (.drainComplete k rid) s = .next ((u.answerDrain k r ⟨0, 0⟩).endBusy k r)) ∧
    (∀ a, u.saveRoom r.ctx r.imageBytes = some a → exec (.drainComplete k rid) s = .next
      ((((u.updRun k r (fun q => { q with area := a, bytes := r.imageBytes })).writeWords (k / 4) r.ctx ((s.ctxOf r.ctx).savePool + BitVec.ofNat 64 a)
        (openWords (r.imageBytes / 4)) (fun _ => false)).answerDrain k r ⟨0, 0⟩).endBusy k r)))

/-- A firmware service's answer to a group: the results go to s0 and s1 through the window and the group goes on; while a producer is in
flight for a register of the results, the window would refuse the write, and the call waits. -/
def ServiceAnswers (i : Instr) (s u : State) (h : Handle) (g : Group) (r0 : Nat) (r1 : Option Word) : Prop :=
  let busy := g.sPending 0 = true ∨ (r1.isSome = true ∧ g.sPending 1 = true)
  let g0 := g.sset 0 (BitVec.ofNat 32 r0)
  (busy → exec i s = .next s) ∧
  (¬ busy → exec i s = .next (((u.withdraw [h]).setGrp (.group h) ((r1.map (fun w => g0.sset 1 w)).getD g0)).resumeGroup h))

/-- 11 R242: the firmware's services: FRGREQ grants a rectangle of free tiles within the quota, or answers 2 for a bad request, 3
for the quota and 1 where no rectangle is free; FTRUST answers whether a digest is trusted; FVERIFY enrols the digest of an image whose signature a key
verifies. The results go to s0 and s1 and the group goes on; with a producer in flight for one of them the call waits.
19 R432: a code from 0x43 to 0x7F, for which there is no service, is logged and answered with 0xFFFFFFFF.
That a fixed rectangle past the grid's edge is a bad request is the model's choice (log entry 87), as are that the granted origin and region
number come with the event (55), and that a signature is checked as FIPS 205 says and has its length (11, 12); the firmware's own log is a field
of the model (88). -/
def Obligations.FabricServices : Prop :=
  (∀ (s : State) (h : Handle) (ox oy rid : Nat) (g : Group), s.calling h 0x40 = some g →
    let a := (g.sget 1).toNat
    let ctx := s.ctxOfParty (.group h)
    let k := a / 256 % 8
    let w := a % 16
    let ht := a / 16 % 16
    ((2 ^ 18 ≤ a ∨ w = 0 ∨ 8 < w ∨ ht = 0 ∨ 8 < ht) → ServiceAnswers (.frgreq h ox oy rid) s s h g 2 none) ∧
    let fixed := a / 2048 % 2 = 1
    let fx := a / 4096 % 8
    let fy := a / 32768 % 8
    ((fixed ∧ (8 < fx + w ∨ 8 < fy + ht)) → ServiceAnswers (.frgreq h ox oy rid) s s h g 2 none) ∧
    (a < 2 ^ 18 → 0 < w → w ≤ 8 → 0 < ht → ht ≤ 8 → (fixed → fx + w ≤ 8 ∧ fy + ht ≤ 8) →
      ((s.ctxOf ctx).quota < s.tilesOf ctx + w * ht → ServiceAnswers (.frgreq h ox oy rid) s s h g 3 none) ∧
      (s.tilesOf ctx + w * ht ≤ (s.ctxOf ctx).quota → (∀ x y, (fixed → x = fx ∧ y = fy) → x + w ≤ 8 → y + ht ≤ 8 →
        ∃ i ∈ (Rect.mk x y w ht).tiles, (s.stackOf k).grantable ctx i = false) →
        ServiceAnswers (.frgreq h ox oy rid) s s h g 1 none) ∧
      (s.tilesOf ctx + w * ht ≤ (s.ctxOf ctx).quota → ox + w ≤ 8 → oy + ht ≤ 8 → rid < 64 → (fixed → ox = fx ∧ oy = fy) →
        (∀ i ∈ (Rect.mk ox oy w ht).tiles, (s.stackOf k).grantable ctx i = true) →
        (∀ i, i < 64 → ¬ (((s.stackOf k).tile i).ownV = true ∧ ((s.stackOf k).tile i).ownRid = rid)) →
        (s.stackOf k).lent.any (fun l => l.1 = rid) = false → (s.stackOf k).runs.any (fun r => r.rid = rid && r.st.live) = false →
        ServiceAnswers (.frgreq h ox oy rid) s
          ((Rect.mk ox oy w ht).tiles.foldl (fun (s : State) (i : Nat) => s.updTile k i (fun t => { t with ownV := true, ownCtx := ctx, ownRid := rid }))
            (s.eraseTiles k (Rect.mk ox oy w ht).tiles)) h g 0 (some (regionWord k rid (Rect.mk ox oy w ht)))))) ∧
  (∀ (s s1 : State) (h : Handle) (g : Group) (l : List Byte), s.calling h 0x41 = some g →
    s.readVa (coreDie h.core) (s.ctxOfParty (.group h)) (g.spair 2) 32 = (s1, some l) →
    ServiceAnswers (.ftrust h) s s1 h g (if s1.plat.trust.contains (BitVec.ofNat 256 (ofBytes l)) then 0 else 1) none) ∧
  (∀ (s s1 s2 : State) (h : Handle) (g : Group) (img sig : List Byte), s.calling h 0x42 = some g →
    s.readVa (coreDie h.core) (s.ctxOfParty (.group h)) (g.spair 2) (g.sget 6).toNat = (s1, some img) →
    s1.readVa (coreDie h.core) (s.ctxOfParty (.group h)) (g.spair 4) slhBytes = (s2, some sig) →
    let verifies := ∃ key ∈ s2.plat.keys, slhVerify (toBytes 32 key.toNat) img sig = true
    (¬ verifies → ServiceAnswers (.fverify h) s s2 h g 1 none) ∧
    (verifies → imgDigest img ∈ s2.plat.trust → ServiceAnswers (.fverify h) s s2 h g 0 none) ∧
    (verifies → imgDigest img ∉ s2.plat.trust → 1024 ≤ s2.plat.trust.length → ServiceAnswers (.fverify h) s s2 h g 2 none) ∧
    (verifies → imgDigest img ∉ s2.plat.trust → s2.plat.trust.length < 1024 →
      ServiceAnswers (.fverify h) s { s2 with plat.trust := s2.plat.trust ++ [imgDigest img] } h g 0 none)) ∧
  (∀ (s : State) (h : Handle) (g : Group) (r : TrapRec) (code : Nat), s.calling h code = some g → s.grp? (.group h) = some g →
    g.trap = some r → r.aux = BitVec.ofNat 64 code → 0x43 ≤ code → code ≤ 0x7F →
    (g.sPending 0 = true → s.noService h = s) ∧
    (g.sPending 0 = false → ∃ u : State, u = { s with plat.svcLog := s.plat.svcLog ++ [(handleCode h, code)] } ∧
      s.noService h = ((u.withdraw [h]).setGrp (.group h) (g.sset 0 0xFFFFFFFF)).resumeGroup h))

/-- 11 R262, 11 R265: the Ranger's control of tiles and runs while no command is BUSY: FBOWN selects a tile, or writes its owner
entry and erases a tile that changes hands; DRAIN drains a run, RESUME makes a run it drained PENDING, LEND and RETURN note a
lent region, KILL kills a region and ERASE erases its tiles, code 7 and above read BADCMD; a command that finds no region or run reads
1, one whose run, tiles or region do not allow it 2; a BUSY unit turns FBOWN's write and every command away with code 4. FBSACT answers
a stalled stream. That a write of FBOWN with V = 0 keeps RID and CTX as written is the model's reading (log entry 67). -/
def Obligations.RegionCommands : Prop :=
  (∀ (s : State) (r : Nat) (v : Word), r < s.rangers.length → s.dev.fbrBusy = none →
    let k := v.toNat / 2 ^ 27 % 8
    let i := v.toNat / 2 ^ 21 % 64
    (v.getLsbD 30 = false → ((s.tile k i).ownV = true → ∀ q ∈ (s.stackOf k).runs, q.rid ≠ (s.tile k i).ownRid) →
      (v.getLsbD 31 = true → v.toNat % 256 = (s.tile k i).ownCtx → exec (.fbownWrite r v) s = .next
        (State.updTile { s with dev.fbown := v, dev.fbrstat := 0 } k i (fun t => { t with
          ownV := true, ownCtx := v.toNat % 256, ownRid := v.toNat / 2 ^ 15 % 64 }))) ∧
      ((v.getLsbD 31 = false ∨ v.toNat % 256 ≠ (s.tile k i).ownCtx) → exec (.fbownWrite r v) s = .next
        (State.updTile (State.updTile { s with dev.fbown := v, dev.fbrstat := 0 } k i Tile.erase) k i (fun t => { t with
          ownV := v.getLsbD 31, ownCtx := v.toNat % 256, ownRid := v.toNat / 2 ^ 15 % 64 })))) ∧
    (v.getLsbD 30 = false → (s.tile k i).ownV = true → (∃ q ∈ (s.stackOf k).runs, q.rid = (s.tile k i).ownRid ∧ (q.st.holds = true ∨
        ((q.st = .pending ∨ q.st = .drained) ∧ (s.stackOf k).lent.any (fun l => l.1 = (s.tile k i).ownRid) = false))) →
      exec (.fbownWrite r v) s = .next { s with dev.fbrstat := 2 })) ∧
  (∀ (s : State) (r : Nat) (v : Word), r < s.rangers.length → v.getLsbD 30 = true →
    exec (.fbownSelect r v) s = .next { s with dev.fbown := v }) ∧
  (∀ (s : State) (r : Nat) (v : Word) (ctx : Nat) (tiles : List Nat), r < s.rangers.length → s.dev.fbrBusy = none →
    let k := v.toNat / 2 ^ 24 % 8
    let rid := v.toNat / 2 ^ 15 % 64
    let slot := v.toNat / 2 ^ 21 % 8
    let cmd := v.toNat / 2 ^ 28 % 16
    let lent := (s.stackOf k).lent.any (fun l => l.1 = rid)
    let ok := fun (u : State) => { u with dev.fbrstat := 0 }
    let code := fun (c : Word) => { s with dev.fbrstat := c }
    let owned := ∀ i ∈ tiles, ((s.stackOf k).tile i).ownV = true ∧ ((s.stackOf k).tile i).ownCtx = ctx ∧ ((s.stackOf k).tile i).ownRid = rid
    (s.stackOf k).regionBy rid = some (ctx, tiles) →
    (∀ q, cmd = 1 → (s.stackOf k).run rid slot = some q → q.st = .pending → exec (.drainCmd r v) s = .next (ok
      ((s.updRun k q (fun q => { q with rangerDrained := true })).updRun k q (fun q => { q with st := .drained })))) ∧
    (∀ q, cmd = 1 → (s.stackOf k).run rid slot = some q → q.st = .running → exec (.drainCmd r v) s = .next
      { ok ((s.updRun k q (fun q => { q with rangerDrained := true })).updRun k q (fun q => { q with st := .draining })) with
        dev.fbrBusy := some (k, rid, slot) }) ∧
    (∀ q, cmd = 1 → (s.stackOf k).run rid slot = some q → q.st = .loading → exec (.drainCmd r v) s = .next
      { ok ((s.updRun k q (fun q => { q with rangerDrained := true })).updRun k q (fun q => { q with drainAsked := true })) with
        dev.fbrBusy := some (k, rid, slot) }) ∧
    (∀ q, cmd = 1 → (s.stackOf k).run rid slot = some q → q.st ≠ .pending → q.st ≠ .loading → q.st ≠ .running →
      exec (.drainCmd r v) s = .next (code 2)) ∧
    ((s.stackOf k).run rid slot = none → (cmd = 1 → exec (.drainCmd r v) s = .next (code 1)) ∧
      (cmd = 2 → exec (.resumeCmd r v) s = .next (code 1))) ∧
    (∀ q, cmd = 2 → (s.stackOf k).run rid slot = some q → (q.st ≠ .drained ∨ q.rangerDrained = false) →
      exec (.resumeCmd r v) s = .next (code 2)) ∧
    (∀ q, cmd = 2 → (s.stackOf k).run rid slot = some q → q.st = .drained → q.rangerDrained = true →
      exec (.resumeCmd r v) s = .next (ok (s.resumeRun k q))) ∧
    (cmd = 3 → lent = false → exec (.lendCmd r v) s = .next (ok (s.updStack k (fun st => { st with lent := st.lent ++ [(rid, ctx, tiles)] })))) ∧
    (cmd = 3 → lent = true → exec (.lendCmd r v) s = .next (ok s)) ∧
    (cmd = 4 → ¬ owned → exec (.returnCmd r v) s = .next (code 2)) ∧
    (lent = true → (cmd = 5 → exec (.killCmd r v) s = .next (code 2)) ∧ (cmd = 6 → exec (.eraseCmd r v) s = .next (code 2))) ∧
    (cmd = 4 → owned →
      exec (.returnCmd r v) s = .next (ok (s.updStack k (fun st => { st with lent := st.lent.filter (fun l => l.1 != rid) })))) ∧
    (cmd = 5 → lent = false → exec (.killCmd r v) s = .next (ok (s.killRegion k rid tiles))) ∧
    (cmd = 6 → lent = false → exec (.eraseCmd r v) s = .next (ok (s.eraseTiles k tiles))) ∧
    (7 ≤ cmd → exec (.fbrcmdBadcmd r v) s = .next { s with dev.fbrstat := 3 })) ∧
  (∀ (s : State) (r : Nat) (v : Word) (i : Instr), r < s.rangers.length → s.dev.fbrBusy = none →
    (s.stackOf (v.toNat / 2 ^ 24 % 8)).regionBy (v.toNat / 2 ^ 15 % 64) = none →
    let cmd := v.toNat / 2 ^ 28 % 16
    (i = .drainCmd r v ∧ cmd = 1) ∨ (i = .resumeCmd r v ∧ cmd = 2) ∨ (i = .lendCmd r v ∧ cmd = 3) ∨ (i = .returnCmd r v ∧ cmd = 4) ∨
      (i = .killCmd r v ∧ cmd = 5) ∨ (i = .eraseCmd r v ∧ cmd = 6) → exec i s = .next { s with dev.fbrstat := 1 }) ∧
  (∀ (s : State) (r : Nat) (v : Word) (i : Instr) (b : Nat × Nat × Nat), r < s.rangers.length → s.dev.fbrBusy = some b →
    let cmd := v.toNat / 2 ^ 28 % 16
    (i = .fbownWrite r v ∧ v.getLsbD 30 = false) ∨ (i = .drainCmd r v ∧ cmd = 1) ∨ (i = .resumeCmd r v ∧ cmd = 2) ∨
      (i = .lendCmd r v ∧ cmd = 3) ∨ (i = .returnCmd r v ∧ cmd = 4) ∨ (i = .killCmd r v ∧ cmd = 5) ∨ (i = .eraseCmd r v ∧ cmd = 6) ∨
      (i = .fbrcmdBadcmd r v ∧ 7 ≤ cmd) →
    exec i s = .next { s with dev.fbrstat := 4 }) ∧
  (∀ (s : State) (r : Nat) (v : Word) (q : FabRun) (rc : Rec) (d : StreamSt), r < s.rangers.length →
    let t : TileId := { stack := v.toNat / 2 ^ 11 % 8, y := v.toNat / 2 ^ 8 % 8, x := v.toNat / 2 ^ 5 % 8 }
    let n := v.toNat / 8 % 4
    (v.toNat % 4 = 1 → (s.answerFault t n 1).streamAt t n = some (q, rc, d) → q.st = .running → d.phase = .stalled → d.answer = 1 →
      exec (.fbsactRetry r v) s = .next ((s.answerFault t n 1).setStream t n
        { d with phase := if rc.gate && !d.opened then .waiting else .walking, answer := 0, retry := true })) ∧
    (v.toNat % 4 = 2 → (s.answerFault t n 2).streamAt t n = some (q, rc, d) → q.st = .running → d.phase = .stalled → d.answer = 2 →
      exec (.fbsactUnresolvable r v) s = .next ((s.answerFault t n 2).streamFails t n q rc 3)))

/-- 12 R270 to R273: a window access reads or writes the item that SYS.WADDR names of the selected stopped group, advances
SYS.WADDR and records its code; an access to a running group, to no group or to an unmapped item changes only those two.
A vector register's item is its register times 32 plus its lane. (That SYS.WADDR advances after a refused access too is log entry 45.) -/
def Obligations.WindowAccess : Prop :=
  (∀ (s : State) (r : Nat) (v : Word), r < s.rangers.length →
    let a := (s.rg r).waddr.toNat
    let done := fun (u : State) (c : Word) => u.setRg r { u.rg r with waddr := (u.rg r).waddr + 1, wstat := c }
    (s.selected r = none → exec (.windowRead r) s = .next (done s 1) ∧ exec (.windowWrite r v) s = .next (done s 1)) ∧
    (∀ h g, s.selected r = some (h, g) → g.stopped = false →
      exec (.windowRead r) s = .next (done s 2) ∧ exec (.windowWrite r v) s = .next (done s 2)) ∧
    (∀ h g, s.selected r = some (h, g) → g.stopped = true →
      (exec (.windowRead r) s = .next (done s (if (g.item a).isSome then 0 else 4))) ∧
      (exec (.windowWrite r v) s = .next (done (s.setGrp (.group h) (g.setItem (s.privMaxOf h) a v).2) (g.setItem (s.privMaxOf h) a v).1.val)))) ∧
  (∀ (g : Group) (n l : Nat) (v : Word) (m : Nat), n < g.alloc → n < 512 → l < 32 → g.vPending n = false →
    g.item (32 * n + l) = some (g.vget n l) ∧ g.setItem m (32 * n + l) v = (.ok, g.vset n l v)) ∧
  (∀ (g : Group) (a m : Nat) (v : Word), itemReadOnly a = true → g.setItem m a v = (.ronly, g))

/-- 12 R274, 12 R286, 12 R269, 12 R285: commands on the selected group: STOP stops it at its next run boundary, STEP resumes it
for one word, TERMINATE ends its lanes and logs its handle, PREEMPT starts a save of its cluster set; RELEASE lets a saved
set return, a reserved code reads BADCMD. TQTAKE takes the oldest trapped group; DBSYNC has the context's blocks reload. That STOP at a run
boundary stops at once, and that TERMINATE withdraws the group's queued handle, is the model's reading (log entry 45); that a PREEMPT of a
set whose save has begun joins that save is its choice (log entry 88). -/
def Obligations.GroupCommands : Prop :=
  (∀ (s : State) (r : Nat) (h : Handle) (g : Group), r < s.rangers.length → s.selected r = some (h, g) →
    (g.stopped = false → g.run = none → exec (.stopCmd r) s = .next ((s.setGrp (.group h) { g with stopped := true }).setWstat r 0)) ∧
    (g.stopped = false → g.run ≠ none → exec (.stopCmd r) s = .next ((s.setGrp (.group h) { g with stopReq := true }).setWstat r 0)) ∧
    (g.stopped = true → (∀ t, g.trap = some t → t.fatal = false) → twice g.live g.tab = false →
      ∀ q, ((s.setWstat r 0).resumeGroup h).grp? (.group h) = some q →
      exec (.stepCmd r) s = .next (((s.setWstat r 0).resumeGroup h).setGrp (.group h) { q with stepping := true })) ∧
    (∀ t, g.stopped = true → g.trap = some t → t.fatal = true → exec (.stepCmd r) s = .next (s.setWstat r 7)) ∧
    (g.stopped = false → exec (.stepCmd r) s = .next (s.setWstat r 2)) ∧
    (exec (.terminateCmd r) s = .next ((s.terminate h).setWstat r 0)) ∧
    (∀ b hold, s.blockOf h = some b → (∀ o ∈ s.sched.saveOps, ¬ (o.launch = b.launch ∧ o.cset = b.cset)) →
      ∃ t, exec (.preemptCmd r hold) s = .next t ∧ t.sched.saveOps = s.sched.saveOps ++ [⟨b.launch, b.cset, [r], hold⟩]) ∧
    (∀ b hold pre o post, s.blockOf h = some b → s.sched.saveOps = pre ++ o :: post → o.launch = b.launch → o.cset = b.cset →
      (∀ y ∈ pre, ¬ (y.launch = b.launch ∧ y.cset = b.cset)) →
      exec (.preemptCmd r hold) s = .next
        { s with sched.saveOps := pre ++ { o with by_ := o.by_ ++ [r], hold := o.hold || hold } :: post })) ∧
  (∀ (s : State) (h : Handle) (g : Group), s.grp? (.group h) = some g →
    let u := (s.logOne (coreDie h.core) 0x0B (s.ctxOfParty (.group h)) 0 ((handleCode h).setWidth 64)).withdraw [h]
    ∃ g', s.terminate h = (u.setGrp (.group h) g').afterExit h ∧ g'.live = 0 ∧ g'.trap = none ∧ g'.stopped = false) ∧
  (∀ (s : State) (r : Nat), r < s.rangers.length →
    let mine := fun (v : SavedSet) => decide (v.ticket = (s.rg r).waddr.setWidth 16) && !v.restoring
    let saved := updFirst mine (fun (v : SavedSet) => { v with hold := false, resumable := true }) s.sched.saved
    ((∃ v ∈ s.sched.saved, mine v = true) → exec (.releaseCmd r) s = .next (State.setWstat { s with sched.saved := saved } r 0)) ∧
    ((∀ v ∈ s.sched.saved, mine v = false) → exec (.releaseCmd r) s = .next (s.setWstat r 1))) ∧
  (∀ (s : State) (r : Nat) (v : Word), r < s.rangers.length → 6 ≤ v.toNat % 16 → exec (.wcmdBadcmd r v) s = .next (s.setWstat r 8)) ∧
  (∀ (s : State) (r : Nat) (h : Handle) (l : List Handle), r < s.rangers.length →
    nth [] s.plat.trapq (partyDie (.ranger r)) = h :: l →
    exec (.tqtake r) s = .next { s with plat.trapq := setNth s.plat.trapq (partyDie (.ranger r)) l } ∧
    (s.tqTake r).2 = (handleCode h).setWidth 32) ∧
  (∀ (s : State) (r : Nat), r < s.rangers.length → nth [] s.plat.trapq (partyDie (.ranger r)) = [] →
    exec (.tqtake r) s = .next s ∧ (s.tqTake r).2 = 0xFFFFFFFF) ∧
  (∀ (s : State) (r : Nat) (v : Word), r < s.rangers.length →
    exec (.dbsync r v) s = .next { s with blocks := s.blocks.map (fun b =>
      if (s.hdrOfBlock b).ctx = v.toNat % 256 then { b with bkReload := true } else b) })

/-- 06 R143, 06 R144: a command with GO set is latched with its address and the register reads BUSY; a second one while it runs
is refused with ERR, as is one of mode 3; at its end, which waits for the batches that have still to write a window it names, every
cached translation that it names is gone from every reader, the page tables and memory unchanged. That the range base is latched at the
write, and that the entries go together at the end, is the model's reading (log entry 47). -/
def Obligations.TranslationInvalidation : Prop :=
  (∀ (s : State) (r : Nat) (v : Word) (i : Instr) (m : Nat), r < s.rangers.length → v.toNat % 2 = 1 → v.toNat / 4 % 4 = m →
    (i = .tlbiRange r v ∧ m = 0) ∨ (i = .tlbiContext r v ∧ m = 1) ∨ (i = .tlbiAll r v ∧ m = 2) →
    (s.dev.tlbiRun = none → ∃ w, exec i s = .next { s with dev.tlbicmd := w, dev.tlbiRun := some (w, s.dev.tlbivahi ++ s.dev.tlbivalo) } ∧
      w &&& 0x00FF07FC = v &&& 0x00FF07FC) ∧
    (s.dev.tlbiRun.isSome = true → exec i s = .next { s with dev.tlbicmd := s.dev.tlbicmd ||| 2 })) ∧
  (∀ (s : State) (w : Word) (b : DWord), s.dev.tlbiRun = some (w, b) → s.tlbiHeld w b = true → exec .tlbiComplete s = .next s) ∧
  (∀ (s : State) (w : Word) (b : DWord), s.dev.tlbiRun = some (w, b) → s.tlbiHeld w b = false → ∃ tlb walks,
    exec .tlbiComplete s = .next { s with dev.tlbiRun := none, tlb := tlb, walks := walks } ∧
    (∀ e ∈ tlb, e ∈ s.tlb) ∧
    (w.toNat / 4 % 4 = 0 → ∀ e ∈ tlb, e.leaf.getLsbD 5 = false → e.ctx = w.toNat / 65536 % 256 →
      let n := w.toNat / 64 % 32
      let lo := b.toNat / 2 ^ (12 + n) * 2 ^ (12 + n)
      e.va + 2 ^ e.size ≤ lo ∨ lo + 2 ^ (12 + n) ≤ e.va) ∧
    (w.toNat / 4 % 4 = 1 → ∀ e ∈ tlb, e.va < 2 ^ 64 → e.leaf.getLsbD 5 = false → e.ctx ≠ w.toNat / 65536 % 256) ∧
    (w.toNat / 4 % 4 = 2 → ∀ e ∈ tlb, e.va < 2 ^ 64 → e.leaf.getLsbD 5 = true ∧ w.getLsbD 4 = false) ∧
    (w.getLsbD 5 = false → walks = s.walks)) ∧
  (∀ (f : FmtS) (s : State) (x : Issue) (r : Nat), s.issues (.syswr f) = some x → x.party = .ranger r → f.sysnum = 0x212 →
    let v := x.g.sget f.reg.toNat
    let u := retire x x.g s
    v.getLsbD 0 = true → v.toNat / 4 % 4 = 3 ∨ u.dev.tlbiRun.isSome = true →
    exec (.syswr f) s = .next { u with dev.tlbicmd := u.dev.tlbicmd ||| 2 })

/-- 13 R289, 13 R290, 13 R291, 13 R292, 13 R299: RESERVE gives the next free slot and marks it reserved, or all ones; COMMIT of the
oldest reserved slot commits or cancels it, any other is logged; a write into a reserved launch slot is stored, into any
other logged; TAIL frees entries up to the head; an access that BAR0 does not answer is aborted and logged; BAR2 reaches
memory at its home, HBM from offset 0 and the capacity tier from offset 2^40 of its full size. That a host's violation is logged on die 0 with
the offset as its ADDR, and what BAR2's accesses meet, are the model's readings and choices (log entries 62, 32, 60). -/
def Obligations.HostAccesses : Prop :=
  (∀ (s : State) (mb : Nat), mb < 256 → s.plat.bootFailed = false →
    let m := s.mb mb
    (m.en = true → m.slot m.rptr = .free → m.rptr < 256 → exec (.mbReserve mb) s = .next (State.emit (s.setMb mb { m with
        slots := put m.slots m.rptr .reserved, rptr := (m.rptr + 1) % 256 }) (.hostData (toBytes 4 m.rptr)))) ∧
    ((m.en = false ∨ m.slot m.rptr ≠ .free) → exec (.mbReserve mb) s = .next (s.emit (.hostData [0xFF, 0xFF, 0xFF, 0xFF])))) ∧
  (∀ (s : State) (mb : Nat) (v : Word), mb < 256 → s.plat.bootFailed = false →
    let m := s.mb mb
    (v.toNat % 2 ^ 31 = m.cptr → m.cptr < 256 → m.slot m.cptr = .reserved → exec (.mbCommit mb v) s = .next (s.setMb mb { m with
        slots := put m.slots m.cptr (if v.getLsbD 31 then .cancelled else .committed), cptr := (m.cptr + 1) % 256 })) ∧
    ((v.toNat / 256 % 2 ^ 23 ≠ 0 ∨ v.toNat % 256 ≠ m.cptr ∨ m.slot m.cptr ≠ .reserved) → exec (.mbCommit mb v) s = .next (s.logPlain 0 0x03 m.ctx (BitVec.ofNat 64 (0x1000 * mb + 8))))) ∧
  (∀ (s : State) (mb slot o : Nat) (data : List Byte), mb < 256 → slot < 256 → o < 128 → o % data.length = 0 →
    data.length = 4 ∨ data.length = 8 → s.plat.bootFailed = false →
    let off := 0x400000 + 0x8000 * mb + 0x80 * slot + o
    let m := s.mb mb
    (m.slot slot = .reserved → ∃ d, exec (.launchSlotWrite off data) s = .next (s.setMb mb { m with data := d }) ∧
      (m.data.wf = true → ∀ i, Sparse.get d (0x80 * slot + i) =
        if o ≤ i ∧ i < o + data.length then nth 0 data (i - o) else Sparse.get m.data (0x80 * slot + i))) ∧
    (m.slot slot ≠ .reserved → exec (.launchSlotWrite off data) s = .next (s.logPlain 0 0x03 m.ctx (BitVec.ofNat 64 off)))) ∧
  (∀ (s : State) (die : Nat) (v : Word), die < 2 → die < s.plat.logs.length →
    let lg := nth ErrLog.blank s.plat.logs die
    ((lg.head - v).toNat ≤ 64 → exec (.logTail die v) s = .next { s with plat.logs := setNth s.plat.logs die { lg with tail := v } }) ∧
    (64 < (lg.head - v).toNat → exec (.logTail die v) s = .next s)) ∧
  (∀ (s : State) (off : Nat) (v : DWord), off % 4 = 0 → s.plat.bootFailed = false →
    (off = 0x100048 → exec (.registerWrite off v false) s = .next { s with plat.errvec := v.setWidth 32 &&& 0x7FF }) ∧
    (off = 0x100000 → s.plat.mgstat ≠ 1 → exec (.registerWrite off v false) s = .next { s with plat.mgcmd := v.setWidth 32, plat.mgstat := 1 }) ∧
    (off = 0x100000 → s.plat.mgstat = 1 → exec (.registerWrite off v false) s = .next s)) ∧
  (∀ (s : State) (off : Nat) (acc : HostAccess), off % 4 ≠ 0 ∨ 0x130000 ≤ off ∧ off < 0x400000 ∨ 0xC00000 ≤ off →
    exec (.bar0Violation off acc) s = .next ((s.emit .completerAbort).logPlain 0 0x06 0 (BitVec.ofNat 64 off))) ∧
  (∀ (s u : State) (off n v : Nat), s.bar0Read off n = some (u, v) → exec (.bar0Violation off (.read n)) s = .next (u.emit (.hostData (toBytes n v)))) ∧
  (∀ (s u : State) (off : Nat) (d : List Byte), s.bar0Write off d.length (ofBytes d) = some u → exec (.bar0Violation off (.write d)) s = .next u) ∧
  (∀ (s : State) (off n : Nat) (l : List Nat), s.plat.bootFailed = false → n ≤ 4096 → s.bar2Span off n = some l →
    (∀ a ∈ l, s.lineOwned a = false ∧ s.poisoned a = false) →
    exec (.hostBar2Access off (.read n)) s = .next (State.emit { s with fresh := s.fresh + n } (.hostData (l.map (fun a => s.byte a))))) ∧
  (∀ (s : State) (off : Nat) (d : List Byte) (l : List Nat), s.plat.bootFailed = false → d.length ≤ 512 → s.bar2Span off d.length = some l →
    (∀ a ∈ l, s.lineOwned a = false) → exec (.hostBar2Access off (.write d)) s = .next (s.homePut (l.headD 0) d)) ∧
  (∀ (s : State) (off n : Nat), s.plat.bar2Log = 42 → off + n ≤ 2 ^ 39 → s.bar2Span off n = some ((List.range n).map (fun i => off + i))) ∧
  (∀ (s : State) (off n : Nat), s.plat.bar2Log = 42 → 2 ^ 40 ≤ off → off + n ≤ 2 ^ 42 →
    s.bar2Span off n = some ((List.range n).map (fun i => ctBase + (off - 2 ^ 40 + i)))) ∧
  (∀ (s : State) (pa : Nat) (d : List Byte), Memory.wf s.mem = true → ∀ a, (s.homePut pa d).byte a =
    if pa ≤ a ∧ a < pa + d.length then nth 0 d (a - pa) else s.byte a)

/-- 13 R293, 13 R295, 13 R298, 12 R287: a management command that runs ends OK with its effect, BADARG where an argument has a bit
or a value that its packing does not allow, NORES or BADCMD as the table says; CFGKEY also extends MR7, and reads NORES with 16 keys
enrolled. That an argument's bits that no packing names must be zero, and the order of CFGKEY's checks, is the model's reading (log entry
59), as are the root entry that CTXCREATE writes (57) and what CTXDESTROY ends (58). -/
def Obligations.ManagementCommands : Prop :=
  ∀ (s : State), s.plat.mgstat = 1 →
    let arg := fun (i : Nat) => (nth 0 s.plat.mgargs i).toNat
    let one := arg 1 = 0 ∧ arg 2 = 0 ∧ arg 3 = 0
    let two := arg 2 = 0 ∧ arg 3 = 0
    let memory := fun (pa : Nat) => (∃ k, region pa = .hbm k) ∨ region pa = .ct
    let fin := fun (u : State) (c : Word) => { u with plat.mgstat := c }
    (s.plat.mgcmd = 1 → arg 0 < 2 ^ 14 → arg 1 % 2 ^ 12 = 0 → arg 1 < 2 ^ 52 → two → (s.ctxOf (arg 0 % 256)).valid = false →
      s.quarantined (arg 0 % 256) = false → ∃ t, exec .ctxcreate s = .next t ∧ t.plat.mgstat = 0 ∧
      (t.ctxOf (arg 0 % 256)).valid = true ∧ (t.ctxOf (arg 0 % 256)).ceiling = arg 0 / 256 ∧ t.plat.bootstat.getLsbD 8 = true) ∧
    (s.plat.mgcmd = 1 → arg 0 < 2 ^ 14 → arg 1 % 2 ^ 12 = 0 → arg 1 < 2 ^ 52 → two → (s.ctxOf (arg 0 % 256)).valid = true →
      exec .ctxcreate s = .next (fin s 4)) ∧
    (s.plat.mgcmd = 2 → arg 0 < 256 → one → ∃ t, exec .ctxdestroy s = .next (fin t 0) ∧ (t.ctxOf (arg 0)).valid = false ∧
      ((s.ctxOf (arg 0)).valid = true → ∀ l ∈ t.launches, l.hdr.ctx ≠ arg 0)) ∧
    (s.plat.mgcmd = 3 → arg 0 / 2 ^ 24 = 1 → arg 1 < 2048 ∨ arg 1 = 0xFFFF → two → exec .mbbind s = .next (fin (s.setMb (arg 0 % 256)
      { s.mb (arg 0 % 256) with ctx := arg 0 / 256 % 256, queue := arg 0 / 65536 % 256, vector := BitVec.ofNat 16 (arg 1), en := true, closing := false }) 0)) ∧
    (s.plat.mgcmd = 3 → arg 0 < 2 ^ 24 → arg 1 < 2048 ∨ arg 1 = 0xFFFF → two →
      let m := s.mb (arg 0 % 256)
      let busy := m.slots.any (fun k => k.2 = .committed || k.2 = .cancelled)
      (busy = false → exec .mbbind s = .next (fin (s.setMb (arg 0 % 256) { m with
        ctx := arg 0 / 256 % 256, queue := arg 0 / 65536 % 256, vector := BitVec.ofNat 16 (arg 1), en := false, closing := false, slots := [], rptr := 0, cptr := 0, dptr := 0 }) 0)) ∧
      (busy = true → exec .mbbind s = .next (s.setMb (arg 0 % 256) { m with en := false, closing := true }))) ∧
    (s.plat.mgcmd = 4 → arg 0 < 65536 → one → exec .qassign s = .next (fin
      { s with sched.queueOwner := put s.sched.queueOwner (arg 0 % 256) (arg 0 / 256) } 0)) ∧
    (s.plat.mgcmd = 5 → arg 0 % 2 ^ 32 < 256 → arg 1 % 4096 = 0 → arg 2 % 4096 = 0 → arg 3 % 4096 = 0 →
      exec .savepool s = .next (fin (s.updCtx (arg 0 % 256) (fun c => { c with savePool := BitVec.ofNat 64 (arg 1), savePoolBytes := arg 2, detLog := BitVec.ofNat 64 (arg 3), detLogPages := arg 0 / 2 ^ 32 })) 0)) ∧
    (s.plat.mgcmd = 6 → arg 0 < 4096 → one → exec .powercap s = .next (fin { s with plat.powercap := max 1200 (min 2500 (arg 0)) } 0)) ∧
    (s.plat.mgcmd = 7 → arg 0 % 32 ≤ 16 → arg 0 / 32 % 8 = 0 → arg 0 < 2 ^ 17 → two →
      let seg := put s.plat.segments (256 * (arg 0 % 32) + arg 0 / 256 % 256) ⟨arg 0 / 65536 = 1, BitVec.ofNat 64 (arg 1 / 2 ^ 26 * 2 ^ 26)⟩
      exec .segmap s = .next (fin { s with plat.segments := seg } 0)) ∧
    (s.plat.mgcmd = 8 → arg 0 = 0xF2EE → one → exec .freezeCmd s = .next { fin s 0 with frozen := true }) ∧
    (s.plat.mgcmd = 8 → arg 0 ≠ 0xF2EE → one → exec .freezeCmd s = .next (fin s 2)) ∧
    (s.plat.mgcmd = 9 → s.plat.bootstat.getLsbD 7 = true → s.plat.bootstat.getLsbD 8 = false → arg 0 % 32 = 0 → memory (arg 0) → one →
      (s.plat.keys.length < 16 → (∀ i, i < 32 → s.poisoned (arg 0 + i) = false) →
        let key := (List.range 32).map (fun i => s.byte (arg 0 + i))
        ∃ t, exec .cfgkey s = .next t ∧ t.plat.mgstat = 0 ∧ t.plat.keys = s.plat.keys ++ [BitVec.ofNat 256 (ofBytes key)] ∧
          t.plat.mrs = setNth s.plat.mrs 7 (digestOf (toBytes 32 (nth 0 s.plat.mrs 7).toNat ++ sha256 key))) ∧
      (16 ≤ s.plat.keys.length → exec .cfgkey s = .next (fin s 4))) ∧
    (s.plat.mgcmd = 9 → s.plat.bootstat.getLsbD 8 = true ∨ s.plat.bootstat.getLsbD 7 = false → exec .cfgkey s = .next (fin s 3)) ∧
    (∀ i c sound, (i, c, sound) ∈
      [(Instr.ctxcreate, 1, arg 0 < 2 ^ 14 ∧ arg 1 % 2 ^ 12 = 0 ∧ arg 1 < 2 ^ 52 ∧ two), (.ctxdestroy, 2, arg 0 < 256 ∧ one),
       (.mbbind, 3, arg 0 < 2 ^ 25 ∧ (arg 1 < 2048 ∨ arg 1 = 0xFFFF) ∧ two), (.qassign, 4, arg 0 < 65536 ∧ one),
       (.savepool, 5, arg 0 % 2 ^ 32 < 256 ∧ arg 1 % 4096 = 0 ∧ arg 2 % 4096 = 0 ∧ arg 3 % 4096 = 0), (.powercap, 6, arg 0 < 4096 ∧ one),
       (.segmap, 7, arg 0 % 32 ≤ 16 ∧ arg 0 / 32 % 8 = 0 ∧ arg 0 < 2 ^ 17 ∧ two), (.freezeCmd, 8, arg 0 = 0xF2EE ∧ one),
       (.cfgkey, 9, s.plat.bootstat.getLsbD 8 = true ∨ s.plat.bootstat.getLsbD 7 = false ∨ (arg 0 % 32 = 0 ∧ memory (arg 0) ∧ one)),
       (.fabquota, 10, arg 0 % 2 ^ 16 < 256 ∧ arg 0 / 2 ^ 16 ≤ 512 ∧ one)] →
      s.plat.mgcmd = BitVec.ofNat 32 c → ¬ sound → exec i s = .next (fin s 2)) ∧
    (s.plat.mgcmd = 10 → arg 0 % 2 ^ 16 < 256 → arg 0 / 2 ^ 16 ≤ 512 → one →
      exec .fabquota s = .next (fin (s.updCtx (arg 0 % 256) (fun c => { c with quota := arg 0 / 2 ^ 16 })) 0)) ∧
    (∀ c, s.plat.mgcmd = c → c = 0 ∨ 10 < c.toNat → exec (.mgcmdBadcmd c) s = .next (fin s 3))

/-- 13 R288, 13 R296, 12 R287: a cold reset leaves every field at its reset value and sets STAGE 1 and the image that was found, or
fails the boot; bring-up measures, sets STAGE 3 and LOCK, ends retry status and starts every Ranger; a function-level reset ends
every context's work and empties the mailboxes; configuration requests get retry status until bring-up, then identity and
BAR2's size; a freeze stops the module. (The measured digests and the firmware's entries are free values; the agenda, the output
and the counter of free values outlast a reset as the model's own fields. What a cold reset keeps, the digests of bring-up, what a function-level
reset ends and the registers of the configuration space are log entries 61, 13, 58 and 14; that every Ranger starts with one lane is the model's choice,
log entry 10.) -/
def Obligations.ResetAndBringup : Prop :=
  (∀ (s : State) (second : Bool), ∃ t, t = { State.reset with agenda := s.agenda, fresh := s.fresh, plat.out := s.plat.out } ∧
    exec (.coldReset true second) s = .next { t with plat.bootstat := 0x5 } ∧
    exec (.coldReset false true) s = .next { t with plat.bootstat := 0x9 } ∧
    exec (.coldReset false false) s = .next { t with plat.bootFailed := true, plat.crs := false }) ∧
  (∀ (s : State), s.plat.bootstat.toNat % 4 = 1 ∨ s.plat.bootstat.toNat % 4 = 2 → ∃ t, exec .bringupComplete s = .next t ∧ t.plat.crs = false ∧
    t.plat.bootstat = s.plat.bootstat ||| 0x83 ∧ t.rangers.length = s.rangers.length ∧ t.mem = s.mem ∧ t.blocks = s.blocks ∧
    (∀ r, r < s.rangers.length → (t.rg r).running = true ∧ (t.rg r).grp.live = 1) ∧
    ∀ i, i < s.plat.mrs.length → i < 8 → nth 0 t.plat.mrs i = digestOf (toBytes 32 (nth 0 s.plat.mrs i).toNat ++ toBytes 32 (Config.measurement i).toNat)) ∧
  (∀ (s : State), ∃ t, exec .functionLevelReset s = .next t ∧ (∀ c, c < 256 → (t.ctxOf c).valid = false) ∧
    (∀ mb k, (t.mb mb).slot k = .free) ∧ (∀ mb, mb < 256 → (t.mb mb).en = (s.mb mb).en)) ∧
  (∀ (s : State), exec .freezeJtag s = .next { s with frozen := true }) ∧
  (∀ (s : State) (q : ConfigReq), s.plat.crs = true → exec (.configRequest q) s = .next (s.emit .retryStatus)) ∧
  (∀ (s : State), s.plat.crs = false → exec (.configRequest (.read 0)) s = .next ((s.emit (.configDone 0 0x4B041F4C)).next)) ∧
  (∀ (s : State) (reg : Nat) (v : Word), s.plat.crs = false →
    exec (.configRequest (.read reg)) s = .next ((s.emit (.configDone reg (s.cfgReg reg))).next) ∧
    exec (.configRequest (.write reg v)) s = .next (s.emit (.configDone reg v))) ∧
  (∀ (s : State) (n : Nat), s.plat.crs = false →
    (s.plat.bootFailed = false → 30 ≤ n → n ≤ 42 → exec (.configRequest (.resizeBar2 n)) s = .next { s with plat.bar2Log := n }) ∧
    (s.plat.bootFailed = true → exec (.configRequest (.resizeBar2 n)) s = .next s))

/-- 13 R297: SPDM requests through DOE: version 1.3 and capabilities at once; algorithms when the host offers them, after which
digests, certificates, challenges and measurements of MR0 to MR7 are answered; retry status before bring-up, an error before
negotiation. (Signatures and certificates are free values.)
13 R298, 13 R294, 13 R295, 01 R12: a supply sag stretches its partition's clock and counts until the stretch ends; a peer's
request to an exposed segment is served at its home and any other is a violation; a link that goes down is logged and its
replies become faults; an uncorrectable memory error poisons its sector and is logged, a correctable one changes nothing. The errors that SPDM answers,
what a peer's request and a lost link answer, and what a memory error changes beyond its sector rest on log entries 63, 65 and 66. -/
def Obligations.PlatformEvents : Prop :=
  (∀ (s : State), s.plat.crs = false → s.plat.bootFailed = false →
     exec .getVersion s = .next (s.emit (.spdmVersion 0x13)) ∧
     exec .getCapabilities s = .next (s.emit .spdmCapabilities) ∧
     exec (.negotiateAlgorithms true) s = .next (State.emit { s with plat.spdmReady := true } (.spdmAlgorithms 1 1)) ∧
     (s.plat.spdmReady = true →
       exec .getDigests s = .next (s.emit (.spdmDigests (digestOf (Config.certificate 0)))) ∧
       (∀ off len, exec (.getCertificate 0 off len) s = .next (s.emit (.spdmCertificate (((Config.certificate 0).drop off).take len)))) ∧
       (∀ nonce, exec (.challenge 0 nonce) s = .next (s.emit (.spdmChallenge (Config.slhSign (toBytes 32 nonce.toNat))))) ∧
       (∀ ix nonce, ix < 8 → exec (.getMeasurements (ix + 1) nonce) s = .next (s.emit (.spdmMeasurement (ix + 1) (nth 0 s.plat.mrs ix)
         (Config.slhSign (toBytes 32 nonce.toNat ++ toBytes 32 (nth 0 s.plat.mrs ix).toNat)))))) ∧
     exec (.negotiateAlgorithms false) s = .next (State.emit { s with plat.spdmReady := false } .spdmError) ∧
     (∀ slot ix off len nonce, slot ≠ 0 → ix = 0 ∨ 8 < ix → exec (.getCertificate slot off len) s = .next (s.emit .spdmError) ∧
       exec (.challenge slot nonce) s = .next (s.emit .spdmError) ∧ exec (.getMeasurements ix nonce) s = .next (s.emit .spdmError)) ∧
     (∀ slot ix off len nonce, s.plat.spdmReady = false → ∀ i ∈ [Instr.getDigests, .getCertificate slot off len, .challenge slot nonce,
       .getMeasurements ix nonce], exec i s = .next (s.emit .spdmError))) ∧
  (∀ (s : State) (slot ix off len : Nat) (nonce : BitVec 256) (offers : Bool), ∀ i ∈ [Instr.getVersion, .getCapabilities,
     .negotiateAlgorithms offers, .getDigests, .getCertificate slot off len, .challenge slot nonce, .getMeasurements ix nonce],
     (s.plat.crs = true → exec i s = .next (s.emit .retryStatus)) ∧
     (s.plat.crs = false → s.plat.bootFailed = true → exec i s = .next (s.emit .spdmError))) ∧
  ((∀ (s : State) (core part : Nat), core < 192 → part < 4 → ∃ t, exec (.supplySag core part) s = .next t ∧
     t.plat.sagcnt = s.plat.sagcnt + 1 ∧ (core, part) ∈ t.plat.stretched ∧ t.blocks = s.blocks ∧ t.mem = s.mem) ∧
   (∀ (s : State) (core part : Nat), ∃ t, exec (.clockStretchEnd core part) s = .next t ∧ (core, part) ∉ t.plat.stretched ∧
     (∀ c ∈ s.plat.stretched, c ≠ (core, part) → c ∈ t.plat.stretched) ∧ t.plat.sagcnt = s.plat.sagcnt) ∧
   (∀ (s : State) (port n : Nat) (pa : BitVec 52), port < 16 → port ∉ s.plat.linksDown → s.exposedTo port pa.toNat n = true →
     (∀ i, i < n → s.lineOwned (pa.toNat + i) = false ∧ s.poisoned (pa.toNat + i) = false) →
     exec (.peerRequestArrive port (.load pa n)) s = .next (State.emit { s with fresh := s.fresh + n }
       (.peerData ((List.range n).map (fun i => s.byte (pa.toNat + i)))))) ∧
   (∀ (s : State) (port : Nat) (pa : BitVec 52) (d : List Byte), port < 16 → port ∉ s.plat.linksDown → s.exposedTo port pa.toNat d.length = true →
     (∀ i, i < d.length → s.lineOwned (pa.toNat + i) = false) →
     exec (.peerRequestArrive port (.store pa d)) s = .next ((s.homePut pa.toNat d).emit .peerDone)) ∧
   (∀ (s u : State) (port v : Nat) (pa : BitVec 52) (aop : BitVec 5) (d : BitVec 128), port < 16 → port ∉ s.plat.linksDown →
     s.exposedTo port pa.toNat (atomBytes aop.toNat) = true → (∀ i, i < atomBytes aop.toNat → s.lineOwned (pa.toNat + i) = false) →
     aop.toNat ≤ 0x19 → pa.toNat % atomBytes aop.toNat = 0 →
     s.atomBytes (.ranger 0) (s.atHome pa.toNat) aop.toNat d.toNat = (u, some v) →
     exec (.peerRequestArrive port (.atomic pa aop d)) s = .next (u.emit (.peerData (toBytes (atomBytes aop.toNat) v)))) ∧
   (∀ (s u : State) (port : Nat) (pa : BitVec 52) (n : Word), port < 16 → port ∉ s.plat.linksDown → s.exposedTo port pa.toNat 16 = true →
     (∀ i, i < 16 → s.lineOwned (pa.toNat + i) = false) → s.arrive 0 0 (s.atHome pa.toNat) n.toNat = .done u →
     exec (.peerRequestArrive port (.arrive pa n)) s = .next (u.emit .peerDone)) ∧
   (∀ (s : State) (port : Nat) (pa : BitVec 52) (m : Byte) (arg : DWord) (ctx : Nat) (wid : DWord) (w : List Nat) (blk gix lane vd : Nat), port < 16 →
     port ∉ s.plat.linksDown → s.exposedTo port pa.toNat 64 = true → ∃ q : Request,
     exec (.peerRequestArrive port (.ocall pa m arg ctx wid w blk gix lane vd)) s = .next { s with potluck.net := s.potluck.net ++ [q], fresh := s.fresh + 1 } ∧
     q.hdrPa = pa.toNat ∧ q.unit = unitOf pa.toNat ∧ q.meth = m ∧ q.arg = arg ∧ q.ctx = ctx ∧ q.wid = wid ∧ q.widths = w ∧
     q.dest.map (fun d => (d.blk, d.gix, d.lane, d.vd, d.via, d.peer)) = some (blk, gix, lane, vd, some port, true)) ∧
   (∀ (s : State) (port : Nat) (pa : BitVec 52) (va : DWord) (un : Bool) (ctx : Nat), port < 16 → port ∉ s.plat.linksDown →
     s.exposedTo port pa.toNat 64 = true → va.toNat % 64 = 0 → pa.toNat % 64 = 0 →
     (∀ u, s.bindAt va pa.toNat ctx un = .ok u → exec (.peerRequestArrive port (.bind pa va un ctx)) s = .next (u.emit (.peerBound port none))) ∧
     (∀ c, s.bindAt va pa.toNat ctx un = .fault c →
       exec (.peerRequestArrive port (.bind pa va un ctx)) s = .next (s.emit (.peerBound port (some (BitVec.ofNat 8 c)))))) ∧
   (∀ (s : State) (port n : Nat) (pa : BitVec 52), port < 16 → port ∉ s.plat.linksDown → s.exposedTo port pa.toNat 8 = true →
     (∀ i, i < 8 → s.lineOwned (pa.toNat + i) = false) → pa.toNat % 8 = 0 → s.poisoned pa.toNat = false →
     let h := s.homeRead pa.toNat 8
     exec (.peerRequestArrive port (.append pa n)) s = .next (State.emit
       (if h / 2 ^ 32 % 2 ^ 24 < h % 2 ^ 24 + n then s else s.putHome pa.toNat 8 (h + n)) (.peerData (toBytes 8 h)))) ∧
   (∀ (s : State) (port : Nat) (q : PeerRequest), port < 16 → port ∉ s.plat.linksDown → s.exposedTo port (peerSpan q).1 (peerSpan q).2 = false →
     exec (.peerRequestArrive port q) s = .next ((s.emit .peerViolation).logPlain (homeDie (peerSpan q).1) 0x06 0 (BitVec.ofNat 64 (peerSpan q).1))) ∧
   (∀ (s : State) (port : Nat), port < 16 → port ∉ s.plat.linksDown → ∃ (u t : State), exec (.linkDown port) s = .next t ∧ t = u.logPlain 0 0x0C 0 0 ∧
     u.plat.linksDown = s.plat.linksDown ++ [port] ∧ u.mem = s.mem ∧ u.blocks = s.blocks ∧
     u.potluck.replies.map (fun r => r.dest) = s.potluck.replies.map (fun r => r.dest) ∧
     ∀ r ∈ u.potluck.replies, r.dest.via = some port → r.dest.peer = false → r.fault = some 0x01) ∧
   (∀ (s : State) (pa : Nat), (∃ k, region pa = .hbm k) ∨ region pa = .ct →
     exec (.memoryEccError pa true) s = .next s ∧
     exec (.memoryEccError pa false) s = .next ((s.setPoison pa true).logPlain (homeDie pa) 0x07 0 (BitVec.ofNat 64 pa))))

/-- 10 R220, 10 R224: every kind of node fires when the tokens that it needs wait at its inputs and every target has credit; its
event applies the firing of its kind (what those do is the statement NodeRules); one that owes a result sends it before anything
else. (The sideband of an E tail that a node makes is that of errTail, the model's reading, log entry 50.) -/
def Obligations.NodeFirings : Prop :=
  NodeFires .elementwiseFire [0x04, 0x06, 0x07, 0x0A, 0x0B, 0x0D, 0x10, 0x12, 0x14, 0x16, 0x18, 0x1C, 0x20, 0x24, 0x25, 0x26, 0x30, 0x31,
    0x32, 0x33, 0x34, 0x35, 0x40, 0x41, 0x42, 0x43, 0x44] ReadyElem elementwiseBody ∧
  NodeFires .selNode [0x22] ReadyElem elementwiseBody ∧
  NodeFires .constN [0xD3] ReadySource (sourceBody (fun t w _ => constToken t w)) ∧
  NodeFires .countN [0xD4] ReadySource (sourceBody (fun t w d => countToken t w d.pos)) ∧
  NodeFires .genN [0xD5] ReadySource (fun c => sourceBody (fun t w d => genToken t w c.run d.adv d.pos) c) ∧
  NodeFires .steerN [0xD0] (fun c t => FedAt t c.n [0] ∧ ((t.nodeSt c.n).path = none → FedAt t c.n [2])) steerBody ∧
  NodeFires .filterN [0xD2] (fun c t => FedAt t c.n [0, 2]) filterBody ∧ NodeFires .mergeN [0xD1] ReadyMerge mergeBody ∧
  NodeFires .accN [0xD6] ReadyData accBody ∧ NodeFires .bfpsumN [0xD7] ReadyData bfpsumBody ∧
  NodeFires .mmanN [0xD8] ReadyMman mmanBody ∧ NodeFires .topknN [0xD9] (fun c t => FedAt t c.n [0, 1]) topknBody ∧
  NodeFires .partN [0xDA] ReadyData passBody ∧ NodeFires .gathrN [0xDB] ReadyData passBody ∧
  NodeFires .sinkN [0xDC] ReadyData sinkBody ∧ NodeFires .pqaccTableLoad [0x44] (fun c t => FedAt t c.n [2]) tableBody ∧
  (∀ k ∈ nodeKinds, ∀ (s : State) (t : TileId) (n : Nat) (r : FabRun), s.moving t.stack (tileIx t) = some r →
    let tl := s.tile t.stack (tileIx t)
    let d := tl.nodeSt n
    tl.word n ≠ 0 → nwOp (tl.word n) ∈ k.2 → d.frozen = false → r.isSealed (tl.domain n) = false →
    (nwOp (tl.word n) = 0xDA → s.gatherHeld t n < 64) →
    (∀ u, d.out ≠ [] → s.emitNode t.stack r (tileIx t) n = some u → exec (k.1 t n) s = .next u) ∧
    (∀ code, d.out = [] → d.skip = [] → minNat d.errs = some code →
      let u := (s.updTile t.stack (tileIx t) (fun _ => tl.setNode n { d with errs := [], out := [(15, errTail d.head code 0)] })).updRun t.stack r
        (fun r => { r with mxfl := r.mxfl ||| 0, mismatch := r.mismatch + 0, nankey := r.nankey + 0 })
      exec (k.1 t n) s = .next ((u.emitNode t.stack r (tileIx t) n).getD u)))

/-- 10 R213, 10 R220, 10 R221, 10 R222: an elementwise node with two data tokens of one length takes both and sends, to every target,
one token with L's sideband whose lanes are the operation on their lanes. 16 R357, 16 R358, 19 R424: CONST's token holds its
parameters, an integer COUNT's START + STEP × x, and SINK counts a data token. 10 R220: a source's trigger tail makes it owe a burst,
whose tokens it sends in turn, all of them or, where its guard's one P token is clear, none.
19 R427, 17 R372, 18 R399, 10 R223: STEER takes the burst of L to the path that P names, FILTER passes L where P's bit is set, and MERGE
a burst of one input. 16 R334, 16 R350: ACC and BFPSUM add a burst's tokens and send the sums with its tail. 10 R226: MMAN holds a
token of an operand until both bursts make a K-block. 10 R228: TOPKN keeps the first K of the pairs and sends them at the tails.
10 R233: PART and GATHR pass a token on. 18 R413: a table token writes its words to the table in order. That a guard's one P token stands for the
whole burst, that an unsent burst sets no flag, and the order of PART, GATHR and table words are the model's reading (log entry 51); that a
guarded firing with a clear bit still sets flags and counts mismatches is its choice (log entry 85); the sideband of the E tails that a node makes
is that of errTail, its reading (log entry 50). -/
def Obligations.NodeRules : Prop :=
  (∀ (c : NodeCtx) (t : Tile) (a b : Token) (qa qb : List Token), nwGrd c.w = false → nwPrm c.w = false → isUnary (nwOp c.w) = false →
    nwOp c.w ≠ 0x22 → nwOp c.w ≠ 0x44 → isPred (nwOp c.w) = false → t.escape = none → c.n < t.node.length →
    t.queue (3 * c.n) = a :: qa → t.queue (3 * c.n + 1) = b :: qb → a.e = false → b.e = false →
    a.val = b.val → a.val % 2 = 0 → a.val ≤ 32 → (t.nodeSt c.n).out = [] →
    ∃ (f : Fire) (tok : Token), elementwiseBody c t = some f ∧ (f.tile.nodeSt c.n).out = [(15, tok)] ∧ tok.h = a.h ∧ tok.seq = a.seq ∧
      tok.val = a.val ∧ tok.t = (a.t && b.t) ∧ (∀ i, i < a.val / 2 → tok.lane i = (t.elemOp c.w (a.lane i) (b.lane i)).1 % 2 ^ 32) ∧
      f.mism = (if a.t = b.t then 0 else 1) ∧ f.tile.queue (3 * c.n) = qa ∧ f.tile.queue (3 * c.n + 1) = qb) ∧
  (∀ (t : Tile) (w : DWord) (e : Nat), e < 16 → (constToken t w).1.extractLsb' (32 * e) 32 = t.param (nwImm w % 256 + e)) ∧
  (∀ (t : Tile) (w : DWord) (j e : Nat), e < 16 → nwTy w ≠ 2 → 16 * j + e < (t.param (nwImm w % 256 + 2)).toNat →
    (countToken t w j).1.extractLsb' (32 * e) 32 = t.param (nwImm w % 256) + t.param (nwImm w % 256 + 1) * BitVec.ofNat 32 (16 * j + e)) ∧
  (∀ (c : NodeCtx) (t : Tile) (a : Token) (q : List Token), nwGrd c.w = false → t.escape = none → c.n < t.node.length →
    t.queue (3 * c.n) = a :: q → a.e = false → ∃ f, sinkBody c t = some f ∧
      (f.tile.nodeSt c.n).cnt = ((t.nodeSt c.n).cnt + 1) % 2 ^ 32 ∧ f.tile.queue (3 * c.n) = q) ∧
  (∀ (c : NodeCtx) (t : Tile) (token : Tile → DWord → NodeSt → BitVec 512 × Nat × Flags), t.escape = none → c.n < t.node.length →
    let d := t.nodeSt c.n
    (∀ a q, d.owed = false → t.queue (3 * c.n) = a :: q → a.e = false → ∃ f, sourceBody token c t = some f ∧
      (f.tile.nodeSt c.n).owed = a.t ∧ (f.tile.nodeSt c.n).out = d.out ∧ f.tile.queue (3 * c.n) = q) ∧
    (d.owed = true → (c.fedL = true ∨ c.run.st ≠ .draining) → (nwGrd c.w = false ∨ d.pos ≠ 0) → ∃ (f : Fire) (tok : Token),
      sourceBody token c t = some f ∧ (f.tile.nodeSt c.n).out = d.out ++ [(15, tok)] ∧ tok.payload = (token t c.w d).1 ∧
      tok.val = (token t c.w d).2.1 ∧ f.mx = (token t c.w d).2.2 ∧ tok.h = decide (d.pos = 0) ∧ tok.seq = BitVec.ofNat 16 d.pos ∧
      tok.t = decide (burstTokens t c.w ≤ d.pos + 1) ∧ (f.tile.nodeSt c.n).owed = !tok.t ∧
      (f.tile.nodeSt c.n).pos = if tok.t then 0 else d.pos + 1) ∧
    (∀ p q, d.owed = true → (c.fedL = true ∨ c.run.st ≠ .draining) → nwGrd c.w = true → d.pos = 0 → t.queue (3 * c.n + 2) = p :: q →
      p.e = false → p.payload.getLsbD 0 = false → ∃ f, sourceBody token c t = some f ∧ (f.tile.nodeSt c.n).owed = false ∧
      (f.tile.nodeSt c.n).out = d.out ∧ f.mx = 0 ∧ f.tile.queue (3 * c.n + 2) = q)) ∧
  (∀ (c : NodeCtx) (t : Tile), t.escape = none → c.n < t.node.length →
    let d := t.nodeSt c.n
    (∀ l ql p qp, d.path = none → t.queue (3 * c.n) = l :: ql → t.queue (3 * c.n + 2) = p :: qp → p.e = false → ∃ f, steerBody c t = some f ∧
      (f.tile.nodeSt c.n).out = d.out ∧ f.tile.queue (3 * c.n) = l :: ql ∧ f.tile.queue (3 * c.n + 2) = qp ∧
      (f.tile.nodeSt c.n).path = some (if t.path c.w (p.payload.toNat % 4) = 0 then 4 else p.payload.toNat % 4)) ∧
    (∀ l ql way, d.path = some way → t.queue (3 * c.n) = l :: ql → ∃ f, steerBody c t = some f ∧
      (f.tile.nodeSt c.n).out = (if way < 4 then d.out ++ [(2 ^ way, l)] else d.out) ∧
      (f.tile.nodeSt c.n).path = (if l.t then none else some way) ∧ f.tile.queue (3 * c.n) = ql) ∧
    (∀ l ql p qp, t.queue (3 * c.n) = l :: ql → t.queue (3 * c.n + 2) = p :: qp → p.e = false → l.e = false → ∃ f, filterBody c t = some f ∧
      f.tile.queue (3 * c.n) = ql ∧ f.tile.queue (3 * c.n + 2) = qp ∧
      (p.payload.getLsbD 0 = true → (f.tile.nodeSt c.n).out = d.out ++ [(15, { l with h := decide (d.cnt = 0), seq := BitVec.ofNat 16 d.cnt })] ∧
        (f.tile.nodeSt c.n).cnt = if l.t then 0 else d.cnt + 1) ∧
      (p.payload.getLsbD 0 = false → l.t = false → (f.tile.nodeSt c.n).out = d.out ∧ (f.tile.nodeSt c.n).cnt = d.cnt)) ∧
    (∀ p l ql, p < 2 → d.path = some p → t.queue (3 * c.n + p) = l :: ql → ∃ f, mergeBody c t = some f ∧
      (f.tile.nodeSt c.n).out = d.out ++ [(15, l)] ∧ (f.tile.nodeSt c.n).path = (if l.t then none else some p) ∧
      f.tile.queue (3 * c.n + p) = ql) ∧
    (∀ l ql, d.path = none → (nwSub c.w = 0 ∨ c.run.det = true) → t.queue (3 * c.n + if d.turn then 1 else 0) = l :: ql → ∃ f,
      mergeBody c t = some f ∧ (f.tile.nodeSt c.n).out = d.out ++ [(15, l)] ∧
      (l.t = true → (f.tile.nodeSt c.n).turn = !d.turn) ∧ (l.t = false → (f.tile.nodeSt c.n).turn = d.turn))) ∧
  (∀ (c : NodeCtx) (t : Tile) (a : Token) (q : List Token), nwGrd c.w = false → t.escape = none → c.n < t.node.length →
    t.queue (3 * c.n) = a :: q → a.e = false →
    let d := t.nodeSt c.n
    let opened := a.h = true ∨ d.lanes = []
    (nwTy c.w ≠ 2 → (¬ opened → d.lanes.length = 16) → ∃ f sums, accBody c t = some f ∧ f.tile.queue (3 * c.n) = q ∧ sums.length = 16 ∧
      (∀ i, i < 16 → nth 0 sums i = (if opened then 0 else nth 0 d.lanes i) + BitVec.ofNat 32 (a.lane i)) ∧
      (a.t = false → (f.tile.nodeSt c.n).out = d.out ∧ (f.tile.nodeSt c.n).lanes = sums) ∧
      (a.t = true → (f.tile.nodeSt c.n).lanes = [] ∧ ∃ tok, (f.tile.nodeSt c.n).out = d.out ++ [(15, tok)] ∧ tok.h = true ∧ tok.t = true ∧
        tok.val = 32 ∧ ∀ i, i < 16 → tok.lane i = (nth 0 sums i).toNat)) ∧
    (∃ f sum, bfpsumBody c t = some f ∧ f.tile.queue (3 * c.n) = q ∧
      (let es := (List.range 32).map (fun i => bf16.value (a.payload.extractLsb' (16 * i) 16).toNat)
       (sum, f.mx) = kblock fp32 (f32 (if opened then 0 else (nth 0 d.lanes 0).toNat)) es (es.any FV.isNan) (es.any FV.isSnan)) ∧
      (a.t = false → (f.tile.nodeSt c.n).out = d.out ∧ (f.tile.nodeSt c.n).lanes = [BitVec.ofNat 32 sum]) ∧
      (a.t = true → (f.tile.nodeSt c.n).lanes = [] ∧ ∃ tok, (f.tile.nodeSt c.n).out = d.out ++ [(15, tok)] ∧ tok.h = true ∧ tok.t = true ∧
        tok.val = 2 ∧ tok.lane 0 = sum % 2 ^ 32)) ∧
    (∃ f, passBody c t = some f ∧ (f.tile.nodeSt c.n).out = d.out ++ [(15, a)] ∧ f.tile.queue (3 * c.n) = q) ∧
    (d.aend = false → d.abuf.length < 2 * mfmtBits (mmanFmt c.w) → a.t = false → ∃ f, mmanBody c t = some f ∧
      f.tile.queue (3 * c.n) = q ∧ (f.tile.nodeSt c.n).abuf = d.abuf ++ [maskPay a.payload a.val] ∧ (f.tile.nodeSt c.n).aend = false ∧
      f.tile.acc = t.acc ∧ (f.tile.nodeSt c.n).out = d.out ∧ f.mism = 0)) ∧
  (∀ (c : NodeCtx) (t : Tile) (b : Token) (q : List Token), t.escape = none → c.n < t.node.length → t.queue (3 * c.n) = [] →
    t.queue (3 * c.n + 1) = b :: q → b.e = false → b.t = true → b.h = false →
    let d := t.nodeSt c.n
    let full := 2 * mfmtBits (mmanFmt c.w)
    d.aend = true → d.bend = false → d.abuf.length = full → d.bbuf.length + 1 = full → d.cnt + 1 < nwImm c.w →
    ∃ f, mmanBody c t = some f ∧ f.tile.queue (3 * c.n + 1) = q ∧ (f.tile.nodeSt c.n).cnt = d.cnt + 1 ∧ (f.tile.nodeSt c.n).out = d.out ∧
      (f.tile.acc, f.mx) = mmanBlock c.w { d with bbuf := d.bbuf ++ [maskPay b.payload b.val], bend := true } t.acc ∧
      (f.tile.nodeSt c.n).abuf = [] ∧ (f.tile.nodeSt c.n).bbuf = [] ∧ (f.tile.nodeSt c.n).aend = false ∧ (f.tile.nodeSt c.n).bend = false) ∧
  (∀ (c : NodeCtx) (t : Tile) (a b : Token) (qa qb : List Token), t.escape = none → c.n < t.node.length →
    t.queue (3 * c.n) = a :: qa → t.queue (3 * c.n + 1) = b :: qb → a.e = false → b.e = false → a.val = b.val →
    let d := t.nodeSt c.n
    let ty := nodeTy (nwTy c.w)
    let new := ((List.range ((a.val + 1) / 2)).map (fun i => (BitVec.ofNat 32 (a.lane i), BitVec.ofNat 32 (b.lane i)))).filter
      (fun kv => !keyNan ty kv.1.toNat)
    let keys := (new.foldl (fun l kv => insertBy (topLe ty) kv l) d.keys).take (nwImm c.w % 256 + 1)
    ∃ f, topknBody c t = some f ∧ f.tile.queue (3 * c.n) = qa ∧ f.tile.queue (3 * c.n + 1) = qb ∧
      (a.t = false → b.t = false → (f.tile.nodeSt c.n).keys = keys ∧ (f.tile.nodeSt c.n).out = d.out) ∧
      (a.t = true → b.t = true → t.topkPoison = false → (f.tile.nodeSt c.n).keys = [] ∧
        (f.tile.nodeSt c.n).out = topTokens (if a.h then a else d.head) keys)) ∧
  (∀ (c : NodeCtx) (t : Tile) (p : Token) (q : List Token), t.escape = none → c.n < t.node.length → t.pq.wf = true →
    t.queue (3 * c.n + 2) = p :: q → p.e = false →
    let d := t.nodeSt c.n
    let base := 512 * (nwImm c.w / 256 % 32)
    ∃ f, tableBody c t = some f ∧ f.tile.queue (3 * c.n + 2) = q ∧ (f.tile.nodeSt c.n).pos = (if p.t then 0 else d.pos + p.val / 2) ∧
      (base + 4 * (d.pos + p.val / 2) ≤ 16384 → ∀ e i, e < p.val / 2 → i < 4 →
        Sparse.get f.tile.pq (base + 4 * (d.pos + e) + i) = BitVec.ofNat 8 (p.lane e >>> (8 * i))))

/-- 10 R215, 10 R235, 10 R238, 10 R239, 10 R240: the first token of an arc that nothing blocks enters its input's buffer; one of
another context is dropped and counted for the run that holds the tile, a sealed domain absorbs it, a drain token leaves its mark; a
full buffer's token is held in its switch, and there moves to the empty escape buffer. With a command pending, and WDOFF clear when its count started (a write of FBCTL leaves a running count as it was, and so does a fault that
leaves a command pending), a watchdog takes the channel out of compute mode and poisons what it accumulated; a refresh queues one
command, at most 16; an uncorrected error faults the tile, a corrected one is counted in the run that holds the tile. That a drain token takes
no place in the queue is log entry 48, the crossing as one event and the held tokens are log entry 49, and the Baton's choice is log entry 79. -/
def Obligations.TokenEvents : Prop :=
  (∀ (s : State) (k ix : Nat) (f : Flight), (s.stackOf k).flights[ix]? = some f → firstOfArc (s.stackOf k).flights ix f = true →
    blockedAt (s.stackOf k).flights ix f = false →
    let i := 8 * f.y + f.x
    let t := s.tile k i
    let gone := s.dropFlight k ix
    ((t.ownV = false ∨ BitVec.ofNat 8 t.ownCtx ≠ f.tok.ctx) → ∃ u, exec (.tokenArrive k ix) s = .next u ∧
      u = (match (s.stackOf k).holderAt i with
        | some r => (gone.updTile k i (fun t => { t with drops := t.drops + 1 })).updRun k r (fun r => { r with dropped := r.dropped + 1 })
        | none => gone.updTile k i (fun t => { t with drops := t.drops + 1 }))) ∧
    (t.ownV = true → BitVec.ofNat 8 t.ownCtx = f.tok.ctx →
      let shut := ∃ r, (s.stackOf k).activeAt i = some r ∧ r.isSealed ((s.stackOf k).destDomain r i f.dest) = true
      (shut → exec (.tokenArrive k ix) s = .next gone) ∧
      (¬ shut →
        (f.tok.d = true → exec (.tokenArrive k ix) s = .next
          (gone.updTile k i (fun t => { t with dmarks := t.dmarks ++ [(destKey f.dest, f.src, f.path)] }))) ∧
        (f.tok.d = false → (t.queue (destKey f.dest)).length < 8 →
          exec (.tokenArrive k ix) s = .next (gone.updTile k i (fun t => t.push (destKey f.dest) f.tok))) ∧
        (f.tok.d = false → 8 ≤ (t.queue (destKey f.dest)).length → exec (.tokenArrive k ix) s = .next (s.holdFlight k ix)) ∧
        (f.tok.d = false → 8 ≤ (t.queue (destKey f.dest)).length → f.held = true → t.escape = none →
          (s.stackOf k).activeAt i ≠ none →
          exec (.batonEscape k ix) s = .next (gone.updTile k i (fun t => { t with escape := some (destKey f.dest, f.tok) })))))) ∧
  (∀ (s : State) (t : TileId) (r : FabRun), s.moving t.stack (tileIx t) = some r →
    (s.tile t.stack (tileIx t)).wdKept.getD ((s.stackOf t.stack).fbctl.getLsbD 20) = false →
    t.stack < s.fabrics.length → tileIx t < (s.stackOf t.stack).tiles.length →
    (∃ nr ∈ (s.tile t.stack (tileIx t)).recList, (s.tile t.stack (tileIx t)).commanding r nr = true ∧
      r.isSealed ((s.stackOf t.stack).recDomain r (tileIx t) nr.1) = false) →
    ∃ u, exec (.channelWatchdog t) s = .next u ∧ (u.tile t.stack (tileIx t)).computeOff = true ∧
      (u.tile t.stack (tileIx t)).accPoison = BitVec.allOnes 32 ∧ (u.tile t.stack (tileIx t)).topkPoison = true ∧
      (u.tile t.stack (tileIx t)).fault = true) ∧
  (∀ (k : Stack) (v : Word) (i : Nat), k.tiles.length = 64 → i < 64 → (k.setFbctl v).fbctl = v ∧
    (k.counting i = true → (k.setFbctl v).tile i = { k.tile i with wdKept := some ((k.tile i).wdKept.getD (k.fbctl.getLsbD 20)) }) ∧
    (k.counting i = false → (k.setFbctl v).tile i = { k.tile i with wdKept := none }) ∧
    (k.counting i = true → k.settleCounts.tile i = k.tile i) ∧
    (k.counting i = false → k.settleCounts.tile i = { k.tile i with wdKept := none })) ∧
  (∀ (s : State) (t : TileId) (bank n : Nat), lookD 0 (s.tile t.stack (tileIx t)).catchup bank = n → n < 16 →
    exec (.bankRefresh t bank) s = .next (s.updTile t.stack (tileIx t) (fun x => { x with catchup := put x.catchup bank (n + 1) }))) ∧
  (∀ (s : State) (t : TileId) (r : FabRun), s.moving t.stack (tileIx t) = some r →
    let i := tileIx t
    let k := t.stack
    let tl := s.tile k i
    let u := fun (f : Tile → Tile) => s.updTile k i f
    let bad := fun (f : Tile → Tile) (doms : List Nat) => ((u f).updTile k i (fun x => { x with fault := true })).tileFault k r 1 i doms
    (∀ q, (s.stackOf k).holderAt i = some q →
      exec (.fabricEccError t .corrected) s = .next ((u (fun x => { x with ecc := x.ecc + 1 })).updRun k q (fun r => { r with eccc := r.eccc + 1 }))) ∧
    (∀ n, exec (.fabricEccError t (.nodeWord n)) s = .next ((u (fun x => { x with fault := true })).tileFault k r 1 i [tl.domain n])) ∧
    (∀ n, exec (.fabricEccError t (.streamRecord n)) s = .next
      (bad (fun x => { x with badRecs := insNat x.badRecs n }) [(s.stackOf k).recDomain r i n])) ∧
    exec (.fabricEccError t .paramWord) s = .next ((u (fun x => { x with fault := true })).tileFault k r 1 i []) ∧
    (∀ q ix, (tl.queue q).length ≤ ix → exec (.fabricEccError t (.edgeToken q ix)) s = .next s) ∧
    (∀ q ix, ix < (tl.queue q).length → exec (.fabricEccError t (.edgeToken q ix)) s = .next
      ((bad (fun x => (x.setQueue q (dropNth (x.queue q) ix)).settle) [(s.stackOf k).keyDomain r i q]).updStack k Stack.settleCounts)) ∧
    exec (.fabricEccError t .topk) s = .next (bad (fun x => { x with topkPoison := true }) []) ∧
    ∀ row, exec (.fabricEccError t (.accRow row)) s = .next (bad (fun x => { x with accPoison := x.accPoison ||| (1#32 <<< row) }) []))

/-- 10 R230, 10 R231, 10 R232, 11 R262: a stream's walk ends in the record going on, or stalled with a fault for a Ranger; a gate
opens when its barrier shows another phase; a READ record fills and sends a token of its burst, a GATHER record one for an index
token, and in a draining run it stops at a burst boundary and sends its drain token; a writing record stores a token's elements; a pass
whose writes are done counts and fires what is due. That the walk of a page of the write footprint takes its ownership then, that of a page of the read
footprint writes back its dirty L2 lines, and that a gate's barrier is translated by the walker of the die, is the model's reading (log entry 56). -/
def Obligations.StreamEvents : Prop :=
  (∀ (s : State) (t : TileId) (n : Nat) (r : FabRun) (rc : Rec) (d : StreamSt), s.streamAt t n = some (r, rc, d) → d.phase = .walking →
    (∀ s1 tr, s.translate (.stack t.stack) r.ctx d.va (streamNeed t.stack rc.writes) = (s1, .ok tr) → rc.writes = false →
      Streams (.streamWalkComplete t n) s t n (State.cleanPage
        ((s1.resolved t.stack r d).setStream t n { d with phase := .active, retry := false }) t.stack r d.va.toNat)) ∧
    (∀ s1 tr, s.translate (.stack t.stack) r.ctx d.va (streamNeed t.stack rc.writes) = (s1, .ok tr) → rc.writes = true →
      Streams (.streamWalkComplete t n) s t n (State.ownPage
        ((s1.resolved t.stack r d).setStream t n { d with phase := .active, retry := false }) t.stack r d.va.toNat)) ∧
    (∀ s1 f, s.translate (.stack t.stack) r.ctx d.va (streamNeed t.stack rc.writes) = (s1, .error f) → f.cause ≠ 0x06 → f.cause ≠ 0x0A →
      Streams (.streamWalkComplete t n) s t n (s1.streamFails t n r rc 3)) ∧
    (∀ s1 f, s.translate (.stack t.stack) r.ctx d.va (streamNeed t.stack rc.writes) = (s1, .error f) → (f.cause = 0x06 ∨ f.cause = 0x0A) →
      ∃ u, Streams (.streamWalkComplete t n) s t n u ∧
        u = (s1.setStream t n { d with phase := .stalled, cause := f.cause, level := f.level, answer := 0, retry := false }).updStack t.stack
          (fun st => { st with faults := st.faults ++ [⟨t.x, t.y, n, d.va, f.cause, f.level⟩] }))) ∧
  (∀ (s s1 s2 : State) (t : TileId) (n : Nat) (r : FabRun) (rc : Rec) (d : StreamSt) (tr : Trans) (ph : Nat), s.streamAt t n = some (r, rc, d) →
    d.phase = .waiting → r.st = .running → d.retry = false →
    s.translate (.die (t.stack / 4)) r.ctx (resolveVa r.bases rc.gbar) needRd = (s1, .ok tr) →
    s1.gatePhase t.stack r.ctx tr.pa = (s2, some ph) →
    (ph = d.gate.toNat → Streams (.streamGateOpen t n) s t n (s2.setStream t n d)) ∧
    (ph ≠ d.gate.toNat → exec (.streamGateOpen t n) s = .next
      ((if rc.sends then s2.cleanRange t.stack r rc else s2).setStream t n { d with phase := .active, opened := true }))) ∧
  (∀ (s : State) (t : TileId) (n : Nat) (r : FabRun) (rc : Rec) (d d1 : StreamSt), s.streamAt t n = some (r, rc, d) → rc.mode = 0 → r.st = .running →
    d.phase = .active → d.etail = false → (s.tile t.stack (tileIx t)).computeOff = false →
    (∀ b ∈ (s.tile t.stack (tileIx t)).catchup, b.2 < 16) → s.recCredit t n rc = true →
    fillFrom t.stack r rc s (readOffsets rc d none) d = (d1, .ready) →
    Streams (.readStreamToken t n) s t n (((s.updTile t.stack (tileIx t) Tile.drainCatchup).recSend t n rc r (readToken rc r d1).1).setStream t n
      (readToken rc r d1).2)) ∧
  (∀ (s : State) (t : TileId) (n : Nat) (r : FabRun) (rc : Rec) (d d1 : StreamSt) (tok : Token) (q : List Token),
    s.streamAt t n = some (r, rc, d) → rc.mode = 2 → r.st = .running → d.phase = .active → d.etail = false →
    (s.tile t.stack (tileIx t)).computeOff = false → (∀ b ∈ (s.tile t.stack (tileIx t)).catchup, b.2 < 16) → s.recCredit t n rc = true →
    (s.tile t.stack (tileIx t)).queue (48 + n) = tok :: q → tok.e = false → fillFrom t.stack r rc s (readOffsets rc d (some tok)) d = (d1, .ready) →
    Streams (.readStreamToken t n) s t n (State.setStream (State.recSend ((s.updTile t.stack (tileIx t) Tile.drainCatchup).updTile t.stack
      (tileIx t) (fun x => match x.pop (48 + n) with
        | some p => p.2
        | none => x)) t n rc r (gatherToken rc d1 tok).1) t n (gatherEnd rc r (gatherToken rc d1 tok).2))) ∧
  (∀ (s : State) (t : TileId) (n : Nat) (r : FabRun) (rc : Rec) (d : StreamSt), s.streamAt t n = some (r, rc, d) → rc.sends = true →
    (r.st = .running → d.phase = .active → (s.tile t.stack (tileIx t)).computeOff = false → d.etail = true →
      Streams (.readStreamToken t n) s t n (sendEtail t n r rc d s)) ∧
    (r.st = .draining → d.phase ≠ .walking → s.recMarked t n r = true → (d.phase ≠ .active ∨ (d.seq = 0 ∧ d.buf = [] ∧ d.etail = false ∧
        (rc.mode = 0 ∨ (s.tile t.stack (tileIx t)).queue (48 + n) = []))) → s.recCredit t n rc = true →
      Streams (.readStreamToken t n) s t n ((s.recSend t n rc r (drainToken r.ctx)).setStream t n { d with drained := true }))) ∧
  (∀ (rc : Rec) (r : FabRun) (d : StreamSt), (readToken rc r d).1.h = decide (d.seq = 0) ∧ (readToken rc r d).1.t = (decide (d.pos % rc.blen = 0) && !d.pois) ∧
    (readToken rc r d).1.seq = BitVec.ofNat 16 d.seq ∧ (readToken rc r d).1.ctx = BitVec.ofNat 8 r.ctx ∧ (readToken rc r d).1.e = false ∧
    (readToken rc r d).2.buf = []) ∧
  (∀ (s s1 : State) (t : TileId) (n : Nat) (r : FabRun) (rc : Rec) (d d1 : StreamSt) (tok : Token) (q : List Token),
    s.streamAt t n = some (r, rc, d) → rc.writes = true → r.st = .running → d.phase = .active → d.passEnd = false →
    (s.tile t.stack (tileIx t)).computeOff = false → (s.tile t.stack (tileIx t)).queue (48 + n) = tok :: q →
    writeFrom t.stack r rc (if tok.e then [] else writeElems rc d tok) d s = (s1, d1, .ready) →
    let u := s1.updTile t.stack (tileIx t) (fun x => match x.pop (48 + n) with
      | some p => p.2
      | none => x)
    (tok.t = false → Streams (.writeStreamElement t n) s t n (u.setStream t n { d1 with ti := 0 })) ∧
    (tok.t = true → Streams (.writeStreamElement t n) s t n ((burstEnd t.stack r rc { d1 with ti := 0 } tok u).1.setStream t n
      (burstEnd t.stack r rc { d1 with ti := 0 } tok u).2))) ∧
  (∀ (s : State) (t : TileId) (n : Nat) (r : FabRun) (rc : Rec) (d : StreamSt), s.streamAt t n = some (r, rc, d) → d.passEnd = true →
    Streams (.writePassComplete t n) s t n ((s.setStream t n (passDone rc r d)).completeTaps t.stack r) ∧
    (passDone rc r d).passes = d.passes + 1 ∧ (passDone rc r d).pos = 0 ∧ (rc.gate = false → (passDone rc r d).phase = .done)) ∧
  (∀ (s u : State) (t : TileId) (n : Nat), let kept := fun (v : State) => (v.tile t.stack (tileIx t)).wdKept
    (s.recount u t n = u ∨ s.recount u t n = u.updTile t.stack (tileIx t) (fun x => { x with wdKept := none })) ∧
    (kept u = none → s.recount u t n = u) ∧ ((u.stackOf t.stack).counting (tileIx t) = false → kept u ≠ none →
      s.recount u t n = u.updTile t.stack (tileIx t) (fun x => { x with wdKept := none })))

/-- 03 R55, 14 R310, 14 R311: a dual word reads the operands of both halves before either writes; each half writes its register
in the lanes where its guard holds, the second after the first; with no such lane the word only ends. Both halves read HD, and HS
where it is no immediate: an empty one blocks the word, or raises EMPTYREAD where its half has the T bit set, whatever the half
computes and whichever lanes its guard holds in (the model's reading, log entry 81); a faulted pair among them raises COMBFAULT. -/
def Obligations.DualWords : Prop :=
  ∀ (d : Dual) (s : State) (x : Issue), s.issues (.dualWord d) = some x → x.g.v.wf = true →
    let lanes := fun (h : Half) => x.g.pget h.hg.toNat &&& x.mask
    let res := fun (h : Half) (l : Nat) => halfVal h.hop.toNat h.u (x.g.vget h.hd.toNat l).toNat
      (if h.imm then h.hs.toNat else (x.g.vget h.hs.toNat l).toNat)
    let act := lanes d.h0 ||| lanes d.h1
    let reads := fun (h : Half) (n : Nat) => n = h.hd.toNat ∨ (h.imm = false ∧ n = h.hs.toNat)
    let traps := fun (h : Half) => h.ht = true ∧ ∃ n, reads h n ∧ n ∈ x.g.vEmpty
    (act ≠ 0 → (traps d.h0 ∨ traps d.h1) → ∃ n ∈ x.g.vEmpty, (reads d.h0 n ∨ reads d.h1 n) ∧
      exec (.dualWord d) s = .next (trapWord x ⟨0x04, 0, 0, BitVec.ofNat 64 n⟩ act s)) ∧
    (act ≠ 0 → ¬ traps d.h0 → ¬ traps d.h1 → (∃ n ∈ x.g.vEmpty, reads d.h0 n ∨ reads d.h1 n) →
      exec (.dualWord d) s = .next { (s.setGrp x.party { x.g with run := none }) with cur := none }) ∧
    (act ≠ 0 → (∀ n ∈ x.g.vEmpty, ¬ reads d.h0 n ∧ ¬ reads d.h1 n) → (∃ k ∈ x.g.marks, ∃ n, k.pair = n / 2 ∧ (reads d.h0 n ∨ reads d.h1 n)) →
      ∃ c, c.code = 0x0D ∧ exec (.dualWord d) s = .next (trapWord x c act s)) ∧
    (lanes d.h0 = 0 → lanes d.h1 = 0 → exec (.dualWord d) s = .next (retire x x.g s)) ∧
    (lanes d.h0 ||| lanes d.h1 ≠ 0 → readiness x.g (specDual d).ops = .go →
      markFault x.g (specDual d).ops = none →
      ∃ t g, exec (.dualWord d) s = .next t ∧ Ends x g s t ∧
        (∀ n, n = d.h0.hd.toNat ∨ n = d.h1.hd.toNat → n ∉ x.g.vEmpty) ∧
        (let fl := orFlags ((lanesOf (lanes d.h0)).map (fun l => (res d.h0 l).2) ++ (lanesOf (lanes d.h1)).map (fun l => (res d.h1 l).2))
         g = { x.g with v := g.v, marks := g.marks, fpflags := x.g.fpflags ||| fl }) ∧
        ∀ n l, l < 32 → g.vget n l =
          if n = d.h1.hd.toNat ∧ hasLane (lanes d.h1) l = true then BitVec.ofNat 32 (res d.h1 l).1
          else if n = d.h0.hd.toNat ∧ hasLane (lanes d.h0) l = true then BitVec.ofNat 32 (res d.h0 l).1
          else x.g.vget n l)

/-- 05 R109, 06 R139: the die that homes an address: an HBM address by its bits 38 to 36, a capacity-tier address by its offset from the
tier's base; within the die the slice is the exclusive or of eight fields of six bits and the Potluck unit a quarter of it. -/
def Obligations.HomeDies : Prop :=
  (∀ pa : Nat, pa < 0x8000000000 → homeDie pa = if bits pa 36 3 < 4 then 0 else 1) ∧
  (∀ off : Nat, off < 0x18000000000 → homeDie (0x1000000000000 + off) = 0) ∧
  (∀ off : Nat, 0x18000000000 ≤ off → off < 0x30000000000 → homeDie (0x1000000000000 + off) = 1) ∧
  (∀ pa : Nat, (unitOf pa).die = homeDie pa ∧ (unitOf pa).unit = l2Slice pa / 4 ∧ l2Slice pa < 64) ∧
  (∀ pa k : Nat, pa < 2 ^ 52 → k < 6 → (l2Slice pa).testBit k = (pa.testBit (6 + k) ^^ pa.testBit (12 + k) ^^ pa.testBit (18 + k) ^^
    pa.testBit (24 + k) ^^ pa.testBit (30 + k) ^^ pa.testBit (36 + k) ^^ pa.testBit (42 + k) ^^ pa.testBit (48 + k))) ∧
  (∀ pa : Nat, l2Slice pa = l2Slice (pa % 2 ^ 52)) ∧
  l2Slice 0x2001234040 = 62 ∧ unitOf 0x2001234040 = ⟨0, 15⟩

/-- 14 R301 to R313: decoding the word of a well-formed lane instruction gives the instruction back, and a word that decodes
is the word of what it decodes to: no bit of an encoding is dropped. -/
def Obligations.DecodeEncode : Prop :=
  (∀ (i : Instr) (w : DWord), WellFormed i → encode i = some w → decode w = some i) ∧
  (∀ (i : Instr) (w : DWord), decode w = some i → encode i = some w)

/-- 20 to 24: words written out in the spec's programs decode to the instructions that they stand for. -/
def Obligations.DecodedWords : Prop :=
  decode 0x011C0180C0700021 = some (.iadd { b := false, g := 7, ta := false, tb := false, tc := false, dst := 6, sa := 6, sb := 7, sc := 0, fn := 0x21 }) ∧
  decode 0x039C0703800000FF = some (.andi { b := false, g := 7, ta := false, dst := 7, sa := 7, fn := 0, imm := 0xFF }) ∧
  decode 0x00DC06003F800000 = some (.movl { b := false, g := 7, dst := 3, rsv := 0, imm := 0x3F800000 }) ∧
  decode 0x089C018080501800 = some (.sel { b := false, g := 7, ta := false, tb := false, tc := false, dst := 6, sa := 4, sb := 5, sc := 3, fn := 0 }) ∧
  decode 0x11DC024100400203 = some (.shfl { b := false, g := 7, ta := false, tb := false, tc := false, dst := 9, sa := 8, sb := 4, sc := 0, fn := 0x203 }) ∧
  decode 0x9D1C000000000000 = some (.exit { b := true, g := 7, ta := false, tb := false, tc := false, dst := 0, sa := 0, sb := 0, sc := 0, fn := 0 })

/-- 02 R38, 03 R47, 03 R50, 03 R69: when a party's turn finds no run, a run starts at the entry that head selection names, with its
copy of the code (a loop buffer's, or the words that a fetch finds), and the step is the effect, at that state, of the
instruction that the first word decodes to, its entry the one in hand, followed by what follows a word; with a run in progress
it is the effect of the run's next word. The first word of the copy is the word fetched, and a word fetched from memory is the eight
bytes at its address. A turn that names an event is the event's effect.
03 R48, 03 R50: a word that retires moves its executing lanes to the next word; the run goes on with it, and ends instead at
a word with B set, a control word (but no branch that no executing lane takes), or the run's 24th word. -/
def Obligations.StepRunsDecoded : Prop :=
  ((∀ (s : State) (turn : Turn) (rest : List Turn) (p : Party) (g : Group) (e : Entry) (w : DWord) (i : Instr),
     s.agenda = turn :: rest → s.frozen = false →
     let s0 := { s with agenda := rest }
     ((∃ core part h, turn = .issue core part ∧ s0.arbitrate core part = some h ∧ p = .group h) ∨
       (∃ u k, turn = .wave u k ∧ p = .wave u k) ∨ (∃ n, turn = .ranger n ∧ p = .ranger n)) →
     s0.grp? p = some g → s0.mayIssue p g = true → decode w = some i →
     (g.run = none → s0.boundary p = s0 → g.stopReq = false → g.head = .entry e → g.held e = false →
       let n := s0.next
       let hit := n.loopCopy p e.pc
       let code := hit.getD (n.codeFrom p 24 e.pc)
       let s1 := n.noteRun p e.pc code
       let t := fun (v : State) => { v.setGrp p { g with lastIssue := n.fresh, run := some ⟨0, e.pc, e.df, hit.isSome, code⟩ } with
         cur := some ⟨p, e.pc, e.mask, e.df, w⟩ }
       (code.head? = some w → hit.isSome = true → ∀ u, exec i (t s1) = .next u → step s = .next (finishWord u)) ∧
       (code.head? = some w → hit.isSome = false → ∀ u, exec i (t (s1.fetch p e.pc).1) = .next u → step s = .next (finishWord u)) ∧
       (∀ s2, code = [] → s1.fetch p e.pc = (s2, .ok w) → ∀ u, exec i (t s2) = .next u → step s = .next (finishWord u))) ∧
     (∀ r, g.run = some r → g.tab.find? (fun e => e.pc = r.pc && e.st = .ready) = some e → r.code[r.words]? = some w →
       let t := fun (v : State) => { v.setGrp p { g with run := some r } with cur := some ⟨p, e.pc, e.mask, r.df, w⟩ }
       ∀ u, exec i (t (if r.hit then s0 else (s0.fetch p e.pc).1)) = .next u → step s = .next (finishWord u))) ∧
   (∀ (s : State) (p : Party) (n : Nat) (pc w : DWord) (ws : List DWord), s.codeFrom p (n + 1) pc = w :: ws →
     (s.fetch p pc).2 = .ok w ∧ (w.getLsbD 63 = true → ws = []) ∧ (w.getLsbD 63 = false → ws = s.codeFrom p n (pc + 8))) ∧
   (∀ (s : State) (e : Instr) (rest : List Turn), s.agenda = .event e :: rest → s.frozen = false →
     ∀ u, exec e { s with agenda := rest, cur := none } = .next u → step s = .next (finishWord u)) ∧
   (∀ (s s1 : State) (h : Handle) (pc : DWord) (t : Trans), pc.toNat % 8 = 0 →
     s.translate (partyTlb (.group h)) (s.ctxOfParty (.group h)) pc needEx = (s1, .ok t) → (∀ c ∈ s1.code, c.va ≠ pc) →
     s1.poisoned t.pa = false → ownMemory t.pa = true → (∀ c ∈ s1.rdc, c.sector ≠ t.pa / 16) →
     (s.fetch (.group h) pc).2 = .ok (BitVec.ofNat 64 (s1.homeRead t.pa 8)))) ∧
  (∀ (x : Issue) (g : Group) (s : State) (r : Run) (pm : BitVec 4) (df : Bool), g.tab = [⟨x.pc, x.mask, .ready, pm, df, true⟩] → x.mask ≠ 0 →
     x.g.run = some r →
     let g' := { g with tab := [⟨x.pc + 8, x.mask, .ready, 0, false, true⟩] }
     let ends := x.b = true ∨ (isControl x.op = true ∧ ¬ (isBranch x.op = true ∧ x.active = 0))
     (¬ ends → r.words < 23 → retire x g s = s.setGrp x.party { g' with run := some { r with words := r.words + 1, pc := x.pc + 8 } }) ∧
     ((ends ∨ 23 ≤ r.words) → retire x g s = s.setGrp x.party { g' with run := none }))

/-- 05 R108, 05 R109: every step keeps the memory in its canonical form: its addresses rise and no listed byte is zero, so that
equal memories are equal data (an unlisted byte reads zero: the model's choice, log entry 1). -/
def Obligations.MemoryStaysCanonical : Prop :=
  ∀ (s t : State), Memory.wf s.mem = true → step s = .next t → Memory.wf t.mem = true

/-- 12 R287, 13 R293: FREEZE, through the port or by MGCMD 8 with the argument 0xF2EE, stops the module and changes nothing else that it holds, but
that the command reads OK; from then on no step changes anything but the list of turns still to come, so that no host access is answered; only a
module reset leaves the freeze. (That COLD_RESET is the module reset, and that a function-level reset has no effect then, is the model's reading, log
entry 29.) -/
def Obligations.FrozenModule : Prop :=
  (∀ (s : State), exec .freezeJtag s = .next { s with frozen := true }) ∧
  (∀ (s : State), s.plat.mgstat = 1 → s.plat.mgcmd = 8 → s.mgArg 0 = 0xF2EE → (∀ i, 1 ≤ i → i < 4 → s.mgArg i = 0) →
    exec .freezeCmd s = .next { s with plat.mgstat := 0, frozen := true }) ∧
  (∀ (s : State), s.frozen = true → (∀ p sec rest, s.agenda ≠ .event (.coldReset p sec) :: rest) →
    step s = .next { s with agenda := s.agenda.drop 1 }) ∧
  (∀ (s : State) (p sec : Bool) (rest : List Turn), s.agenda = .event (.coldReset p sec) :: rest →
    ∃ t, step s = .next t ∧ t.frozen = false ∧ t.agenda = rest)

/-- 13 R296, 13 R291, 10 R237, 13 R299: what a reset leaves: no work, no translation cached, every mailbox disabled with its slots
free, BOOTSTAT 0 with configuration requests in retry status, the logs empty, SYS.FBCTL 0x028C0000 on each of eight stacks, no
tile owned, no Ranger that runs; memory is canonical. (The model's choice: memory reads zero, log entry 1; the mailbox vectors,
MGSTAT, the power cap, the caches, the tile table and the MRs, log entry 2; that no Ranger runs yet, log entry 4.) -/
def Obligations.ResetState : Prop :=
  let s := State.reset
  Memory.wf s.mem = true ∧ s.blocks = [] ∧ s.launches = [] ∧ s.tlb = [] ∧ s.walks = [] ∧ s.l1 = [] ∧ s.code = [] ∧ s.frozen = false ∧
  (∀ n, (s.mb n).en = false ∧ (s.mb n).vector = 0xFFFF ∧ (s.mb n).rptr = 0 ∧ (s.mb n).cptr = 0 ∧ (s.mb n).dptr = 0 ∧ ∀ k, (s.mb n).slot k = .free) ∧
  s.plat.bootstat = 0 ∧ s.plat.crs = true ∧ s.plat.mgstat = 0 ∧ s.plat.powercap = 2500 ∧
  s.plat.logs = [⟨0, 0, 0, []⟩, ⟨0, 0, 0, []⟩] ∧ s.fabrics.length = 8 ∧
  (∀ k, k < 8 → (s.stackOf k).fbctl = 0x028C0000 ∧ (s.stackOf k).runs = [] ∧ ∀ i, (s.tile k i).ownV = false) ∧
  s.rangers.length = 9 ∧ (∀ r, (s.rg r).running = false) ∧ (∀ i, nth 0 s.plat.mrs i = 0) ∧ (∀ c, (s.ctxOf c).valid = false)
end

