-- ==== Sys2Proof/Laws/Sparse.lean ====
section
/-! SUPPORT. Sparse arrays: a write is read back and leaves every other key alone, and writes keep the canonical form. -/

namespace Sys2Proof.Machine

/-- The canonical form of a list with a first entry. -/
theorem Sparse.wfFrom_cons {w : Nat} (lo a : Nat) (v : BitVec w) (t : Sparse w) :
    Sparse.wfFrom lo ((a, v) :: t) = true ↔ (lo ≤ a ∧ v ≠ 0) ∧ Sparse.wfFrom (a + 1) t = true := by
  simp only [Sparse.wfFrom, Bool.and_eq_true, decide_eq_true_eq]

/-- A canonical array from a bound lists nothing below it. -/
theorem Sparse.get_below {w : Nat} (m : Sparse w) : ∀ lo k, Sparse.wfFrom lo m = true → k < lo → Sparse.get m k = 0 := by
  induction m with
  | nil => intros; rfl
  | cons e t ih =>
    obtain ⟨a, v⟩ := e
    intro lo k h hk
    simp only [Sparse.wfFrom, Bool.and_eq_true, decide_eq_true_eq] at h
    have : a ≠ k := by omega
    simp only [Sparse.get, this, if_false]
    exact ih _ _ h.2 (by omega)

/-- A lower bound may be lowered. -/
theorem Sparse.wfFrom_mono {w : Nat} (m : Sparse w) {lo lo' : Nat} (h : Sparse.wfFrom lo m = true) (hl : lo' ≤ lo) :
    Sparse.wfFrom lo' m = true := by
  cases m with
  | nil => rfl
  | cons e t =>
    obtain ⟨a, v⟩ := e
    simp only [Sparse.wfFrom, Bool.and_eq_true, decide_eq_true_eq] at h ⊢
    exact ⟨⟨by omega, h.1.2⟩, h.2⟩

/-- Writing keeps the canonical form from a bound. -/
theorem Sparse.wfFrom_set {w : Nat} (m : Sparse w) : ∀ lo k v, Sparse.wfFrom lo m = true → lo ≤ k →
    Sparse.wfFrom lo (Sparse.set m k v) = true := by
  induction m with
  | nil =>
    intro lo k v _ hk
    unfold Sparse.set
    by_cases hv : v = 0
    · rw [if_pos hv]; rfl
    · rw [if_neg hv]; exact (Sparse.wfFrom_cons _ _ _ _).2 ⟨⟨hk, hv⟩, rfl⟩
  | cons e t ih =>
    obtain ⟨a, x⟩ := e
    intro lo k v h hk
    have h' := h
    simp only [Sparse.wfFrom, Bool.and_eq_true, decide_eq_true_eq] at h'
    obtain ⟨⟨h1, h2⟩, h3⟩ := h'
    unfold Sparse.set
    by_cases hka : k < a
    · by_cases hv : v = 0
      · simp [hka, hv, h]
      · simp only [hka, hv, if_true, if_false, Sparse.wfFrom, Bool.and_eq_true, decide_eq_true_eq]
        exact ⟨⟨hk, hv⟩, ⟨⟨by omega, h2⟩, h3⟩⟩
    · by_cases hke : k = a
      · by_cases hv : v = 0
        · simp only [hv, hke, Nat.lt_irrefl, if_false, if_true]
          exact Sparse.wfFrom_mono t h3 (by omega)
        · simp only [hv, hke, Nat.lt_irrefl, if_false, if_true, Sparse.wfFrom, Bool.and_eq_true, decide_eq_true_eq]
          exact ⟨⟨h1, hv⟩, h3⟩
      · simp only [hka, hke, if_false, Sparse.wfFrom, Bool.and_eq_true, decide_eq_true_eq]
        exact ⟨⟨h1, h2⟩, ih _ _ _ h3 (by omega)⟩

/-- Writing keeps the canonical form. -/
theorem Sparse.wf_set {w : Nat} (m : Sparse w) (k : Nat) (v : BitVec w) (h : Sparse.wf m = true) :
    Sparse.wf (Sparse.set m k v) = true := Sparse.wfFrom_set m 0 k v h (Nat.zero_le k)

/-- Writing a list keeps the canonical form. -/
theorem Sparse.wf_setAll {w : Nat} (l : List (Nat × BitVec w)) : ∀ m : Sparse w, Sparse.wf m = true →
    Sparse.wf (Sparse.setAll m l) = true := by
  induction l with
  | nil => intro m h; exact h
  | cons e t ih => intro m h; exact ih _ (Sparse.wf_set m e.1 e.2 h)

/-- Filtering keeps the canonical form from a bound. -/
theorem Sparse.wfFrom_filter {w : Nat} (p : Nat × BitVec w → Bool) (m : Sparse w) : ∀ lo, Sparse.wfFrom lo m = true →
    Sparse.wfFrom lo (m.filter p) = true := by
  induction m with
  | nil => intro lo _; rfl
  | cons e t ih =>
    obtain ⟨a, v⟩ := e
    intro lo h
    simp only [Sparse.wfFrom, Bool.and_eq_true, decide_eq_true_eq] at h
    by_cases hp : p (a, v) = true
    · rw [List.filter_cons_of_pos hp]
      simp only [Sparse.wfFrom, Bool.and_eq_true, decide_eq_true_eq]
      exact ⟨h.1, ih _ h.2⟩
    · rw [List.filter_cons_of_neg hp]
      exact Sparse.wfFrom_mono _ (ih _ h.2) (by omega)

/-- Dropping keys keeps the canonical form. -/
theorem Sparse.wf_drop {w : Nat} (m : Sparse w) (p : Nat → Bool) (h : Sparse.wf m = true) : Sparse.wf (Sparse.drop m p) = true :=
  Sparse.wfFrom_filter _ m 0 h

/-- What a canonical array reads after a write, from a bound. -/
theorem Sparse.get_set_from {w : Nat} (m : Sparse w) : ∀ lo k v j, Sparse.wfFrom lo m = true →
    Sparse.get (Sparse.set m k v) j = if j = k then v else Sparse.get m j := by
  induction m with
  | nil =>
    intro lo k v j _
    unfold Sparse.set
    by_cases hv : v = 0
    · rw [if_pos hv, hv]; split <;> rfl
    · rw [if_neg hv]
      by_cases hj : j = k
      · subst hj; simp only [Sparse.get, if_true]
      · have : k ≠ j := fun e => hj e.symm
        simp only [Sparse.get, this, hj, if_false]
  | cons e t ih =>
    obtain ⟨a, x⟩ := e
    intro lo k v j h
    simp only [Sparse.wfFrom, Bool.and_eq_true, decide_eq_true_eq] at h
    obtain ⟨⟨h1, h2⟩, h3⟩ := h
    unfold Sparse.set
    by_cases hka : k < a
    · have hz : Sparse.get ((a, x) :: t) k = 0 :=
        Sparse.get_below _ a k ((Sparse.wfFrom_cons _ _ _ _).2 ⟨⟨Nat.le_refl a, h2⟩, h3⟩) hka
      by_cases hv : v = 0
      · simp only [hka, hv, if_true]
        by_cases hj : j = k
        · simp [hj, hz]
        · simp [hj]
      · simp only [hka, hv, if_true, if_false]
        by_cases hj : j = k
        · simp [Sparse.get, hj]
        · have : k ≠ j := fun e => hj e.symm
          simp [Sparse.get, hj, this]
    · by_cases hke : k = a
      · subst hke
        have hz : Sparse.get t k = 0 := Sparse.get_below t (k + 1) k h3 (by omega)
        by_cases hv : v = 0
        · simp only [hv, Nat.lt_irrefl, if_false, if_true]
          by_cases hj : j = k
          · simp [hj, hz]
          · have : k ≠ j := fun e => hj e.symm
            simp [Sparse.get, hj, this]
        · simp only [hv, Nat.lt_irrefl, if_false, if_true]
          by_cases hj : j = k
          · simp [Sparse.get, hj]
          · have : k ≠ j := fun e => hj e.symm
            simp [Sparse.get, hj, this]
      · simp only [hka, hke, if_false, Sparse.get]
        by_cases ha : a = j
        · have : j ≠ k := fun e => hke (by omega)
          simp [ha, this]
        · simp only [ha, if_false]
          exact ih _ _ _ _ h3

/-- What a canonical array reads after a write. -/
theorem Sparse.get_set {w : Nat} (m : Sparse w) (h : Sparse.wf m = true) (k : Nat) (v : BitVec w) (j : Nat) :
    Sparse.get (Sparse.set m k v) j = if j = k then v else Sparse.get m j := Sparse.get_set_from m 0 k v j h

/-- A canonical list reads only what it lists above its bound: the two agree everywhere only if they are equal. -/
theorem Sparse.ext_from {w : Nat} (m : Sparse w) : ∀ (n : Sparse w) lo, Sparse.wfFrom lo m = true → Sparse.wfFrom lo n = true →
    (∀ k, Sparse.get m k = Sparse.get n k) → m = n := by
  induction m with
  | nil =>
    intro n lo _ hn h
    cases n with
    | nil => rfl
    | cons e t =>
      obtain ⟨a, v⟩ := e
      simp only [Sparse.wfFrom, Bool.and_eq_true, decide_eq_true_eq] at hn
      have := h a
      simp [Sparse.get] at this
      exact absurd this.symm hn.1.2
  | cons e t ih =>
    obtain ⟨a, v⟩ := e
    intro n lo hm hn h
    cases n with
    | nil =>
      simp only [Sparse.wfFrom, Bool.and_eq_true, decide_eq_true_eq] at hm
      have := h a
      simp [Sparse.get] at this
      exact absurd this hm.1.2
    | cons f u =>
      obtain ⟨b, x⟩ := f
      simp only [Sparse.wfFrom, Bool.and_eq_true, decide_eq_true_eq] at hm hn
      have hab : a = b := by
        rcases Nat.lt_trichotomy a b with hlt | heq | hgt
        · have h1 := h a
          have h2 : Sparse.get ((b, x) :: u) a = 0 := Sparse.get_below _ b a ((Sparse.wfFrom_cons _ _ _ _).2 ⟨⟨Nat.le_refl b, hn.1.2⟩, hn.2⟩) hlt
          rw [h2] at h1
          simp [Sparse.get] at h1
          exact absurd h1 hm.1.2
        · exact heq
        · have h1 := h b
          have h2 : Sparse.get ((a, v) :: t) b = 0 := Sparse.get_below _ a b ((Sparse.wfFrom_cons _ _ _ _).2 ⟨⟨Nat.le_refl a, hm.1.2⟩, hm.2⟩) hgt
          rw [h2] at h1
          simp [Sparse.get] at h1
          exact absurd h1.symm hn.1.2
      subst hab
      have hv : v = x := by have := h a; simpa [Sparse.get] using this
      subst hv
      rw [ih u (a + 1) hm.2 hn.2]
      intro k
      by_cases hk : a = k
      · subst hk
        rw [Sparse.get_below t (a + 1) a hm.2 (by omega), Sparse.get_below u (a + 1) a hn.2 (by omega)]
      · have := h k
        simpa [Sparse.get, hk] using this

/-- Equal canonical arrays are equal data. -/
theorem Sparse.ext {w : Nat} (m n : Sparse w) (hm : Sparse.wf m = true) (hn : Sparse.wf n = true)
    (h : ∀ k, Sparse.get m k = Sparse.get n k) : m = n := Sparse.ext_from m n 0 hm hn h

end Sys2Proof.Machine
end

