-- ==== Sys2Proof/Laws/Issue.lean ====
section
/-! SUPPORT. What a lane word does at issue: where it performs, its meaning is its body applied to its issue; how a word
that retires ends; and what the writes of results leave. -/

namespace Sys2Proof.Machine

/-- Where a word performs: an issuing party, a lane word, and the issue made of them. -/
theorem issues_cases {i : Instr} {s : State} {x : Issue} (h : s.issues i = some x) :
    ∃ (c : Cur) (hd : Hdr) (g : Group), s.cur = some c ∧ hdrOf i = some hd ∧ s.grp? c.party = some g ∧
      x = { party := c.party, pc := c.pc, mask := c.mask, df := c.df, word := c.word, b := hd.b, op := hd.op, g := g
            active := if hd.op = 0x100 then c.mask else guardLanes g hd.g c.mask, ctx := s.ctxOfParty c.party } ∧
      x.performs i s = true := by
  unfold State.issues at h
  obtain ⟨y, hy, hp⟩ := Option.bind_eq_some_iff.1 h
  by_cases hq : y.performs i s = true
  · rw [if_pos hq] at hp
    injection hp with hp
    subst hp
    unfold State.issueOf at hy
    split at hy
    · rename_i c hd hc hh
      obtain ⟨g, hg, hx⟩ := Option.map_eq_some_iff.1 hy
      exact ⟨c, hd, g, hc, hh, hg, hx.symm, hq⟩
    · exact absurd hy (by simp)
  · rw [if_neg hq] at hp; exact absurd hp (by simp)

/-- The conditions of a word that performs, one by one. -/
theorem performs_parts {i : Instr} {s : State} {x : Issue} (h : x.performs i s = true) :
    (specOf i).ok = true ∧ partyIllegal x.party i x.op = false ∧ rangeFault x.g (specOf i).ops = none ∧
    partyForbids x.party i x.op = false ∧ x.active ≠ 0 ∧
    (isUniform x.op = true → x.g.live = x.g.present ∧ x.mask = x.g.live ∧ x.active = x.g.live) ∧
    (x.op ≠ 0x100 → x.op ≠ 0x57 → entryFault x (specOf i).ops s = none ∧ readiness x.g (specOf i).ops = .go ∧
      markFault x.g (specOf i).ops = none) := by
  unfold Issue.performs at h
  simp only [Bool.and_eq_true, Bool.or_eq_true, Bool.not_eq_true', decide_eq_true_eq, Option.isNone_iff_eq_none,
    bne_iff_ne] at h
  obtain ⟨⟨⟨⟨⟨⟨h1, h2⟩, h3⟩, h4⟩, h5⟩, h6⟩, h7⟩ := h
  refine ⟨h1, h2, h3, h4, h5, fun hu => ?_, fun ho hp => ?_⟩
  · rcases h6 with h6 | h6
    · rw [hu] at h6; exact absurd h6 (by simp)
    · exact ⟨h6.1.1, h6.1.2, h6.2⟩
  · rcases h7 with (h7 | h7) | h7
    · exact absurd h7 ho
    · exact absurd h7 hp
    · exact ⟨h7.1.1, h7.1.2, h7.2⟩

/-- Where nothing stops it, a word's checks lead to its body. -/
theorem checkedOps_go {x : Issue} {ops : List Opnd} {s : State} (body : Issue → State → State) (h1 : entryFault x ops s = none)
    (h2 : readiness x.g ops = .go) (h3 : markFault x.g ops = none) : checkedOps x ops body s = body x s := by
  simp [checkedOps, h1, h2, h3]

/-- Where no entry fault stands, the role may issue the opcode. -/
theorem role_of_entryFault {x : Issue} {ops : List Opnd} {s : State} (h : entryFault x ops s = none) : x.g.role.may x.op = true := by
  cases hr : x.g.role.may x.op
  · simp [entryFault, hr] at h
  · rfl

/-- A word that performs answers its body's state. -/
theorem laneWord_performs {i : Instr} {s : State} {x : Issue} (h : s.issues i = some x) (body : Issue → State → State) :
    laneWord i body s = .next (body x s) := by
  obtain ⟨c, hd, g, hc, hh, hg, hx, hp⟩ := issues_cases h
  obtain ⟨h1, h2, h3, h4, h5, h6, h7⟩ := performs_parts hp
  subst hx
  have h5' : ¬ (if hd.op = 0x100 then c.mask else guardLanes g hd.g c.mask) = 0 := h5
  unfold laneWord issueWord
  rw [hc, hh]
  simp only at h2 h3 h4 h6 h7
  simp only [hg, h1, h2, h3, h4, Bool.not_true, Bool.or_self, Bool.false_and, Bool.false_eq_true, if_false]
  by_cases hu : isUniform hd.op = true
  · obtain ⟨u1, u2, u3⟩ := h6 hu
    have ho : hd.op ≠ 0x100 := by intro e; rw [e] at hu; exact absurd hu (by decide)
    have hq : hd.op ≠ 0x57 := by intro e; rw [e] at hu; exact absurd hu (by decide)
    obtain ⟨r0, r1, r2⟩ := h7 ho hq
    simp only [if_neg ho] at h5' u3 r0
    have n1 : (g.live != g.present) = false := by simp [u1]
    have n2 : (c.mask != g.live) = false := by simp [u2]
    have n3 : (guardLanes g hd.g c.mask != g.live) = false := by simp [u3]
    have rr : g.role.may hd.op = true := role_of_entryFault r0
    simp only [hu, if_true, uniformWord, rr, Bool.not_true, Bool.and_false, n1, n2, if_neg ho, n3, Bool.false_eq_true, if_false, if_neg h5']
    rw [checkedOps_go body r0 r1 r2]
  · simp only [if_neg hu, if_neg h5']
    by_cases hl : looksItself hd.op = true
    · simp only [hl, if_true]
    · simp only [looksItself, Bool.or_eq_true, decide_eq_true_eq, not_or] at hl
      obtain ⟨r0, r1, r2⟩ := h7 hl.1.1.1 hl.1.1.2
      have n : looksItself hd.op = false := by simp [looksItself, hl]
      simp only [n, Bool.false_eq_true, if_false]
      rw [checkedOps_go body r0 r1 r2]

/-- The group of an issue is the party's, and lanes perform it. -/
theorem issues_spec {i : Instr} {s : State} {x : Issue} (h : s.issues i = some x) :
    s.grp? x.party = some x.g ∧ x.active ≠ 0 := by
  obtain ⟨c, hd, g, hc, hh, hg, hx, hp⟩ := issues_cases h
  refine ⟨?_, (performs_parts hp).2.2.2.2.1⟩
  rw [hx]; exact hg

/-- The PC table is all that the update after a word changes in a group. -/
theorem advance_tab (g : Group) (pc : DWord) (m : LaneMask) (df : Bool) (nxt : List (LaneMask × DWord)) :
    ∃ tab, g.advance pc m df nxt = { g with tab := tab } := ⟨_, rfl⟩

/-- A word that ends changes the issuing party's registers as given, up to its table and run. -/
theorem endWord_tab (x : Issue) (g : Group) (nxt : List (LaneMask × DWord)) (taken : Bool) (s : State) :
    ∃ (tab : List Entry) (run : Option Run), endWord x g nxt taken s = s.setGrp x.party { g with tab := tab, run := run } := by
  obtain ⟨tab, ht⟩ := advance_tab g x.pc x.mask x.df nxt
  unfold endWord
  simp only [ht]
  split
  · exact ⟨tab, none, rfl⟩
  · exact ⟨tab, _, rfl⟩

/-- A word that retires ends. -/
theorem retire_ends (x : Issue) (g : Group) (s : State) : Ends x g s (retire x g s) := rfl

/-- A word whose body retires. -/
theorem regWord_of_retire {i : Instr} {body : Issue → State → State} {res : Issue → State → Group} {post}
    (he : ∀ s, exec i s = laneWord i body s) (hb : ∀ x s, body x s = retire x (res x s) s)
    (hp : ∀ s x, s.issues i = some x → x.g.v.wf = true → x.g.sr.wf = true → post x s (res x s)) : RegWord i post := by
  intro s x hx hv hs
  refine ⟨retire x (res x s) s, res x s, ?_, retire_ends _ _ _, hp s x hx hv hs⟩
  rw [he, laneWord_performs hx, hb]

end Sys2Proof.Machine
end

