-- ==== Sys2Proof/Laws/State.lean ====
section
/-! SUPPORT. Each update of the state leaves every other field alone: one lemma per field and update, so that no proof unfolds a
record update. -/

namespace Sys2Proof.Machine

/-! ## State.setGrp -/

@[simp] theorem State.setGrp_mem (s : State) (p : Party) (g : Group) : (s.setGrp p g).mem = s.mem := by cases p <;> rfl
@[simp] theorem State.setGrp_poison (s : State) (p : Party) (g : Group) : (s.setGrp p g).poison = s.poison := by cases p <;> rfl
@[simp] theorem State.setGrp_old (s : State) (p : Party) (g : Group) : (s.setGrp p g).old = s.old := by cases p <;> rfl
@[simp] theorem State.setGrp_l2strm (s : State) (p : Party) (g : Group) : (s.setGrp p g).l2strm = s.l2strm := by cases p <;> rfl
@[simp] theorem State.setGrp_l1 (s : State) (p : Party) (g : Group) : (s.setGrp p g).l1 = s.l1 := by cases p <;> rfl
@[simp] theorem State.setGrp_rdc (s : State) (p : Party) (g : Group) : (s.setGrp p g).rdc = s.rdc := by cases p <;> rfl
@[simp] theorem State.setGrp_tlb (s : State) (p : Party) (g : Group) : (s.setGrp p g).tlb = s.tlb := by cases p <;> rfl
@[simp] theorem State.setGrp_walks (s : State) (p : Party) (g : Group) : (s.setGrp p g).walks = s.walks := by cases p <;> rfl
@[simp] theorem State.setGrp_code (s : State) (p : Party) (g : Group) : (s.setGrp p g).code = s.code := by cases p <;> rfl
@[simp] theorem State.setGrp_loops (s : State) (p : Party) (g : Group) : (s.setGrp p g).loops = s.loops := by cases p <;> rfl
@[simp] theorem State.setGrp_ctxs (s : State) (p : Party) (g : Group) : (s.setGrp p g).ctxs = s.ctxs := by cases p <;> rfl
@[simp] theorem State.setGrp_launches (s : State) (p : Party) (g : Group) : (s.setGrp p g).launches = s.launches := by cases p <;> rfl
@[simp] theorem State.setGrp_sched (s : State) (p : Party) (g : Group) : (s.setGrp p g).sched = s.sched := by cases p <;> rfl
@[simp] theorem State.setGrp_copies (s : State) (p : Party) (g : Group) : (s.setGrp p g).copies = s.copies := by cases p <;> rfl
@[simp] theorem State.setGrp_tiers (s : State) (p : Party) (g : Group) : (s.setGrp p g).tiers = s.tiers := by cases p <;> rfl
@[simp] theorem State.setGrp_icinvs (s : State) (p : Party) (g : Group) : (s.setGrp p g).icinvs = s.icinvs := by cases p <;> rfl
@[simp] theorem State.setGrp_fabrics (s : State) (p : Party) (g : Group) : (s.setGrp p g).fabrics = s.fabrics := by cases p <;> rfl
@[simp] theorem State.setGrp_dev (s : State) (p : Party) (g : Group) : (s.setGrp p g).dev = s.dev := by cases p <;> rfl
@[simp] theorem State.setGrp_plat (s : State) (p : Party) (g : Group) : (s.setGrp p g).plat = s.plat := by cases p <;> rfl
@[simp] theorem State.setGrp_frozen (s : State) (p : Party) (g : Group) : (s.setGrp p g).frozen = s.frozen := by cases p <;> rfl
@[simp] theorem State.setGrp_cur (s : State) (p : Party) (g : Group) : (s.setGrp p g).cur = s.cur := by cases p <;> rfl
@[simp] theorem State.setGrp_agenda (s : State) (p : Party) (g : Group) : (s.setGrp p g).agenda = s.agenda := by cases p <;> rfl
@[simp] theorem State.setGrp_fresh (s : State) (p : Party) (g : Group) : (s.setGrp p g).fresh = s.fresh := by cases p <;> rfl

/-! ## State.updBlock -/

@[simp] theorem State.updBlock_mem (s : State) (u : Nat) (f : Block → Block) : (s.updBlock u f).mem = s.mem := rfl
@[simp] theorem State.updBlock_poison (s : State) (u : Nat) (f : Block → Block) : (s.updBlock u f).poison = s.poison := rfl
@[simp] theorem State.updBlock_old (s : State) (u : Nat) (f : Block → Block) : (s.updBlock u f).old = s.old := rfl
@[simp] theorem State.updBlock_l2strm (s : State) (u : Nat) (f : Block → Block) : (s.updBlock u f).l2strm = s.l2strm := rfl
@[simp] theorem State.updBlock_l1 (s : State) (u : Nat) (f : Block → Block) : (s.updBlock u f).l1 = s.l1 := rfl
@[simp] theorem State.updBlock_rdc (s : State) (u : Nat) (f : Block → Block) : (s.updBlock u f).rdc = s.rdc := rfl
@[simp] theorem State.updBlock_tlb (s : State) (u : Nat) (f : Block → Block) : (s.updBlock u f).tlb = s.tlb := rfl
@[simp] theorem State.updBlock_walks (s : State) (u : Nat) (f : Block → Block) : (s.updBlock u f).walks = s.walks := rfl
@[simp] theorem State.updBlock_code (s : State) (u : Nat) (f : Block → Block) : (s.updBlock u f).code = s.code := rfl
@[simp] theorem State.updBlock_loops (s : State) (u : Nat) (f : Block → Block) : (s.updBlock u f).loops = s.loops := rfl
@[simp] theorem State.updBlock_ctxs (s : State) (u : Nat) (f : Block → Block) : (s.updBlock u f).ctxs = s.ctxs := rfl
@[simp] theorem State.updBlock_launches (s : State) (u : Nat) (f : Block → Block) : (s.updBlock u f).launches = s.launches := rfl
@[simp] theorem State.updBlock_sched (s : State) (u : Nat) (f : Block → Block) : (s.updBlock u f).sched = s.sched := rfl
@[simp] theorem State.updBlock_copies (s : State) (u : Nat) (f : Block → Block) : (s.updBlock u f).copies = s.copies := rfl
@[simp] theorem State.updBlock_tiers (s : State) (u : Nat) (f : Block → Block) : (s.updBlock u f).tiers = s.tiers := rfl
@[simp] theorem State.updBlock_icinvs (s : State) (u : Nat) (f : Block → Block) : (s.updBlock u f).icinvs = s.icinvs := rfl
@[simp] theorem State.updBlock_potluck (s : State) (u : Nat) (f : Block → Block) : (s.updBlock u f).potluck = s.potluck := rfl
@[simp] theorem State.updBlock_fabrics (s : State) (u : Nat) (f : Block → Block) : (s.updBlock u f).fabrics = s.fabrics := rfl
@[simp] theorem State.updBlock_rangers (s : State) (u : Nat) (f : Block → Block) : (s.updBlock u f).rangers = s.rangers := rfl
@[simp] theorem State.updBlock_dev (s : State) (u : Nat) (f : Block → Block) : (s.updBlock u f).dev = s.dev := rfl
@[simp] theorem State.updBlock_plat (s : State) (u : Nat) (f : Block → Block) : (s.updBlock u f).plat = s.plat := rfl
@[simp] theorem State.updBlock_frozen (s : State) (u : Nat) (f : Block → Block) : (s.updBlock u f).frozen = s.frozen := rfl
@[simp] theorem State.updBlock_cur (s : State) (u : Nat) (f : Block → Block) : (s.updBlock u f).cur = s.cur := rfl
@[simp] theorem State.updBlock_agenda (s : State) (u : Nat) (f : Block → Block) : (s.updBlock u f).agenda = s.agenda := rfl
@[simp] theorem State.updBlock_fresh (s : State) (u : Nat) (f : Block → Block) : (s.updBlock u f).fresh = s.fresh := rfl
@[simp] theorem State.updBlock_blocks (s : State) (u : Nat) (f : Block → Block) : (s.updBlock u f).blocks = updFirst (fun b => b.uid = u) f s.blocks := rfl

/-! ## State.updLaunch -/

@[simp] theorem State.updLaunch_mem (s : State) (id : Nat) (f : Launch → Launch) : (s.updLaunch id f).mem = s.mem := rfl
@[simp] theorem State.updLaunch_poison (s : State) (id : Nat) (f : Launch → Launch) : (s.updLaunch id f).poison = s.poison := rfl
@[simp] theorem State.updLaunch_old (s : State) (id : Nat) (f : Launch → Launch) : (s.updLaunch id f).old = s.old := rfl
@[simp] theorem State.updLaunch_l2strm (s : State) (id : Nat) (f : Launch → Launch) : (s.updLaunch id f).l2strm = s.l2strm := rfl
@[simp] theorem State.updLaunch_l1 (s : State) (id : Nat) (f : Launch → Launch) : (s.updLaunch id f).l1 = s.l1 := rfl
@[simp] theorem State.updLaunch_rdc (s : State) (id : Nat) (f : Launch → Launch) : (s.updLaunch id f).rdc = s.rdc := rfl
@[simp] theorem State.updLaunch_tlb (s : State) (id : Nat) (f : Launch → Launch) : (s.updLaunch id f).tlb = s.tlb := rfl
@[simp] theorem State.updLaunch_walks (s : State) (id : Nat) (f : Launch → Launch) : (s.updLaunch id f).walks = s.walks := rfl
@[simp] theorem State.updLaunch_code (s : State) (id : Nat) (f : Launch → Launch) : (s.updLaunch id f).code = s.code := rfl
@[simp] theorem State.updLaunch_loops (s : State) (id : Nat) (f : Launch → Launch) : (s.updLaunch id f).loops = s.loops := rfl
@[simp] theorem State.updLaunch_ctxs (s : State) (id : Nat) (f : Launch → Launch) : (s.updLaunch id f).ctxs = s.ctxs := rfl
@[simp] theorem State.updLaunch_blocks (s : State) (id : Nat) (f : Launch → Launch) : (s.updLaunch id f).blocks = s.blocks := rfl
@[simp] theorem State.updLaunch_sched (s : State) (id : Nat) (f : Launch → Launch) : (s.updLaunch id f).sched = s.sched := rfl
@[simp] theorem State.updLaunch_copies (s : State) (id : Nat) (f : Launch → Launch) : (s.updLaunch id f).copies = s.copies := rfl
@[simp] theorem State.updLaunch_tiers (s : State) (id : Nat) (f : Launch → Launch) : (s.updLaunch id f).tiers = s.tiers := rfl
@[simp] theorem State.updLaunch_icinvs (s : State) (id : Nat) (f : Launch → Launch) : (s.updLaunch id f).icinvs = s.icinvs := rfl
@[simp] theorem State.updLaunch_potluck (s : State) (id : Nat) (f : Launch → Launch) : (s.updLaunch id f).potluck = s.potluck := rfl
@[simp] theorem State.updLaunch_fabrics (s : State) (id : Nat) (f : Launch → Launch) : (s.updLaunch id f).fabrics = s.fabrics := rfl
@[simp] theorem State.updLaunch_rangers (s : State) (id : Nat) (f : Launch → Launch) : (s.updLaunch id f).rangers = s.rangers := rfl
@[simp] theorem State.updLaunch_dev (s : State) (id : Nat) (f : Launch → Launch) : (s.updLaunch id f).dev = s.dev := rfl
@[simp] theorem State.updLaunch_plat (s : State) (id : Nat) (f : Launch → Launch) : (s.updLaunch id f).plat = s.plat := rfl
@[simp] theorem State.updLaunch_frozen (s : State) (id : Nat) (f : Launch → Launch) : (s.updLaunch id f).frozen = s.frozen := rfl
@[simp] theorem State.updLaunch_cur (s : State) (id : Nat) (f : Launch → Launch) : (s.updLaunch id f).cur = s.cur := rfl
@[simp] theorem State.updLaunch_agenda (s : State) (id : Nat) (f : Launch → Launch) : (s.updLaunch id f).agenda = s.agenda := rfl
@[simp] theorem State.updLaunch_fresh (s : State) (id : Nat) (f : Launch → Launch) : (s.updLaunch id f).fresh = s.fresh := rfl
@[simp] theorem State.updLaunch_launches (s : State) (id : Nat) (f : Launch → Launch) : (s.updLaunch id f).launches = updFirst (fun l => l.id = id) f s.launches := rfl

/-! ## State.updCtx -/

@[simp] theorem State.updCtx_mem (s : State) (c : Nat) (f : Ctx → Ctx) : (s.updCtx c f).mem = s.mem := rfl
@[simp] theorem State.updCtx_poison (s : State) (c : Nat) (f : Ctx → Ctx) : (s.updCtx c f).poison = s.poison := rfl
@[simp] theorem State.updCtx_old (s : State) (c : Nat) (f : Ctx → Ctx) : (s.updCtx c f).old = s.old := rfl
@[simp] theorem State.updCtx_l2strm (s : State) (c : Nat) (f : Ctx → Ctx) : (s.updCtx c f).l2strm = s.l2strm := rfl
@[simp] theorem State.updCtx_l1 (s : State) (c : Nat) (f : Ctx → Ctx) : (s.updCtx c f).l1 = s.l1 := rfl
@[simp] theorem State.updCtx_rdc (s : State) (c : Nat) (f : Ctx → Ctx) : (s.updCtx c f).rdc = s.rdc := rfl
@[simp] theorem State.updCtx_tlb (s : State) (c : Nat) (f : Ctx → Ctx) : (s.updCtx c f).tlb = s.tlb := rfl
@[simp] theorem State.updCtx_walks (s : State) (c : Nat) (f : Ctx → Ctx) : (s.updCtx c f).walks = s.walks := rfl
@[simp] theorem State.updCtx_code (s : State) (c : Nat) (f : Ctx → Ctx) : (s.updCtx c f).code = s.code := rfl
@[simp] theorem State.updCtx_loops (s : State) (c : Nat) (f : Ctx → Ctx) : (s.updCtx c f).loops = s.loops := rfl
@[simp] theorem State.updCtx_launches (s : State) (c : Nat) (f : Ctx → Ctx) : (s.updCtx c f).launches = s.launches := rfl
@[simp] theorem State.updCtx_blocks (s : State) (c : Nat) (f : Ctx → Ctx) : (s.updCtx c f).blocks = s.blocks := rfl
@[simp] theorem State.updCtx_sched (s : State) (c : Nat) (f : Ctx → Ctx) : (s.updCtx c f).sched = s.sched := rfl
@[simp] theorem State.updCtx_copies (s : State) (c : Nat) (f : Ctx → Ctx) : (s.updCtx c f).copies = s.copies := rfl
@[simp] theorem State.updCtx_tiers (s : State) (c : Nat) (f : Ctx → Ctx) : (s.updCtx c f).tiers = s.tiers := rfl
@[simp] theorem State.updCtx_icinvs (s : State) (c : Nat) (f : Ctx → Ctx) : (s.updCtx c f).icinvs = s.icinvs := rfl
@[simp] theorem State.updCtx_potluck (s : State) (c : Nat) (f : Ctx → Ctx) : (s.updCtx c f).potluck = s.potluck := rfl
@[simp] theorem State.updCtx_fabrics (s : State) (c : Nat) (f : Ctx → Ctx) : (s.updCtx c f).fabrics = s.fabrics := rfl
@[simp] theorem State.updCtx_rangers (s : State) (c : Nat) (f : Ctx → Ctx) : (s.updCtx c f).rangers = s.rangers := rfl
@[simp] theorem State.updCtx_dev (s : State) (c : Nat) (f : Ctx → Ctx) : (s.updCtx c f).dev = s.dev := rfl
@[simp] theorem State.updCtx_plat (s : State) (c : Nat) (f : Ctx → Ctx) : (s.updCtx c f).plat = s.plat := rfl
@[simp] theorem State.updCtx_frozen (s : State) (c : Nat) (f : Ctx → Ctx) : (s.updCtx c f).frozen = s.frozen := rfl
@[simp] theorem State.updCtx_cur (s : State) (c : Nat) (f : Ctx → Ctx) : (s.updCtx c f).cur = s.cur := rfl
@[simp] theorem State.updCtx_agenda (s : State) (c : Nat) (f : Ctx → Ctx) : (s.updCtx c f).agenda = s.agenda := rfl
@[simp] theorem State.updCtx_fresh (s : State) (c : Nat) (f : Ctx → Ctx) : (s.updCtx c f).fresh = s.fresh := rfl
@[simp] theorem State.updCtx_ctxs (s : State) (c : Nat) (f : Ctx → Ctx) : (s.updCtx c f).ctxs = put s.ctxs c (f (s.ctxOf c)) := rfl

/-! ## State.updBound -/

@[simp] theorem State.updBound_mem (s : State) (pa : Nat) (f : Bound → Bound) : (s.updBound pa f).mem = s.mem := rfl
@[simp] theorem State.updBound_poison (s : State) (pa : Nat) (f : Bound → Bound) : (s.updBound pa f).poison = s.poison := rfl
@[simp] theorem State.updBound_old (s : State) (pa : Nat) (f : Bound → Bound) : (s.updBound pa f).old = s.old := rfl
@[simp] theorem State.updBound_l2strm (s : State) (pa : Nat) (f : Bound → Bound) : (s.updBound pa f).l2strm = s.l2strm := rfl
@[simp] theorem State.updBound_l1 (s : State) (pa : Nat) (f : Bound → Bound) : (s.updBound pa f).l1 = s.l1 := rfl
@[simp] theorem State.updBound_rdc (s : State) (pa : Nat) (f : Bound → Bound) : (s.updBound pa f).rdc = s.rdc := rfl
@[simp] theorem State.updBound_tlb (s : State) (pa : Nat) (f : Bound → Bound) : (s.updBound pa f).tlb = s.tlb := rfl
@[simp] theorem State.updBound_walks (s : State) (pa : Nat) (f : Bound → Bound) : (s.updBound pa f).walks = s.walks := rfl
@[simp] theorem State.updBound_code (s : State) (pa : Nat) (f : Bound → Bound) : (s.updBound pa f).code = s.code := rfl
@[simp] theorem State.updBound_loops (s : State) (pa : Nat) (f : Bound → Bound) : (s.updBound pa f).loops = s.loops := rfl
@[simp] theorem State.updBound_ctxs (s : State) (pa : Nat) (f : Bound → Bound) : (s.updBound pa f).ctxs = s.ctxs := rfl
@[simp] theorem State.updBound_launches (s : State) (pa : Nat) (f : Bound → Bound) : (s.updBound pa f).launches = s.launches := rfl
@[simp] theorem State.updBound_blocks (s : State) (pa : Nat) (f : Bound → Bound) : (s.updBound pa f).blocks = s.blocks := rfl
@[simp] theorem State.updBound_sched (s : State) (pa : Nat) (f : Bound → Bound) : (s.updBound pa f).sched = s.sched := rfl
@[simp] theorem State.updBound_copies (s : State) (pa : Nat) (f : Bound → Bound) : (s.updBound pa f).copies = s.copies := rfl
@[simp] theorem State.updBound_tiers (s : State) (pa : Nat) (f : Bound → Bound) : (s.updBound pa f).tiers = s.tiers := rfl
@[simp] theorem State.updBound_icinvs (s : State) (pa : Nat) (f : Bound → Bound) : (s.updBound pa f).icinvs = s.icinvs := rfl
@[simp] theorem State.updBound_fabrics (s : State) (pa : Nat) (f : Bound → Bound) : (s.updBound pa f).fabrics = s.fabrics := rfl
@[simp] theorem State.updBound_rangers (s : State) (pa : Nat) (f : Bound → Bound) : (s.updBound pa f).rangers = s.rangers := rfl
@[simp] theorem State.updBound_dev (s : State) (pa : Nat) (f : Bound → Bound) : (s.updBound pa f).dev = s.dev := rfl
@[simp] theorem State.updBound_plat (s : State) (pa : Nat) (f : Bound → Bound) : (s.updBound pa f).plat = s.plat := rfl
@[simp] theorem State.updBound_frozen (s : State) (pa : Nat) (f : Bound → Bound) : (s.updBound pa f).frozen = s.frozen := rfl
@[simp] theorem State.updBound_cur (s : State) (pa : Nat) (f : Bound → Bound) : (s.updBound pa f).cur = s.cur := rfl
@[simp] theorem State.updBound_agenda (s : State) (pa : Nat) (f : Bound → Bound) : (s.updBound pa f).agenda = s.agenda := rfl
@[simp] theorem State.updBound_fresh (s : State) (pa : Nat) (f : Bound → Bound) : (s.updBound pa f).fresh = s.fresh := rfl

/-! ## State.reply -/

@[simp] theorem State.reply_mem (s : State) (l : List Reply) : (s.reply l).mem = s.mem := rfl
@[simp] theorem State.reply_poison (s : State) (l : List Reply) : (s.reply l).poison = s.poison := rfl
@[simp] theorem State.reply_old (s : State) (l : List Reply) : (s.reply l).old = s.old := rfl
@[simp] theorem State.reply_l2strm (s : State) (l : List Reply) : (s.reply l).l2strm = s.l2strm := rfl
@[simp] theorem State.reply_l1 (s : State) (l : List Reply) : (s.reply l).l1 = s.l1 := rfl
@[simp] theorem State.reply_rdc (s : State) (l : List Reply) : (s.reply l).rdc = s.rdc := rfl
@[simp] theorem State.reply_tlb (s : State) (l : List Reply) : (s.reply l).tlb = s.tlb := rfl
@[simp] theorem State.reply_walks (s : State) (l : List Reply) : (s.reply l).walks = s.walks := rfl
@[simp] theorem State.reply_code (s : State) (l : List Reply) : (s.reply l).code = s.code := rfl
@[simp] theorem State.reply_loops (s : State) (l : List Reply) : (s.reply l).loops = s.loops := rfl
@[simp] theorem State.reply_ctxs (s : State) (l : List Reply) : (s.reply l).ctxs = s.ctxs := rfl
@[simp] theorem State.reply_launches (s : State) (l : List Reply) : (s.reply l).launches = s.launches := rfl
@[simp] theorem State.reply_blocks (s : State) (l : List Reply) : (s.reply l).blocks = s.blocks := rfl
@[simp] theorem State.reply_sched (s : State) (l : List Reply) : (s.reply l).sched = s.sched := rfl
@[simp] theorem State.reply_copies (s : State) (l : List Reply) : (s.reply l).copies = s.copies := rfl
@[simp] theorem State.reply_tiers (s : State) (l : List Reply) : (s.reply l).tiers = s.tiers := rfl
@[simp] theorem State.reply_icinvs (s : State) (l : List Reply) : (s.reply l).icinvs = s.icinvs := rfl
@[simp] theorem State.reply_fabrics (s : State) (l : List Reply) : (s.reply l).fabrics = s.fabrics := rfl
@[simp] theorem State.reply_rangers (s : State) (l : List Reply) : (s.reply l).rangers = s.rangers := rfl
@[simp] theorem State.reply_dev (s : State) (l : List Reply) : (s.reply l).dev = s.dev := rfl
@[simp] theorem State.reply_plat (s : State) (l : List Reply) : (s.reply l).plat = s.plat := rfl
@[simp] theorem State.reply_frozen (s : State) (l : List Reply) : (s.reply l).frozen = s.frozen := rfl
@[simp] theorem State.reply_cur (s : State) (l : List Reply) : (s.reply l).cur = s.cur := rfl
@[simp] theorem State.reply_agenda (s : State) (l : List Reply) : (s.reply l).agenda = s.agenda := rfl
@[simp] theorem State.reply_fresh (s : State) (l : List Reply) : (s.reply l).fresh = s.fresh := rfl

/-! ## State.updStack -/

@[simp] theorem State.updStack_mem (s : State) (k : Nat) (f : Stack → Stack) : (s.updStack k f).mem = s.mem := rfl
@[simp] theorem State.updStack_poison (s : State) (k : Nat) (f : Stack → Stack) : (s.updStack k f).poison = s.poison := rfl
@[simp] theorem State.updStack_old (s : State) (k : Nat) (f : Stack → Stack) : (s.updStack k f).old = s.old := rfl
@[simp] theorem State.updStack_l2strm (s : State) (k : Nat) (f : Stack → Stack) : (s.updStack k f).l2strm = s.l2strm := rfl
@[simp] theorem State.updStack_l1 (s : State) (k : Nat) (f : Stack → Stack) : (s.updStack k f).l1 = s.l1 := rfl
@[simp] theorem State.updStack_rdc (s : State) (k : Nat) (f : Stack → Stack) : (s.updStack k f).rdc = s.rdc := rfl
@[simp] theorem State.updStack_tlb (s : State) (k : Nat) (f : Stack → Stack) : (s.updStack k f).tlb = s.tlb := rfl
@[simp] theorem State.updStack_walks (s : State) (k : Nat) (f : Stack → Stack) : (s.updStack k f).walks = s.walks := rfl
@[simp] theorem State.updStack_code (s : State) (k : Nat) (f : Stack → Stack) : (s.updStack k f).code = s.code := rfl
@[simp] theorem State.updStack_loops (s : State) (k : Nat) (f : Stack → Stack) : (s.updStack k f).loops = s.loops := rfl
@[simp] theorem State.updStack_ctxs (s : State) (k : Nat) (f : Stack → Stack) : (s.updStack k f).ctxs = s.ctxs := rfl
@[simp] theorem State.updStack_launches (s : State) (k : Nat) (f : Stack → Stack) : (s.updStack k f).launches = s.launches := rfl
@[simp] theorem State.updStack_blocks (s : State) (k : Nat) (f : Stack → Stack) : (s.updStack k f).blocks = s.blocks := rfl
@[simp] theorem State.updStack_sched (s : State) (k : Nat) (f : Stack → Stack) : (s.updStack k f).sched = s.sched := rfl
@[simp] theorem State.updStack_copies (s : State) (k : Nat) (f : Stack → Stack) : (s.updStack k f).copies = s.copies := rfl
@[simp] theorem State.updStack_tiers (s : State) (k : Nat) (f : Stack → Stack) : (s.updStack k f).tiers = s.tiers := rfl
@[simp] theorem State.updStack_icinvs (s : State) (k : Nat) (f : Stack → Stack) : (s.updStack k f).icinvs = s.icinvs := rfl
@[simp] theorem State.updStack_potluck (s : State) (k : Nat) (f : Stack → Stack) : (s.updStack k f).potluck = s.potluck := rfl
@[simp] theorem State.updStack_rangers (s : State) (k : Nat) (f : Stack → Stack) : (s.updStack k f).rangers = s.rangers := rfl
@[simp] theorem State.updStack_dev (s : State) (k : Nat) (f : Stack → Stack) : (s.updStack k f).dev = s.dev := rfl
@[simp] theorem State.updStack_plat (s : State) (k : Nat) (f : Stack → Stack) : (s.updStack k f).plat = s.plat := rfl
@[simp] theorem State.updStack_frozen (s : State) (k : Nat) (f : Stack → Stack) : (s.updStack k f).frozen = s.frozen := rfl
@[simp] theorem State.updStack_cur (s : State) (k : Nat) (f : Stack → Stack) : (s.updStack k f).cur = s.cur := rfl
@[simp] theorem State.updStack_agenda (s : State) (k : Nat) (f : Stack → Stack) : (s.updStack k f).agenda = s.agenda := rfl
@[simp] theorem State.updStack_fresh (s : State) (k : Nat) (f : Stack → Stack) : (s.updStack k f).fresh = s.fresh := rfl
@[simp] theorem State.updStack_fabrics (s : State) (k : Nat) (f : Stack → Stack) : (s.updStack k f).fabrics = setNth s.fabrics k (f (s.stackOf k)) := rfl

/-! ## State.updTile -/

@[simp] theorem State.updTile_mem (s : State) (k i : Nat) (f : Tile → Tile) : (s.updTile k i f).mem = s.mem := rfl
@[simp] theorem State.updTile_poison (s : State) (k i : Nat) (f : Tile → Tile) : (s.updTile k i f).poison = s.poison := rfl
@[simp] theorem State.updTile_old (s : State) (k i : Nat) (f : Tile → Tile) : (s.updTile k i f).old = s.old := rfl
@[simp] theorem State.updTile_l2strm (s : State) (k i : Nat) (f : Tile → Tile) : (s.updTile k i f).l2strm = s.l2strm := rfl
@[simp] theorem State.updTile_l1 (s : State) (k i : Nat) (f : Tile → Tile) : (s.updTile k i f).l1 = s.l1 := rfl
@[simp] theorem State.updTile_rdc (s : State) (k i : Nat) (f : Tile → Tile) : (s.updTile k i f).rdc = s.rdc := rfl
@[simp] theorem State.updTile_tlb (s : State) (k i : Nat) (f : Tile → Tile) : (s.updTile k i f).tlb = s.tlb := rfl
@[simp] theorem State.updTile_walks (s : State) (k i : Nat) (f : Tile → Tile) : (s.updTile k i f).walks = s.walks := rfl
@[simp] theorem State.updTile_code (s : State) (k i : Nat) (f : Tile → Tile) : (s.updTile k i f).code = s.code := rfl
@[simp] theorem State.updTile_loops (s : State) (k i : Nat) (f : Tile → Tile) : (s.updTile k i f).loops = s.loops := rfl
@[simp] theorem State.updTile_ctxs (s : State) (k i : Nat) (f : Tile → Tile) : (s.updTile k i f).ctxs = s.ctxs := rfl
@[simp] theorem State.updTile_launches (s : State) (k i : Nat) (f : Tile → Tile) : (s.updTile k i f).launches = s.launches := rfl
@[simp] theorem State.updTile_blocks (s : State) (k i : Nat) (f : Tile → Tile) : (s.updTile k i f).blocks = s.blocks := rfl
@[simp] theorem State.updTile_sched (s : State) (k i : Nat) (f : Tile → Tile) : (s.updTile k i f).sched = s.sched := rfl
@[simp] theorem State.updTile_copies (s : State) (k i : Nat) (f : Tile → Tile) : (s.updTile k i f).copies = s.copies := rfl
@[simp] theorem State.updTile_tiers (s : State) (k i : Nat) (f : Tile → Tile) : (s.updTile k i f).tiers = s.tiers := rfl
@[simp] theorem State.updTile_icinvs (s : State) (k i : Nat) (f : Tile → Tile) : (s.updTile k i f).icinvs = s.icinvs := rfl
@[simp] theorem State.updTile_potluck (s : State) (k i : Nat) (f : Tile → Tile) : (s.updTile k i f).potluck = s.potluck := rfl
@[simp] theorem State.updTile_rangers (s : State) (k i : Nat) (f : Tile → Tile) : (s.updTile k i f).rangers = s.rangers := rfl
@[simp] theorem State.updTile_dev (s : State) (k i : Nat) (f : Tile → Tile) : (s.updTile k i f).dev = s.dev := rfl
@[simp] theorem State.updTile_plat (s : State) (k i : Nat) (f : Tile → Tile) : (s.updTile k i f).plat = s.plat := rfl
@[simp] theorem State.updTile_frozen (s : State) (k i : Nat) (f : Tile → Tile) : (s.updTile k i f).frozen = s.frozen := rfl
@[simp] theorem State.updTile_cur (s : State) (k i : Nat) (f : Tile → Tile) : (s.updTile k i f).cur = s.cur := rfl
@[simp] theorem State.updTile_agenda (s : State) (k i : Nat) (f : Tile → Tile) : (s.updTile k i f).agenda = s.agenda := rfl
@[simp] theorem State.updTile_fresh (s : State) (k i : Nat) (f : Tile → Tile) : (s.updTile k i f).fresh = s.fresh := rfl

/-! ## State.updRun -/

@[simp] theorem State.updRun_mem (s : State) (k : Nat) (r : FabRun) (f : FabRun → FabRun) : (s.updRun k r f).mem = s.mem := rfl
@[simp] theorem State.updRun_poison (s : State) (k : Nat) (r : FabRun) (f : FabRun → FabRun) : (s.updRun k r f).poison = s.poison := rfl
@[simp] theorem State.updRun_old (s : State) (k : Nat) (r : FabRun) (f : FabRun → FabRun) : (s.updRun k r f).old = s.old := rfl
@[simp] theorem State.updRun_l2strm (s : State) (k : Nat) (r : FabRun) (f : FabRun → FabRun) : (s.updRun k r f).l2strm = s.l2strm := rfl
@[simp] theorem State.updRun_l1 (s : State) (k : Nat) (r : FabRun) (f : FabRun → FabRun) : (s.updRun k r f).l1 = s.l1 := rfl
@[simp] theorem State.updRun_rdc (s : State) (k : Nat) (r : FabRun) (f : FabRun → FabRun) : (s.updRun k r f).rdc = s.rdc := rfl
@[simp] theorem State.updRun_tlb (s : State) (k : Nat) (r : FabRun) (f : FabRun → FabRun) : (s.updRun k r f).tlb = s.tlb := rfl
@[simp] theorem State.updRun_walks (s : State) (k : Nat) (r : FabRun) (f : FabRun → FabRun) : (s.updRun k r f).walks = s.walks := rfl
@[simp] theorem State.updRun_code (s : State) (k : Nat) (r : FabRun) (f : FabRun → FabRun) : (s.updRun k r f).code = s.code := rfl
@[simp] theorem State.updRun_loops (s : State) (k : Nat) (r : FabRun) (f : FabRun → FabRun) : (s.updRun k r f).loops = s.loops := rfl
@[simp] theorem State.updRun_ctxs (s : State) (k : Nat) (r : FabRun) (f : FabRun → FabRun) : (s.updRun k r f).ctxs = s.ctxs := rfl
@[simp] theorem State.updRun_launches (s : State) (k : Nat) (r : FabRun) (f : FabRun → FabRun) : (s.updRun k r f).launches = s.launches := rfl
@[simp] theorem State.updRun_blocks (s : State) (k : Nat) (r : FabRun) (f : FabRun → FabRun) : (s.updRun k r f).blocks = s.blocks := rfl
@[simp] theorem State.updRun_sched (s : State) (k : Nat) (r : FabRun) (f : FabRun → FabRun) : (s.updRun k r f).sched = s.sched := rfl
@[simp] theorem State.updRun_copies (s : State) (k : Nat) (r : FabRun) (f : FabRun → FabRun) : (s.updRun k r f).copies = s.copies := rfl
@[simp] theorem State.updRun_tiers (s : State) (k : Nat) (r : FabRun) (f : FabRun → FabRun) : (s.updRun k r f).tiers = s.tiers := rfl
@[simp] theorem State.updRun_icinvs (s : State) (k : Nat) (r : FabRun) (f : FabRun → FabRun) : (s.updRun k r f).icinvs = s.icinvs := rfl
@[simp] theorem State.updRun_potluck (s : State) (k : Nat) (r : FabRun) (f : FabRun → FabRun) : (s.updRun k r f).potluck = s.potluck := rfl
@[simp] theorem State.updRun_rangers (s : State) (k : Nat) (r : FabRun) (f : FabRun → FabRun) : (s.updRun k r f).rangers = s.rangers := rfl
@[simp] theorem State.updRun_dev (s : State) (k : Nat) (r : FabRun) (f : FabRun → FabRun) : (s.updRun k r f).dev = s.dev := rfl
@[simp] theorem State.updRun_plat (s : State) (k : Nat) (r : FabRun) (f : FabRun → FabRun) : (s.updRun k r f).plat = s.plat := rfl
@[simp] theorem State.updRun_frozen (s : State) (k : Nat) (r : FabRun) (f : FabRun → FabRun) : (s.updRun k r f).frozen = s.frozen := rfl
@[simp] theorem State.updRun_cur (s : State) (k : Nat) (r : FabRun) (f : FabRun → FabRun) : (s.updRun k r f).cur = s.cur := rfl
@[simp] theorem State.updRun_agenda (s : State) (k : Nat) (r : FabRun) (f : FabRun → FabRun) : (s.updRun k r f).agenda = s.agenda := rfl
@[simp] theorem State.updRun_fresh (s : State) (k : Nat) (r : FabRun) (f : FabRun → FabRun) : (s.updRun k r f).fresh = s.fresh := rfl

/-! ## State.setRg -/

@[simp] theorem State.setRg_mem (s : State) (r : Nat) (x : Ranger) : (s.setRg r x).mem = s.mem := rfl
@[simp] theorem State.setRg_poison (s : State) (r : Nat) (x : Ranger) : (s.setRg r x).poison = s.poison := rfl
@[simp] theorem State.setRg_old (s : State) (r : Nat) (x : Ranger) : (s.setRg r x).old = s.old := rfl
@[simp] theorem State.setRg_l2strm (s : State) (r : Nat) (x : Ranger) : (s.setRg r x).l2strm = s.l2strm := rfl
@[simp] theorem State.setRg_l1 (s : State) (r : Nat) (x : Ranger) : (s.setRg r x).l1 = s.l1 := rfl
@[simp] theorem State.setRg_rdc (s : State) (r : Nat) (x : Ranger) : (s.setRg r x).rdc = s.rdc := rfl
@[simp] theorem State.setRg_tlb (s : State) (r : Nat) (x : Ranger) : (s.setRg r x).tlb = s.tlb := rfl
@[simp] theorem State.setRg_walks (s : State) (r : Nat) (x : Ranger) : (s.setRg r x).walks = s.walks := rfl
@[simp] theorem State.setRg_code (s : State) (r : Nat) (x : Ranger) : (s.setRg r x).code = s.code := rfl
@[simp] theorem State.setRg_loops (s : State) (r : Nat) (x : Ranger) : (s.setRg r x).loops = s.loops := rfl
@[simp] theorem State.setRg_ctxs (s : State) (r : Nat) (x : Ranger) : (s.setRg r x).ctxs = s.ctxs := rfl
@[simp] theorem State.setRg_launches (s : State) (r : Nat) (x : Ranger) : (s.setRg r x).launches = s.launches := rfl
@[simp] theorem State.setRg_blocks (s : State) (r : Nat) (x : Ranger) : (s.setRg r x).blocks = s.blocks := rfl
@[simp] theorem State.setRg_sched (s : State) (r : Nat) (x : Ranger) : (s.setRg r x).sched = s.sched := rfl
@[simp] theorem State.setRg_copies (s : State) (r : Nat) (x : Ranger) : (s.setRg r x).copies = s.copies := rfl
@[simp] theorem State.setRg_tiers (s : State) (r : Nat) (x : Ranger) : (s.setRg r x).tiers = s.tiers := rfl
@[simp] theorem State.setRg_icinvs (s : State) (r : Nat) (x : Ranger) : (s.setRg r x).icinvs = s.icinvs := rfl
@[simp] theorem State.setRg_potluck (s : State) (r : Nat) (x : Ranger) : (s.setRg r x).potluck = s.potluck := rfl
@[simp] theorem State.setRg_fabrics (s : State) (r : Nat) (x : Ranger) : (s.setRg r x).fabrics = s.fabrics := rfl
@[simp] theorem State.setRg_dev (s : State) (r : Nat) (x : Ranger) : (s.setRg r x).dev = s.dev := rfl
@[simp] theorem State.setRg_plat (s : State) (r : Nat) (x : Ranger) : (s.setRg r x).plat = s.plat := rfl
@[simp] theorem State.setRg_frozen (s : State) (r : Nat) (x : Ranger) : (s.setRg r x).frozen = s.frozen := rfl
@[simp] theorem State.setRg_cur (s : State) (r : Nat) (x : Ranger) : (s.setRg r x).cur = s.cur := rfl
@[simp] theorem State.setRg_agenda (s : State) (r : Nat) (x : Ranger) : (s.setRg r x).agenda = s.agenda := rfl
@[simp] theorem State.setRg_fresh (s : State) (r : Nat) (x : Ranger) : (s.setRg r x).fresh = s.fresh := rfl
@[simp] theorem State.setRg_rangers (s : State) (r : Nat) (x : Ranger) : (s.setRg r x).rangers = setNth s.rangers r x := rfl

/-! ## State.setWstat -/

@[simp] theorem State.setWstat_mem (s : State) (r : Nat) (v : Word) : (s.setWstat r v).mem = s.mem := rfl
@[simp] theorem State.setWstat_poison (s : State) (r : Nat) (v : Word) : (s.setWstat r v).poison = s.poison := rfl
@[simp] theorem State.setWstat_old (s : State) (r : Nat) (v : Word) : (s.setWstat r v).old = s.old := rfl
@[simp] theorem State.setWstat_l2strm (s : State) (r : Nat) (v : Word) : (s.setWstat r v).l2strm = s.l2strm := rfl
@[simp] theorem State.setWstat_l1 (s : State) (r : Nat) (v : Word) : (s.setWstat r v).l1 = s.l1 := rfl
@[simp] theorem State.setWstat_rdc (s : State) (r : Nat) (v : Word) : (s.setWstat r v).rdc = s.rdc := rfl
@[simp] theorem State.setWstat_tlb (s : State) (r : Nat) (v : Word) : (s.setWstat r v).tlb = s.tlb := rfl
@[simp] theorem State.setWstat_walks (s : State) (r : Nat) (v : Word) : (s.setWstat r v).walks = s.walks := rfl
@[simp] theorem State.setWstat_code (s : State) (r : Nat) (v : Word) : (s.setWstat r v).code = s.code := rfl
@[simp] theorem State.setWstat_loops (s : State) (r : Nat) (v : Word) : (s.setWstat r v).loops = s.loops := rfl
@[simp] theorem State.setWstat_ctxs (s : State) (r : Nat) (v : Word) : (s.setWstat r v).ctxs = s.ctxs := rfl
@[simp] theorem State.setWstat_launches (s : State) (r : Nat) (v : Word) : (s.setWstat r v).launches = s.launches := rfl
@[simp] theorem State.setWstat_blocks (s : State) (r : Nat) (v : Word) : (s.setWstat r v).blocks = s.blocks := rfl
@[simp] theorem State.setWstat_sched (s : State) (r : Nat) (v : Word) : (s.setWstat r v).sched = s.sched := rfl
@[simp] theorem State.setWstat_copies (s : State) (r : Nat) (v : Word) : (s.setWstat r v).copies = s.copies := rfl
@[simp] theorem State.setWstat_tiers (s : State) (r : Nat) (v : Word) : (s.setWstat r v).tiers = s.tiers := rfl
@[simp] theorem State.setWstat_icinvs (s : State) (r : Nat) (v : Word) : (s.setWstat r v).icinvs = s.icinvs := rfl
@[simp] theorem State.setWstat_potluck (s : State) (r : Nat) (v : Word) : (s.setWstat r v).potluck = s.potluck := rfl
@[simp] theorem State.setWstat_fabrics (s : State) (r : Nat) (v : Word) : (s.setWstat r v).fabrics = s.fabrics := rfl
@[simp] theorem State.setWstat_dev (s : State) (r : Nat) (v : Word) : (s.setWstat r v).dev = s.dev := rfl
@[simp] theorem State.setWstat_plat (s : State) (r : Nat) (v : Word) : (s.setWstat r v).plat = s.plat := rfl
@[simp] theorem State.setWstat_frozen (s : State) (r : Nat) (v : Word) : (s.setWstat r v).frozen = s.frozen := rfl
@[simp] theorem State.setWstat_cur (s : State) (r : Nat) (v : Word) : (s.setWstat r v).cur = s.cur := rfl
@[simp] theorem State.setWstat_agenda (s : State) (r : Nat) (v : Word) : (s.setWstat r v).agenda = s.agenda := rfl
@[simp] theorem State.setWstat_fresh (s : State) (r : Nat) (v : Word) : (s.setWstat r v).fresh = s.fresh := rfl

/-! ## State.emit -/

@[simp] theorem State.emit_mem (s : State) (o : Output) : (s.emit o).mem = s.mem := rfl
@[simp] theorem State.emit_poison (s : State) (o : Output) : (s.emit o).poison = s.poison := rfl
@[simp] theorem State.emit_old (s : State) (o : Output) : (s.emit o).old = s.old := rfl
@[simp] theorem State.emit_l2strm (s : State) (o : Output) : (s.emit o).l2strm = s.l2strm := rfl
@[simp] theorem State.emit_l1 (s : State) (o : Output) : (s.emit o).l1 = s.l1 := rfl
@[simp] theorem State.emit_rdc (s : State) (o : Output) : (s.emit o).rdc = s.rdc := rfl
@[simp] theorem State.emit_tlb (s : State) (o : Output) : (s.emit o).tlb = s.tlb := rfl
@[simp] theorem State.emit_walks (s : State) (o : Output) : (s.emit o).walks = s.walks := rfl
@[simp] theorem State.emit_code (s : State) (o : Output) : (s.emit o).code = s.code := rfl
@[simp] theorem State.emit_loops (s : State) (o : Output) : (s.emit o).loops = s.loops := rfl
@[simp] theorem State.emit_ctxs (s : State) (o : Output) : (s.emit o).ctxs = s.ctxs := rfl
@[simp] theorem State.emit_launches (s : State) (o : Output) : (s.emit o).launches = s.launches := rfl
@[simp] theorem State.emit_blocks (s : State) (o : Output) : (s.emit o).blocks = s.blocks := rfl
@[simp] theorem State.emit_sched (s : State) (o : Output) : (s.emit o).sched = s.sched := rfl
@[simp] theorem State.emit_copies (s : State) (o : Output) : (s.emit o).copies = s.copies := rfl
@[simp] theorem State.emit_tiers (s : State) (o : Output) : (s.emit o).tiers = s.tiers := rfl
@[simp] theorem State.emit_icinvs (s : State) (o : Output) : (s.emit o).icinvs = s.icinvs := rfl
@[simp] theorem State.emit_potluck (s : State) (o : Output) : (s.emit o).potluck = s.potluck := rfl
@[simp] theorem State.emit_fabrics (s : State) (o : Output) : (s.emit o).fabrics = s.fabrics := rfl
@[simp] theorem State.emit_rangers (s : State) (o : Output) : (s.emit o).rangers = s.rangers := rfl
@[simp] theorem State.emit_dev (s : State) (o : Output) : (s.emit o).dev = s.dev := rfl
@[simp] theorem State.emit_frozen (s : State) (o : Output) : (s.emit o).frozen = s.frozen := rfl
@[simp] theorem State.emit_cur (s : State) (o : Output) : (s.emit o).cur = s.cur := rfl
@[simp] theorem State.emit_agenda (s : State) (o : Output) : (s.emit o).agenda = s.agenda := rfl
@[simp] theorem State.emit_fresh (s : State) (o : Output) : (s.emit o).fresh = s.fresh := rfl

/-! ## State.next -/

@[simp] theorem State.next_mem (s : State) : (s.next).mem = s.mem := rfl
@[simp] theorem State.next_poison (s : State) : (s.next).poison = s.poison := rfl
@[simp] theorem State.next_old (s : State) : (s.next).old = s.old := rfl
@[simp] theorem State.next_l2strm (s : State) : (s.next).l2strm = s.l2strm := rfl
@[simp] theorem State.next_l1 (s : State) : (s.next).l1 = s.l1 := rfl
@[simp] theorem State.next_rdc (s : State) : (s.next).rdc = s.rdc := rfl
@[simp] theorem State.next_tlb (s : State) : (s.next).tlb = s.tlb := rfl
@[simp] theorem State.next_walks (s : State) : (s.next).walks = s.walks := rfl
@[simp] theorem State.next_code (s : State) : (s.next).code = s.code := rfl
@[simp] theorem State.next_loops (s : State) : (s.next).loops = s.loops := rfl
@[simp] theorem State.next_ctxs (s : State) : (s.next).ctxs = s.ctxs := rfl
@[simp] theorem State.next_launches (s : State) : (s.next).launches = s.launches := rfl
@[simp] theorem State.next_blocks (s : State) : (s.next).blocks = s.blocks := rfl
@[simp] theorem State.next_sched (s : State) : (s.next).sched = s.sched := rfl
@[simp] theorem State.next_copies (s : State) : (s.next).copies = s.copies := rfl
@[simp] theorem State.next_tiers (s : State) : (s.next).tiers = s.tiers := rfl
@[simp] theorem State.next_icinvs (s : State) : (s.next).icinvs = s.icinvs := rfl
@[simp] theorem State.next_potluck (s : State) : (s.next).potluck = s.potluck := rfl
@[simp] theorem State.next_fabrics (s : State) : (s.next).fabrics = s.fabrics := rfl
@[simp] theorem State.next_rangers (s : State) : (s.next).rangers = s.rangers := rfl
@[simp] theorem State.next_dev (s : State) : (s.next).dev = s.dev := rfl
@[simp] theorem State.next_plat (s : State) : (s.next).plat = s.plat := rfl
@[simp] theorem State.next_frozen (s : State) : (s.next).frozen = s.frozen := rfl
@[simp] theorem State.next_cur (s : State) : (s.next).cur = s.cur := rfl
@[simp] theorem State.next_agenda (s : State) : (s.next).agenda = s.agenda := rfl
@[simp] theorem State.next_fresh (s : State) : (s.next).fresh = s.fresh + 1 := rfl

/-! ## State.setMb -/

@[simp] theorem State.setMb_mem (s : State) (n : Nat) (m : Mailbox) : (s.setMb n m).mem = s.mem := rfl
@[simp] theorem State.setMb_poison (s : State) (n : Nat) (m : Mailbox) : (s.setMb n m).poison = s.poison := rfl
@[simp] theorem State.setMb_old (s : State) (n : Nat) (m : Mailbox) : (s.setMb n m).old = s.old := rfl
@[simp] theorem State.setMb_l2strm (s : State) (n : Nat) (m : Mailbox) : (s.setMb n m).l2strm = s.l2strm := rfl
@[simp] theorem State.setMb_l1 (s : State) (n : Nat) (m : Mailbox) : (s.setMb n m).l1 = s.l1 := rfl
@[simp] theorem State.setMb_rdc (s : State) (n : Nat) (m : Mailbox) : (s.setMb n m).rdc = s.rdc := rfl
@[simp] theorem State.setMb_tlb (s : State) (n : Nat) (m : Mailbox) : (s.setMb n m).tlb = s.tlb := rfl
@[simp] theorem State.setMb_walks (s : State) (n : Nat) (m : Mailbox) : (s.setMb n m).walks = s.walks := rfl
@[simp] theorem State.setMb_code (s : State) (n : Nat) (m : Mailbox) : (s.setMb n m).code = s.code := rfl
@[simp] theorem State.setMb_loops (s : State) (n : Nat) (m : Mailbox) : (s.setMb n m).loops = s.loops := rfl
@[simp] theorem State.setMb_ctxs (s : State) (n : Nat) (m : Mailbox) : (s.setMb n m).ctxs = s.ctxs := rfl
@[simp] theorem State.setMb_launches (s : State) (n : Nat) (m : Mailbox) : (s.setMb n m).launches = s.launches := rfl
@[simp] theorem State.setMb_blocks (s : State) (n : Nat) (m : Mailbox) : (s.setMb n m).blocks = s.blocks := rfl
@[simp] theorem State.setMb_sched (s : State) (n : Nat) (m : Mailbox) : (s.setMb n m).sched = s.sched := rfl
@[simp] theorem State.setMb_copies (s : State) (n : Nat) (m : Mailbox) : (s.setMb n m).copies = s.copies := rfl
@[simp] theorem State.setMb_tiers (s : State) (n : Nat) (m : Mailbox) : (s.setMb n m).tiers = s.tiers := rfl
@[simp] theorem State.setMb_icinvs (s : State) (n : Nat) (m : Mailbox) : (s.setMb n m).icinvs = s.icinvs := rfl
@[simp] theorem State.setMb_potluck (s : State) (n : Nat) (m : Mailbox) : (s.setMb n m).potluck = s.potluck := rfl
@[simp] theorem State.setMb_fabrics (s : State) (n : Nat) (m : Mailbox) : (s.setMb n m).fabrics = s.fabrics := rfl
@[simp] theorem State.setMb_rangers (s : State) (n : Nat) (m : Mailbox) : (s.setMb n m).rangers = s.rangers := rfl
@[simp] theorem State.setMb_dev (s : State) (n : Nat) (m : Mailbox) : (s.setMb n m).dev = s.dev := rfl
@[simp] theorem State.setMb_frozen (s : State) (n : Nat) (m : Mailbox) : (s.setMb n m).frozen = s.frozen := rfl
@[simp] theorem State.setMb_cur (s : State) (n : Nat) (m : Mailbox) : (s.setMb n m).cur = s.cur := rfl
@[simp] theorem State.setMb_agenda (s : State) (n : Nat) (m : Mailbox) : (s.setMb n m).agenda = s.agenda := rfl
@[simp] theorem State.setMb_fresh (s : State) (n : Nat) (m : Mailbox) : (s.setMb n m).fresh = s.fresh := rfl

/-! ## State.setPoison -/

@[simp] theorem State.setPoison_mem (s : State) (pa : Nat) (on : Bool) : (s.setPoison pa on).mem = s.mem := rfl
@[simp] theorem State.setPoison_old (s : State) (pa : Nat) (on : Bool) : (s.setPoison pa on).old = s.old := rfl
@[simp] theorem State.setPoison_l2strm (s : State) (pa : Nat) (on : Bool) : (s.setPoison pa on).l2strm = s.l2strm := rfl
@[simp] theorem State.setPoison_l1 (s : State) (pa : Nat) (on : Bool) : (s.setPoison pa on).l1 = s.l1 := rfl
@[simp] theorem State.setPoison_rdc (s : State) (pa : Nat) (on : Bool) : (s.setPoison pa on).rdc = s.rdc := rfl
@[simp] theorem State.setPoison_tlb (s : State) (pa : Nat) (on : Bool) : (s.setPoison pa on).tlb = s.tlb := rfl
@[simp] theorem State.setPoison_walks (s : State) (pa : Nat) (on : Bool) : (s.setPoison pa on).walks = s.walks := rfl
@[simp] theorem State.setPoison_code (s : State) (pa : Nat) (on : Bool) : (s.setPoison pa on).code = s.code := rfl
@[simp] theorem State.setPoison_loops (s : State) (pa : Nat) (on : Bool) : (s.setPoison pa on).loops = s.loops := rfl
@[simp] theorem State.setPoison_ctxs (s : State) (pa : Nat) (on : Bool) : (s.setPoison pa on).ctxs = s.ctxs := rfl
@[simp] theorem State.setPoison_launches (s : State) (pa : Nat) (on : Bool) : (s.setPoison pa on).launches = s.launches := rfl
@[simp] theorem State.setPoison_blocks (s : State) (pa : Nat) (on : Bool) : (s.setPoison pa on).blocks = s.blocks := rfl
@[simp] theorem State.setPoison_sched (s : State) (pa : Nat) (on : Bool) : (s.setPoison pa on).sched = s.sched := rfl
@[simp] theorem State.setPoison_copies (s : State) (pa : Nat) (on : Bool) : (s.setPoison pa on).copies = s.copies := rfl
@[simp] theorem State.setPoison_tiers (s : State) (pa : Nat) (on : Bool) : (s.setPoison pa on).tiers = s.tiers := rfl
@[simp] theorem State.setPoison_icinvs (s : State) (pa : Nat) (on : Bool) : (s.setPoison pa on).icinvs = s.icinvs := rfl
@[simp] theorem State.setPoison_potluck (s : State) (pa : Nat) (on : Bool) : (s.setPoison pa on).potluck = s.potluck := rfl
@[simp] theorem State.setPoison_fabrics (s : State) (pa : Nat) (on : Bool) : (s.setPoison pa on).fabrics = s.fabrics := rfl
@[simp] theorem State.setPoison_rangers (s : State) (pa : Nat) (on : Bool) : (s.setPoison pa on).rangers = s.rangers := rfl
@[simp] theorem State.setPoison_dev (s : State) (pa : Nat) (on : Bool) : (s.setPoison pa on).dev = s.dev := rfl
@[simp] theorem State.setPoison_plat (s : State) (pa : Nat) (on : Bool) : (s.setPoison pa on).plat = s.plat := rfl
@[simp] theorem State.setPoison_frozen (s : State) (pa : Nat) (on : Bool) : (s.setPoison pa on).frozen = s.frozen := rfl
@[simp] theorem State.setPoison_cur (s : State) (pa : Nat) (on : Bool) : (s.setPoison pa on).cur = s.cur := rfl
@[simp] theorem State.setPoison_agenda (s : State) (pa : Nat) (on : Bool) : (s.setPoison pa on).agenda = s.agenda := rfl
@[simp] theorem State.setPoison_fresh (s : State) (pa : Nat) (on : Bool) : (s.setPoison pa on).fresh = s.fresh := rfl

/-! ## State.setByte -/

@[simp] theorem State.setByte_poison (s : State) (by_ : Bool) (pa : Nat) (b : Byte) : (s.setByte by_ pa b).poison = s.poison := rfl
@[simp] theorem State.setByte_l2strm (s : State) (by_ : Bool) (pa : Nat) (b : Byte) : (s.setByte by_ pa b).l2strm = s.l2strm := rfl
@[simp] theorem State.setByte_l1 (s : State) (by_ : Bool) (pa : Nat) (b : Byte) : (s.setByte by_ pa b).l1 = s.l1 := rfl
@[simp] theorem State.setByte_tlb (s : State) (by_ : Bool) (pa : Nat) (b : Byte) : (s.setByte by_ pa b).tlb = s.tlb := rfl
@[simp] theorem State.setByte_walks (s : State) (by_ : Bool) (pa : Nat) (b : Byte) : (s.setByte by_ pa b).walks = s.walks := rfl
@[simp] theorem State.setByte_code (s : State) (by_ : Bool) (pa : Nat) (b : Byte) : (s.setByte by_ pa b).code = s.code := rfl
@[simp] theorem State.setByte_loops (s : State) (by_ : Bool) (pa : Nat) (b : Byte) : (s.setByte by_ pa b).loops = s.loops := rfl
@[simp] theorem State.setByte_ctxs (s : State) (by_ : Bool) (pa : Nat) (b : Byte) : (s.setByte by_ pa b).ctxs = s.ctxs := rfl
@[simp] theorem State.setByte_launches (s : State) (by_ : Bool) (pa : Nat) (b : Byte) : (s.setByte by_ pa b).launches = s.launches := rfl
@[simp] theorem State.setByte_blocks (s : State) (by_ : Bool) (pa : Nat) (b : Byte) : (s.setByte by_ pa b).blocks = s.blocks := rfl
@[simp] theorem State.setByte_sched (s : State) (by_ : Bool) (pa : Nat) (b : Byte) : (s.setByte by_ pa b).sched = s.sched := rfl
@[simp] theorem State.setByte_copies (s : State) (by_ : Bool) (pa : Nat) (b : Byte) : (s.setByte by_ pa b).copies = s.copies := rfl
@[simp] theorem State.setByte_tiers (s : State) (by_ : Bool) (pa : Nat) (b : Byte) : (s.setByte by_ pa b).tiers = s.tiers := rfl
@[simp] theorem State.setByte_icinvs (s : State) (by_ : Bool) (pa : Nat) (b : Byte) : (s.setByte by_ pa b).icinvs = s.icinvs := rfl
@[simp] theorem State.setByte_potluck (s : State) (by_ : Bool) (pa : Nat) (b : Byte) : (s.setByte by_ pa b).potluck = s.potluck := rfl
@[simp] theorem State.setByte_fabrics (s : State) (by_ : Bool) (pa : Nat) (b : Byte) : (s.setByte by_ pa b).fabrics = s.fabrics := rfl
@[simp] theorem State.setByte_rangers (s : State) (by_ : Bool) (pa : Nat) (b : Byte) : (s.setByte by_ pa b).rangers = s.rangers := rfl
@[simp] theorem State.setByte_dev (s : State) (by_ : Bool) (pa : Nat) (b : Byte) : (s.setByte by_ pa b).dev = s.dev := rfl
@[simp] theorem State.setByte_plat (s : State) (by_ : Bool) (pa : Nat) (b : Byte) : (s.setByte by_ pa b).plat = s.plat := rfl
@[simp] theorem State.setByte_frozen (s : State) (by_ : Bool) (pa : Nat) (b : Byte) : (s.setByte by_ pa b).frozen = s.frozen := rfl
@[simp] theorem State.setByte_cur (s : State) (by_ : Bool) (pa : Nat) (b : Byte) : (s.setByte by_ pa b).cur = s.cur := rfl
@[simp] theorem State.setByte_agenda (s : State) (by_ : Bool) (pa : Nat) (b : Byte) : (s.setByte by_ pa b).agenda = s.agenda := rfl
@[simp] theorem State.setByte_fresh (s : State) (by_ : Bool) (pa : Nat) (b : Byte) : (s.setByte by_ pa b).fresh = s.fresh := rfl
@[simp] theorem State.setByte_mem (s : State) (by_ : Bool) (pa : Nat) (b : Byte) : (s.setByte by_ pa b).mem = Sparse.set s.mem pa b := rfl

/-! ## State.l1Put -/

@[simp] theorem State.l1Put_mem (s : State) (e : L1Sector) : (s.l1Put e).mem = s.mem := rfl
@[simp] theorem State.l1Put_poison (s : State) (e : L1Sector) : (s.l1Put e).poison = s.poison := rfl
@[simp] theorem State.l1Put_old (s : State) (e : L1Sector) : (s.l1Put e).old = s.old := rfl
@[simp] theorem State.l1Put_l2strm (s : State) (e : L1Sector) : (s.l1Put e).l2strm = s.l2strm := rfl
@[simp] theorem State.l1Put_rdc (s : State) (e : L1Sector) : (s.l1Put e).rdc = s.rdc := rfl
@[simp] theorem State.l1Put_tlb (s : State) (e : L1Sector) : (s.l1Put e).tlb = s.tlb := rfl
@[simp] theorem State.l1Put_walks (s : State) (e : L1Sector) : (s.l1Put e).walks = s.walks := rfl
@[simp] theorem State.l1Put_code (s : State) (e : L1Sector) : (s.l1Put e).code = s.code := rfl
@[simp] theorem State.l1Put_loops (s : State) (e : L1Sector) : (s.l1Put e).loops = s.loops := rfl
@[simp] theorem State.l1Put_ctxs (s : State) (e : L1Sector) : (s.l1Put e).ctxs = s.ctxs := rfl
@[simp] theorem State.l1Put_launches (s : State) (e : L1Sector) : (s.l1Put e).launches = s.launches := rfl
@[simp] theorem State.l1Put_blocks (s : State) (e : L1Sector) : (s.l1Put e).blocks = s.blocks := rfl
@[simp] theorem State.l1Put_sched (s : State) (e : L1Sector) : (s.l1Put e).sched = s.sched := rfl
@[simp] theorem State.l1Put_copies (s : State) (e : L1Sector) : (s.l1Put e).copies = s.copies := rfl
@[simp] theorem State.l1Put_tiers (s : State) (e : L1Sector) : (s.l1Put e).tiers = s.tiers := rfl
@[simp] theorem State.l1Put_icinvs (s : State) (e : L1Sector) : (s.l1Put e).icinvs = s.icinvs := rfl
@[simp] theorem State.l1Put_potluck (s : State) (e : L1Sector) : (s.l1Put e).potluck = s.potluck := rfl
@[simp] theorem State.l1Put_fabrics (s : State) (e : L1Sector) : (s.l1Put e).fabrics = s.fabrics := rfl
@[simp] theorem State.l1Put_rangers (s : State) (e : L1Sector) : (s.l1Put e).rangers = s.rangers := rfl
@[simp] theorem State.l1Put_dev (s : State) (e : L1Sector) : (s.l1Put e).dev = s.dev := rfl
@[simp] theorem State.l1Put_plat (s : State) (e : L1Sector) : (s.l1Put e).plat = s.plat := rfl
@[simp] theorem State.l1Put_frozen (s : State) (e : L1Sector) : (s.l1Put e).frozen = s.frozen := rfl
@[simp] theorem State.l1Put_cur (s : State) (e : L1Sector) : (s.l1Put e).cur = s.cur := rfl
@[simp] theorem State.l1Put_agenda (s : State) (e : L1Sector) : (s.l1Put e).agenda = s.agenda := rfl
@[simp] theorem State.l1Put_fresh (s : State) (e : L1Sector) : (s.l1Put e).fresh = s.fresh := rfl

/-! ## State.setTier -/

@[simp] theorem State.setTier_mem (s : State) (t : TierCmd) : (s.setTier t).mem = s.mem := rfl
@[simp] theorem State.setTier_poison (s : State) (t : TierCmd) : (s.setTier t).poison = s.poison := rfl
@[simp] theorem State.setTier_old (s : State) (t : TierCmd) : (s.setTier t).old = s.old := rfl
@[simp] theorem State.setTier_l2strm (s : State) (t : TierCmd) : (s.setTier t).l2strm = s.l2strm := rfl
@[simp] theorem State.setTier_l1 (s : State) (t : TierCmd) : (s.setTier t).l1 = s.l1 := rfl
@[simp] theorem State.setTier_rdc (s : State) (t : TierCmd) : (s.setTier t).rdc = s.rdc := rfl
@[simp] theorem State.setTier_tlb (s : State) (t : TierCmd) : (s.setTier t).tlb = s.tlb := rfl
@[simp] theorem State.setTier_walks (s : State) (t : TierCmd) : (s.setTier t).walks = s.walks := rfl
@[simp] theorem State.setTier_code (s : State) (t : TierCmd) : (s.setTier t).code = s.code := rfl
@[simp] theorem State.setTier_loops (s : State) (t : TierCmd) : (s.setTier t).loops = s.loops := rfl
@[simp] theorem State.setTier_ctxs (s : State) (t : TierCmd) : (s.setTier t).ctxs = s.ctxs := rfl
@[simp] theorem State.setTier_launches (s : State) (t : TierCmd) : (s.setTier t).launches = s.launches := rfl
@[simp] theorem State.setTier_blocks (s : State) (t : TierCmd) : (s.setTier t).blocks = s.blocks := rfl
@[simp] theorem State.setTier_sched (s : State) (t : TierCmd) : (s.setTier t).sched = s.sched := rfl
@[simp] theorem State.setTier_copies (s : State) (t : TierCmd) : (s.setTier t).copies = s.copies := rfl
@[simp] theorem State.setTier_icinvs (s : State) (t : TierCmd) : (s.setTier t).icinvs = s.icinvs := rfl
@[simp] theorem State.setTier_potluck (s : State) (t : TierCmd) : (s.setTier t).potluck = s.potluck := rfl
@[simp] theorem State.setTier_fabrics (s : State) (t : TierCmd) : (s.setTier t).fabrics = s.fabrics := rfl
@[simp] theorem State.setTier_rangers (s : State) (t : TierCmd) : (s.setTier t).rangers = s.rangers := rfl
@[simp] theorem State.setTier_dev (s : State) (t : TierCmd) : (s.setTier t).dev = s.dev := rfl
@[simp] theorem State.setTier_plat (s : State) (t : TierCmd) : (s.setTier t).plat = s.plat := rfl
@[simp] theorem State.setTier_frozen (s : State) (t : TierCmd) : (s.setTier t).frozen = s.frozen := rfl
@[simp] theorem State.setTier_cur (s : State) (t : TierCmd) : (s.setTier t).cur = s.cur := rfl
@[simp] theorem State.setTier_agenda (s : State) (t : TierCmd) : (s.setTier t).agenda = s.agenda := rfl
@[simp] theorem State.setTier_fresh (s : State) (t : TierCmd) : (s.setTier t).fresh = s.fresh := rfl

/-! ## State.setCopy -/

@[simp] theorem State.setCopy_mem (s : State) (e : CopyEngine) : (s.setCopy e).mem = s.mem := rfl
@[simp] theorem State.setCopy_poison (s : State) (e : CopyEngine) : (s.setCopy e).poison = s.poison := rfl
@[simp] theorem State.setCopy_old (s : State) (e : CopyEngine) : (s.setCopy e).old = s.old := rfl
@[simp] theorem State.setCopy_l2strm (s : State) (e : CopyEngine) : (s.setCopy e).l2strm = s.l2strm := rfl
@[simp] theorem State.setCopy_l1 (s : State) (e : CopyEngine) : (s.setCopy e).l1 = s.l1 := rfl
@[simp] theorem State.setCopy_rdc (s : State) (e : CopyEngine) : (s.setCopy e).rdc = s.rdc := rfl
@[simp] theorem State.setCopy_tlb (s : State) (e : CopyEngine) : (s.setCopy e).tlb = s.tlb := rfl
@[simp] theorem State.setCopy_walks (s : State) (e : CopyEngine) : (s.setCopy e).walks = s.walks := rfl
@[simp] theorem State.setCopy_code (s : State) (e : CopyEngine) : (s.setCopy e).code = s.code := rfl
@[simp] theorem State.setCopy_loops (s : State) (e : CopyEngine) : (s.setCopy e).loops = s.loops := rfl
@[simp] theorem State.setCopy_ctxs (s : State) (e : CopyEngine) : (s.setCopy e).ctxs = s.ctxs := rfl
@[simp] theorem State.setCopy_launches (s : State) (e : CopyEngine) : (s.setCopy e).launches = s.launches := rfl
@[simp] theorem State.setCopy_blocks (s : State) (e : CopyEngine) : (s.setCopy e).blocks = s.blocks := rfl
@[simp] theorem State.setCopy_sched (s : State) (e : CopyEngine) : (s.setCopy e).sched = s.sched := rfl
@[simp] theorem State.setCopy_tiers (s : State) (e : CopyEngine) : (s.setCopy e).tiers = s.tiers := rfl
@[simp] theorem State.setCopy_icinvs (s : State) (e : CopyEngine) : (s.setCopy e).icinvs = s.icinvs := rfl
@[simp] theorem State.setCopy_potluck (s : State) (e : CopyEngine) : (s.setCopy e).potluck = s.potluck := rfl
@[simp] theorem State.setCopy_fabrics (s : State) (e : CopyEngine) : (s.setCopy e).fabrics = s.fabrics := rfl
@[simp] theorem State.setCopy_rangers (s : State) (e : CopyEngine) : (s.setCopy e).rangers = s.rangers := rfl
@[simp] theorem State.setCopy_dev (s : State) (e : CopyEngine) : (s.setCopy e).dev = s.dev := rfl
@[simp] theorem State.setCopy_plat (s : State) (e : CopyEngine) : (s.setCopy e).plat = s.plat := rfl
@[simp] theorem State.setCopy_frozen (s : State) (e : CopyEngine) : (s.setCopy e).frozen = s.frozen := rfl
@[simp] theorem State.setCopy_cur (s : State) (e : CopyEngine) : (s.setCopy e).cur = s.cur := rfl
@[simp] theorem State.setCopy_agenda (s : State) (e : CopyEngine) : (s.setCopy e).agenda = s.agenda := rfl
@[simp] theorem State.setCopy_fresh (s : State) (e : CopyEngine) : (s.setCopy e).fresh = s.fresh := rfl

/-! ## Group.vset -/

@[simp] theorem Group.vset_index (g : Group) (n l : Nat) (x : Word) : (g.vset n l x).index = g.index := rfl
@[simp] theorem Group.vset_part (g : Group) (n l : Nat) (x : Word) : (g.vset n l x).part = g.part := rfl
@[simp] theorem Group.vset_slot (g : Group) (n l : Nat) (x : Word) : (g.vset n l x).slot = g.slot := rfl
@[simp] theorem Group.vset_role (g : Group) (n l : Nat) (x : Word) : (g.vset n l x).role = g.role := rfl
@[simp] theorem Group.vset_alloc (g : Group) (n l : Nat) (x : Word) : (g.vset n l x).alloc = g.alloc := rfl
@[simp] theorem Group.vset_acct (g : Group) (n l : Nat) (x : Word) : (g.vset n l x).acct = g.acct := rfl
@[simp] theorem Group.vset_present (g : Group) (n l : Nat) (x : Word) : (g.vset n l x).present = g.present := rfl
@[simp] theorem Group.vset_live (g : Group) (n l : Nat) (x : Word) : (g.vset n l x).live = g.live := rfl
@[simp] theorem Group.vset_tab (g : Group) (n l : Nat) (x : Word) : (g.vset n l x).tab = g.tab := rfl
@[simp] theorem Group.vset_sr (g : Group) (n l : Nat) (x : Word) : (g.vset n l x).sr = g.sr := rfl
@[simp] theorem Group.vset_vEmpty (g : Group) (n l : Nat) (x : Word) : (g.vset n l x).vEmpty = g.vEmpty := rfl
@[simp] theorem Group.vset_sEmpty (g : Group) (n l : Nat) (x : Word) : (g.vset n l x).sEmpty = g.sEmpty := rfl
@[simp] theorem Group.vset_preds (g : Group) (n l : Nat) (x : Word) : (g.vset n l x).preds = g.preds := rfl
@[simp] theorem Group.vset_masks (g : Group) (n l : Nat) (x : Word) : (g.vset n l x).masks = g.masks := rfl
@[simp] theorem Group.vset_gens (g : Group) (n l : Nat) (x : Word) : (g.vset n l x).gens = g.gens := rfl
@[simp] theorem Group.vset_wids (g : Group) (n l : Nat) (x : Word) : (g.vset n l x).wids = g.wids := rfl
@[simp] theorem Group.vset_seqs (g : Group) (n l : Nat) (x : Word) : (g.vset n l x).seqs = g.seqs := rfl
@[simp] theorem Group.vset_nStaged (g : Group) (n l : Nat) (x : Word) : (g.vset n l x).nStaged = g.nStaged := rfl
@[simp] theorem Group.vset_fpflags (g : Group) (n l : Nat) (x : Word) : (g.vset n l x).fpflags = g.fpflags := rfl
@[simp] theorem Group.vset_mxflags (g : Group) (n l : Nat) (x : Word) : (g.vset n l x).mxflags = g.mxflags := rfl
@[simp] theorem Group.vset_phwm (g : Group) (n l : Nat) (x : Word) : (g.vset n l x).phwm = g.phwm := rfl
@[simp] theorem Group.vset_gang (g : Group) (n l : Nat) (x : Word) : (g.vset n l x).gang = g.gang := rfl
@[simp] theorem Group.vset_gangSeq (g : Group) (n l : Nat) (x : Word) : (g.vset n l x).gangSeq = g.gangSeq := rfl
@[simp] theorem Group.vset_tiles (g : Group) (n l : Nat) (x : Word) : (g.vset n l x).tiles = g.tiles := rfl
@[simp] theorem Group.vset_gmmas (g : Group) (n l : Nat) (x : Word) : (g.vset n l x).gmmas = g.gmmas := rfl
@[simp] theorem Group.vset_latch (g : Group) (n l : Nat) (x : Word) : (g.vset n l x).latch = g.latch := rfl
@[simp] theorem Group.vset_pend (g : Group) (n l : Nat) (x : Word) : (g.vset n l x).pend = g.pend := rfl
@[simp] theorem Group.vset_waits (g : Group) (n l : Nat) (x : Word) : (g.vset n l x).waits = g.waits := rfl
@[simp] theorem Group.vset_trap (g : Group) (n l : Nat) (x : Word) : (g.vset n l x).trap = g.trap := rfl
@[simp] theorem Group.vset_stopped (g : Group) (n l : Nat) (x : Word) : (g.vset n l x).stopped = g.stopped := rfl
@[simp] theorem Group.vset_stopReq (g : Group) (n l : Nat) (x : Word) : (g.vset n l x).stopReq = g.stopReq := rfl
@[simp] theorem Group.vset_stepping (g : Group) (n l : Nat) (x : Word) : (g.vset n l x).stepping = g.stepping := rfl
@[simp] theorem Group.vset_saving (g : Group) (n l : Nat) (x : Word) : (g.vset n l x).saving = g.saving := rfl
@[simp] theorem Group.vset_run (g : Group) (n l : Nat) (x : Word) : (g.vset n l x).run = g.run := rfl
@[simp] theorem Group.vset_lastIssue (g : Group) (n l : Nat) (x : Word) : (g.vset n l x).lastIssue = g.lastIssue := rfl
@[simp] theorem Group.vset_fenceRel (g : Group) (n l : Nat) (x : Word) : (g.vset n l x).fenceRel = g.fenceRel := rfl

/-! ## Group.sset -/

@[simp] theorem Group.sset_index (g : Group) (n : Nat) (x : Word) : (g.sset n x).index = g.index := rfl
@[simp] theorem Group.sset_part (g : Group) (n : Nat) (x : Word) : (g.sset n x).part = g.part := rfl
@[simp] theorem Group.sset_slot (g : Group) (n : Nat) (x : Word) : (g.sset n x).slot = g.slot := rfl
@[simp] theorem Group.sset_role (g : Group) (n : Nat) (x : Word) : (g.sset n x).role = g.role := rfl
@[simp] theorem Group.sset_alloc (g : Group) (n : Nat) (x : Word) : (g.sset n x).alloc = g.alloc := rfl
@[simp] theorem Group.sset_acct (g : Group) (n : Nat) (x : Word) : (g.sset n x).acct = g.acct := rfl
@[simp] theorem Group.sset_present (g : Group) (n : Nat) (x : Word) : (g.sset n x).present = g.present := rfl
@[simp] theorem Group.sset_live (g : Group) (n : Nat) (x : Word) : (g.sset n x).live = g.live := rfl
@[simp] theorem Group.sset_tab (g : Group) (n : Nat) (x : Word) : (g.sset n x).tab = g.tab := rfl
@[simp] theorem Group.sset_v (g : Group) (n : Nat) (x : Word) : (g.sset n x).v = g.v := rfl
@[simp] theorem Group.sset_vEmpty (g : Group) (n : Nat) (x : Word) : (g.sset n x).vEmpty = g.vEmpty := rfl
@[simp] theorem Group.sset_sEmpty (g : Group) (n : Nat) (x : Word) : (g.sset n x).sEmpty = g.sEmpty := rfl
@[simp] theorem Group.sset_marks (g : Group) (n : Nat) (x : Word) : (g.sset n x).marks = g.marks := rfl
@[simp] theorem Group.sset_preds (g : Group) (n : Nat) (x : Word) : (g.sset n x).preds = g.preds := rfl
@[simp] theorem Group.sset_masks (g : Group) (n : Nat) (x : Word) : (g.sset n x).masks = g.masks := rfl
@[simp] theorem Group.sset_gens (g : Group) (n : Nat) (x : Word) : (g.sset n x).gens = g.gens := rfl
@[simp] theorem Group.sset_wids (g : Group) (n : Nat) (x : Word) : (g.sset n x).wids = g.wids := rfl
@[simp] theorem Group.sset_seqs (g : Group) (n : Nat) (x : Word) : (g.sset n x).seqs = g.seqs := rfl
@[simp] theorem Group.sset_nStaged (g : Group) (n : Nat) (x : Word) : (g.sset n x).nStaged = g.nStaged := rfl
@[simp] theorem Group.sset_fpflags (g : Group) (n : Nat) (x : Word) : (g.sset n x).fpflags = g.fpflags := rfl
@[simp] theorem Group.sset_mxflags (g : Group) (n : Nat) (x : Word) : (g.sset n x).mxflags = g.mxflags := rfl
@[simp] theorem Group.sset_phwm (g : Group) (n : Nat) (x : Word) : (g.sset n x).phwm = g.phwm := rfl
@[simp] theorem Group.sset_gang (g : Group) (n : Nat) (x : Word) : (g.sset n x).gang = g.gang := rfl
@[simp] theorem Group.sset_gangSeq (g : Group) (n : Nat) (x : Word) : (g.sset n x).gangSeq = g.gangSeq := rfl
@[simp] theorem Group.sset_tiles (g : Group) (n : Nat) (x : Word) : (g.sset n x).tiles = g.tiles := rfl
@[simp] theorem Group.sset_gmmas (g : Group) (n : Nat) (x : Word) : (g.sset n x).gmmas = g.gmmas := rfl
@[simp] theorem Group.sset_latch (g : Group) (n : Nat) (x : Word) : (g.sset n x).latch = g.latch := rfl
@[simp] theorem Group.sset_pend (g : Group) (n : Nat) (x : Word) : (g.sset n x).pend = g.pend := rfl
@[simp] theorem Group.sset_waits (g : Group) (n : Nat) (x : Word) : (g.sset n x).waits = g.waits := rfl
@[simp] theorem Group.sset_trap (g : Group) (n : Nat) (x : Word) : (g.sset n x).trap = g.trap := rfl
@[simp] theorem Group.sset_stopped (g : Group) (n : Nat) (x : Word) : (g.sset n x).stopped = g.stopped := rfl
@[simp] theorem Group.sset_stopReq (g : Group) (n : Nat) (x : Word) : (g.sset n x).stopReq = g.stopReq := rfl
@[simp] theorem Group.sset_stepping (g : Group) (n : Nat) (x : Word) : (g.sset n x).stepping = g.stepping := rfl
@[simp] theorem Group.sset_saving (g : Group) (n : Nat) (x : Word) : (g.sset n x).saving = g.saving := rfl
@[simp] theorem Group.sset_run (g : Group) (n : Nat) (x : Word) : (g.sset n x).run = g.run := rfl
@[simp] theorem Group.sset_lastIssue (g : Group) (n : Nat) (x : Word) : (g.sset n x).lastIssue = g.lastIssue := rfl
@[simp] theorem Group.sset_fenceRel (g : Group) (n : Nat) (x : Word) : (g.sset n x).fenceRel = g.fenceRel := rfl

/-! ## Group.mset -/

@[simp] theorem Group.mset_index (g : Group) (n : Nat) (x : LaneMask) : (g.mset n x).index = g.index := rfl
@[simp] theorem Group.mset_part (g : Group) (n : Nat) (x : LaneMask) : (g.mset n x).part = g.part := rfl
@[simp] theorem Group.mset_slot (g : Group) (n : Nat) (x : LaneMask) : (g.mset n x).slot = g.slot := rfl
@[simp] theorem Group.mset_role (g : Group) (n : Nat) (x : LaneMask) : (g.mset n x).role = g.role := rfl
@[simp] theorem Group.mset_alloc (g : Group) (n : Nat) (x : LaneMask) : (g.mset n x).alloc = g.alloc := rfl
@[simp] theorem Group.mset_acct (g : Group) (n : Nat) (x : LaneMask) : (g.mset n x).acct = g.acct := rfl
@[simp] theorem Group.mset_present (g : Group) (n : Nat) (x : LaneMask) : (g.mset n x).present = g.present := rfl
@[simp] theorem Group.mset_live (g : Group) (n : Nat) (x : LaneMask) : (g.mset n x).live = g.live := rfl
@[simp] theorem Group.mset_tab (g : Group) (n : Nat) (x : LaneMask) : (g.mset n x).tab = g.tab := rfl
@[simp] theorem Group.mset_v (g : Group) (n : Nat) (x : LaneMask) : (g.mset n x).v = g.v := rfl
@[simp] theorem Group.mset_sr (g : Group) (n : Nat) (x : LaneMask) : (g.mset n x).sr = g.sr := rfl
@[simp] theorem Group.mset_vEmpty (g : Group) (n : Nat) (x : LaneMask) : (g.mset n x).vEmpty = g.vEmpty := rfl
@[simp] theorem Group.mset_sEmpty (g : Group) (n : Nat) (x : LaneMask) : (g.mset n x).sEmpty = g.sEmpty := rfl
@[simp] theorem Group.mset_marks (g : Group) (n : Nat) (x : LaneMask) : (g.mset n x).marks = g.marks := rfl
@[simp] theorem Group.mset_preds (g : Group) (n : Nat) (x : LaneMask) : (g.mset n x).preds = g.preds := rfl
@[simp] theorem Group.mset_gens (g : Group) (n : Nat) (x : LaneMask) : (g.mset n x).gens = g.gens := rfl
@[simp] theorem Group.mset_wids (g : Group) (n : Nat) (x : LaneMask) : (g.mset n x).wids = g.wids := rfl
@[simp] theorem Group.mset_seqs (g : Group) (n : Nat) (x : LaneMask) : (g.mset n x).seqs = g.seqs := rfl
@[simp] theorem Group.mset_nStaged (g : Group) (n : Nat) (x : LaneMask) : (g.mset n x).nStaged = g.nStaged := rfl
@[simp] theorem Group.mset_fpflags (g : Group) (n : Nat) (x : LaneMask) : (g.mset n x).fpflags = g.fpflags := rfl
@[simp] theorem Group.mset_mxflags (g : Group) (n : Nat) (x : LaneMask) : (g.mset n x).mxflags = g.mxflags := rfl
@[simp] theorem Group.mset_phwm (g : Group) (n : Nat) (x : LaneMask) : (g.mset n x).phwm = g.phwm := rfl
@[simp] theorem Group.mset_gang (g : Group) (n : Nat) (x : LaneMask) : (g.mset n x).gang = g.gang := rfl
@[simp] theorem Group.mset_gangSeq (g : Group) (n : Nat) (x : LaneMask) : (g.mset n x).gangSeq = g.gangSeq := rfl
@[simp] theorem Group.mset_tiles (g : Group) (n : Nat) (x : LaneMask) : (g.mset n x).tiles = g.tiles := rfl
@[simp] theorem Group.mset_gmmas (g : Group) (n : Nat) (x : LaneMask) : (g.mset n x).gmmas = g.gmmas := rfl
@[simp] theorem Group.mset_latch (g : Group) (n : Nat) (x : LaneMask) : (g.mset n x).latch = g.latch := rfl
@[simp] theorem Group.mset_pend (g : Group) (n : Nat) (x : LaneMask) : (g.mset n x).pend = g.pend := rfl
@[simp] theorem Group.mset_waits (g : Group) (n : Nat) (x : LaneMask) : (g.mset n x).waits = g.waits := rfl
@[simp] theorem Group.mset_trap (g : Group) (n : Nat) (x : LaneMask) : (g.mset n x).trap = g.trap := rfl
@[simp] theorem Group.mset_stopped (g : Group) (n : Nat) (x : LaneMask) : (g.mset n x).stopped = g.stopped := rfl
@[simp] theorem Group.mset_stopReq (g : Group) (n : Nat) (x : LaneMask) : (g.mset n x).stopReq = g.stopReq := rfl
@[simp] theorem Group.mset_stepping (g : Group) (n : Nat) (x : LaneMask) : (g.mset n x).stepping = g.stepping := rfl
@[simp] theorem Group.mset_saving (g : Group) (n : Nat) (x : LaneMask) : (g.mset n x).saving = g.saving := rfl
@[simp] theorem Group.mset_run (g : Group) (n : Nat) (x : LaneMask) : (g.mset n x).run = g.run := rfl
@[simp] theorem Group.mset_lastIssue (g : Group) (n : Nat) (x : LaneMask) : (g.mset n x).lastIssue = g.lastIssue := rfl
@[simp] theorem Group.mset_fenceRel (g : Group) (n : Nat) (x : LaneMask) : (g.mset n x).fenceRel = g.fenceRel := rfl

/-! ## Group.markEmpty -/

@[simp] theorem Group.markEmpty_index (g : Group) (vs ss : List Nat) : (g.markEmpty vs ss).index = g.index := rfl
@[simp] theorem Group.markEmpty_part (g : Group) (vs ss : List Nat) : (g.markEmpty vs ss).part = g.part := rfl
@[simp] theorem Group.markEmpty_slot (g : Group) (vs ss : List Nat) : (g.markEmpty vs ss).slot = g.slot := rfl
@[simp] theorem Group.markEmpty_role (g : Group) (vs ss : List Nat) : (g.markEmpty vs ss).role = g.role := rfl
@[simp] theorem Group.markEmpty_alloc (g : Group) (vs ss : List Nat) : (g.markEmpty vs ss).alloc = g.alloc := rfl
@[simp] theorem Group.markEmpty_acct (g : Group) (vs ss : List Nat) : (g.markEmpty vs ss).acct = g.acct := rfl
@[simp] theorem Group.markEmpty_present (g : Group) (vs ss : List Nat) : (g.markEmpty vs ss).present = g.present := rfl
@[simp] theorem Group.markEmpty_live (g : Group) (vs ss : List Nat) : (g.markEmpty vs ss).live = g.live := rfl
@[simp] theorem Group.markEmpty_tab (g : Group) (vs ss : List Nat) : (g.markEmpty vs ss).tab = g.tab := rfl
@[simp] theorem Group.markEmpty_v (g : Group) (vs ss : List Nat) : (g.markEmpty vs ss).v = g.v := rfl
@[simp] theorem Group.markEmpty_sr (g : Group) (vs ss : List Nat) : (g.markEmpty vs ss).sr = g.sr := rfl
@[simp] theorem Group.markEmpty_preds (g : Group) (vs ss : List Nat) : (g.markEmpty vs ss).preds = g.preds := rfl
@[simp] theorem Group.markEmpty_masks (g : Group) (vs ss : List Nat) : (g.markEmpty vs ss).masks = g.masks := rfl
@[simp] theorem Group.markEmpty_gens (g : Group) (vs ss : List Nat) : (g.markEmpty vs ss).gens = g.gens := rfl
@[simp] theorem Group.markEmpty_wids (g : Group) (vs ss : List Nat) : (g.markEmpty vs ss).wids = g.wids := rfl
@[simp] theorem Group.markEmpty_seqs (g : Group) (vs ss : List Nat) : (g.markEmpty vs ss).seqs = g.seqs := rfl
@[simp] theorem Group.markEmpty_nStaged (g : Group) (vs ss : List Nat) : (g.markEmpty vs ss).nStaged = g.nStaged := rfl
@[simp] theorem Group.markEmpty_fpflags (g : Group) (vs ss : List Nat) : (g.markEmpty vs ss).fpflags = g.fpflags := rfl
@[simp] theorem Group.markEmpty_mxflags (g : Group) (vs ss : List Nat) : (g.markEmpty vs ss).mxflags = g.mxflags := rfl
@[simp] theorem Group.markEmpty_phwm (g : Group) (vs ss : List Nat) : (g.markEmpty vs ss).phwm = g.phwm := rfl
@[simp] theorem Group.markEmpty_gang (g : Group) (vs ss : List Nat) : (g.markEmpty vs ss).gang = g.gang := rfl
@[simp] theorem Group.markEmpty_gangSeq (g : Group) (vs ss : List Nat) : (g.markEmpty vs ss).gangSeq = g.gangSeq := rfl
@[simp] theorem Group.markEmpty_tiles (g : Group) (vs ss : List Nat) : (g.markEmpty vs ss).tiles = g.tiles := rfl
@[simp] theorem Group.markEmpty_gmmas (g : Group) (vs ss : List Nat) : (g.markEmpty vs ss).gmmas = g.gmmas := rfl
@[simp] theorem Group.markEmpty_latch (g : Group) (vs ss : List Nat) : (g.markEmpty vs ss).latch = g.latch := rfl
@[simp] theorem Group.markEmpty_pend (g : Group) (vs ss : List Nat) : (g.markEmpty vs ss).pend = g.pend := rfl
@[simp] theorem Group.markEmpty_waits (g : Group) (vs ss : List Nat) : (g.markEmpty vs ss).waits = g.waits := rfl
@[simp] theorem Group.markEmpty_trap (g : Group) (vs ss : List Nat) : (g.markEmpty vs ss).trap = g.trap := rfl
@[simp] theorem Group.markEmpty_stopped (g : Group) (vs ss : List Nat) : (g.markEmpty vs ss).stopped = g.stopped := rfl
@[simp] theorem Group.markEmpty_stopReq (g : Group) (vs ss : List Nat) : (g.markEmpty vs ss).stopReq = g.stopReq := rfl
@[simp] theorem Group.markEmpty_stepping (g : Group) (vs ss : List Nat) : (g.markEmpty vs ss).stepping = g.stepping := rfl
@[simp] theorem Group.markEmpty_saving (g : Group) (vs ss : List Nat) : (g.markEmpty vs ss).saving = g.saving := rfl
@[simp] theorem Group.markEmpty_run (g : Group) (vs ss : List Nat) : (g.markEmpty vs ss).run = g.run := rfl
@[simp] theorem Group.markEmpty_lastIssue (g : Group) (vs ss : List Nat) : (g.markEmpty vs ss).lastIssue = g.lastIssue := rfl
@[simp] theorem Group.markEmpty_fenceRel (g : Group) (vs ss : List Nat) : (g.markEmpty vs ss).fenceRel = g.fenceRel := rfl

/-! ## Group.markFull -/

@[simp] theorem Group.markFull_index (g : Group) (vs ss : List Nat) : (g.markFull vs ss).index = g.index := rfl
@[simp] theorem Group.markFull_part (g : Group) (vs ss : List Nat) : (g.markFull vs ss).part = g.part := rfl
@[simp] theorem Group.markFull_slot (g : Group) (vs ss : List Nat) : (g.markFull vs ss).slot = g.slot := rfl
@[simp] theorem Group.markFull_role (g : Group) (vs ss : List Nat) : (g.markFull vs ss).role = g.role := rfl
@[simp] theorem Group.markFull_alloc (g : Group) (vs ss : List Nat) : (g.markFull vs ss).alloc = g.alloc := rfl
@[simp] theorem Group.markFull_acct (g : Group) (vs ss : List Nat) : (g.markFull vs ss).acct = g.acct := rfl
@[simp] theorem Group.markFull_present (g : Group) (vs ss : List Nat) : (g.markFull vs ss).present = g.present := rfl
@[simp] theorem Group.markFull_live (g : Group) (vs ss : List Nat) : (g.markFull vs ss).live = g.live := rfl
@[simp] theorem Group.markFull_tab (g : Group) (vs ss : List Nat) : (g.markFull vs ss).tab = g.tab := rfl
@[simp] theorem Group.markFull_v (g : Group) (vs ss : List Nat) : (g.markFull vs ss).v = g.v := rfl
@[simp] theorem Group.markFull_sr (g : Group) (vs ss : List Nat) : (g.markFull vs ss).sr = g.sr := rfl
@[simp] theorem Group.markFull_marks (g : Group) (vs ss : List Nat) : (g.markFull vs ss).marks = g.marks := rfl
@[simp] theorem Group.markFull_preds (g : Group) (vs ss : List Nat) : (g.markFull vs ss).preds = g.preds := rfl
@[simp] theorem Group.markFull_masks (g : Group) (vs ss : List Nat) : (g.markFull vs ss).masks = g.masks := rfl
@[simp] theorem Group.markFull_gens (g : Group) (vs ss : List Nat) : (g.markFull vs ss).gens = g.gens := rfl
@[simp] theorem Group.markFull_wids (g : Group) (vs ss : List Nat) : (g.markFull vs ss).wids = g.wids := rfl
@[simp] theorem Group.markFull_seqs (g : Group) (vs ss : List Nat) : (g.markFull vs ss).seqs = g.seqs := rfl
@[simp] theorem Group.markFull_nStaged (g : Group) (vs ss : List Nat) : (g.markFull vs ss).nStaged = g.nStaged := rfl
@[simp] theorem Group.markFull_fpflags (g : Group) (vs ss : List Nat) : (g.markFull vs ss).fpflags = g.fpflags := rfl
@[simp] theorem Group.markFull_mxflags (g : Group) (vs ss : List Nat) : (g.markFull vs ss).mxflags = g.mxflags := rfl
@[simp] theorem Group.markFull_phwm (g : Group) (vs ss : List Nat) : (g.markFull vs ss).phwm = g.phwm := rfl
@[simp] theorem Group.markFull_gang (g : Group) (vs ss : List Nat) : (g.markFull vs ss).gang = g.gang := rfl
@[simp] theorem Group.markFull_gangSeq (g : Group) (vs ss : List Nat) : (g.markFull vs ss).gangSeq = g.gangSeq := rfl
@[simp] theorem Group.markFull_tiles (g : Group) (vs ss : List Nat) : (g.markFull vs ss).tiles = g.tiles := rfl
@[simp] theorem Group.markFull_gmmas (g : Group) (vs ss : List Nat) : (g.markFull vs ss).gmmas = g.gmmas := rfl
@[simp] theorem Group.markFull_latch (g : Group) (vs ss : List Nat) : (g.markFull vs ss).latch = g.latch := rfl
@[simp] theorem Group.markFull_pend (g : Group) (vs ss : List Nat) : (g.markFull vs ss).pend = g.pend := rfl
@[simp] theorem Group.markFull_waits (g : Group) (vs ss : List Nat) : (g.markFull vs ss).waits = g.waits := rfl
@[simp] theorem Group.markFull_trap (g : Group) (vs ss : List Nat) : (g.markFull vs ss).trap = g.trap := rfl
@[simp] theorem Group.markFull_stopped (g : Group) (vs ss : List Nat) : (g.markFull vs ss).stopped = g.stopped := rfl
@[simp] theorem Group.markFull_stopReq (g : Group) (vs ss : List Nat) : (g.markFull vs ss).stopReq = g.stopReq := rfl
@[simp] theorem Group.markFull_stepping (g : Group) (vs ss : List Nat) : (g.markFull vs ss).stepping = g.stepping := rfl
@[simp] theorem Group.markFull_saving (g : Group) (vs ss : List Nat) : (g.markFull vs ss).saving = g.saving := rfl
@[simp] theorem Group.markFull_run (g : Group) (vs ss : List Nat) : (g.markFull vs ss).run = g.run := rfl
@[simp] theorem Group.markFull_lastIssue (g : Group) (vs ss : List Nat) : (g.markFull vs ss).lastIssue = g.lastIssue := rfl
@[simp] theorem Group.markFull_fenceRel (g : Group) (vs ss : List Nat) : (g.markFull vs ss).fenceRel = g.fenceRel := rfl

/-! ## Group.issue -/

@[simp] theorem Group.issue_index (g : Group) (p : Producer) : (g.issue p).index = g.index := rfl
@[simp] theorem Group.issue_part (g : Group) (p : Producer) : (g.issue p).part = g.part := rfl
@[simp] theorem Group.issue_slot (g : Group) (p : Producer) : (g.issue p).slot = g.slot := rfl
@[simp] theorem Group.issue_role (g : Group) (p : Producer) : (g.issue p).role = g.role := rfl
@[simp] theorem Group.issue_alloc (g : Group) (p : Producer) : (g.issue p).alloc = g.alloc := rfl
@[simp] theorem Group.issue_acct (g : Group) (p : Producer) : (g.issue p).acct = g.acct := rfl
@[simp] theorem Group.issue_present (g : Group) (p : Producer) : (g.issue p).present = g.present := rfl
@[simp] theorem Group.issue_live (g : Group) (p : Producer) : (g.issue p).live = g.live := rfl
@[simp] theorem Group.issue_tab (g : Group) (p : Producer) : (g.issue p).tab = g.tab := rfl
@[simp] theorem Group.issue_v (g : Group) (p : Producer) : (g.issue p).v = g.v := rfl
@[simp] theorem Group.issue_sr (g : Group) (p : Producer) : (g.issue p).sr = g.sr := rfl
@[simp] theorem Group.issue_preds (g : Group) (p : Producer) : (g.issue p).preds = g.preds := rfl
@[simp] theorem Group.issue_masks (g : Group) (p : Producer) : (g.issue p).masks = g.masks := rfl
@[simp] theorem Group.issue_gens (g : Group) (p : Producer) : (g.issue p).gens = g.gens := rfl
@[simp] theorem Group.issue_wids (g : Group) (p : Producer) : (g.issue p).wids = g.wids := rfl
@[simp] theorem Group.issue_seqs (g : Group) (p : Producer) : (g.issue p).seqs = g.seqs := rfl
@[simp] theorem Group.issue_nStaged (g : Group) (p : Producer) : (g.issue p).nStaged = g.nStaged := rfl
@[simp] theorem Group.issue_fpflags (g : Group) (p : Producer) : (g.issue p).fpflags = g.fpflags := rfl
@[simp] theorem Group.issue_mxflags (g : Group) (p : Producer) : (g.issue p).mxflags = g.mxflags := rfl
@[simp] theorem Group.issue_phwm (g : Group) (p : Producer) : (g.issue p).phwm = g.phwm := rfl
@[simp] theorem Group.issue_gang (g : Group) (p : Producer) : (g.issue p).gang = g.gang := rfl
@[simp] theorem Group.issue_gangSeq (g : Group) (p : Producer) : (g.issue p).gangSeq = g.gangSeq := rfl
@[simp] theorem Group.issue_tiles (g : Group) (p : Producer) : (g.issue p).tiles = g.tiles := rfl
@[simp] theorem Group.issue_gmmas (g : Group) (p : Producer) : (g.issue p).gmmas = g.gmmas := rfl
@[simp] theorem Group.issue_latch (g : Group) (p : Producer) : (g.issue p).latch = g.latch := rfl
@[simp] theorem Group.issue_waits (g : Group) (p : Producer) : (g.issue p).waits = g.waits := rfl
@[simp] theorem Group.issue_trap (g : Group) (p : Producer) : (g.issue p).trap = g.trap := rfl
@[simp] theorem Group.issue_stopped (g : Group) (p : Producer) : (g.issue p).stopped = g.stopped := rfl
@[simp] theorem Group.issue_stopReq (g : Group) (p : Producer) : (g.issue p).stopReq = g.stopReq := rfl
@[simp] theorem Group.issue_stepping (g : Group) (p : Producer) : (g.issue p).stepping = g.stepping := rfl
@[simp] theorem Group.issue_saving (g : Group) (p : Producer) : (g.issue p).saving = g.saving := rfl
@[simp] theorem Group.issue_run (g : Group) (p : Producer) : (g.issue p).run = g.run := rfl
@[simp] theorem Group.issue_lastIssue (g : Group) (p : Producer) : (g.issue p).lastIssue = g.lastIssue := rfl
@[simp] theorem Group.issue_fenceRel (g : Group) (p : Producer) : (g.issue p).fenceRel = g.fenceRel := rfl

/-! ## Group.advance -/

@[simp] theorem Group.advance_index (g : Group) (pc : DWord) (m : LaneMask) (df : Bool) (nxt : List (LaneMask × DWord)) : (g.advance pc m df nxt).index = g.index := rfl
@[simp] theorem Group.advance_part (g : Group) (pc : DWord) (m : LaneMask) (df : Bool) (nxt : List (LaneMask × DWord)) : (g.advance pc m df nxt).part = g.part := rfl
@[simp] theorem Group.advance_slot (g : Group) (pc : DWord) (m : LaneMask) (df : Bool) (nxt : List (LaneMask × DWord)) : (g.advance pc m df nxt).slot = g.slot := rfl
@[simp] theorem Group.advance_role (g : Group) (pc : DWord) (m : LaneMask) (df : Bool) (nxt : List (LaneMask × DWord)) : (g.advance pc m df nxt).role = g.role := rfl
@[simp] theorem Group.advance_alloc (g : Group) (pc : DWord) (m : LaneMask) (df : Bool) (nxt : List (LaneMask × DWord)) : (g.advance pc m df nxt).alloc = g.alloc := rfl
@[simp] theorem Group.advance_acct (g : Group) (pc : DWord) (m : LaneMask) (df : Bool) (nxt : List (LaneMask × DWord)) : (g.advance pc m df nxt).acct = g.acct := rfl
@[simp] theorem Group.advance_present (g : Group) (pc : DWord) (m : LaneMask) (df : Bool) (nxt : List (LaneMask × DWord)) : (g.advance pc m df nxt).present = g.present := rfl
@[simp] theorem Group.advance_live (g : Group) (pc : DWord) (m : LaneMask) (df : Bool) (nxt : List (LaneMask × DWord)) : (g.advance pc m df nxt).live = g.live := rfl
@[simp] theorem Group.advance_v (g : Group) (pc : DWord) (m : LaneMask) (df : Bool) (nxt : List (LaneMask × DWord)) : (g.advance pc m df nxt).v = g.v := rfl
@[simp] theorem Group.advance_sr (g : Group) (pc : DWord) (m : LaneMask) (df : Bool) (nxt : List (LaneMask × DWord)) : (g.advance pc m df nxt).sr = g.sr := rfl
@[simp] theorem Group.advance_vEmpty (g : Group) (pc : DWord) (m : LaneMask) (df : Bool) (nxt : List (LaneMask × DWord)) : (g.advance pc m df nxt).vEmpty = g.vEmpty := rfl
@[simp] theorem Group.advance_sEmpty (g : Group) (pc : DWord) (m : LaneMask) (df : Bool) (nxt : List (LaneMask × DWord)) : (g.advance pc m df nxt).sEmpty = g.sEmpty := rfl
@[simp] theorem Group.advance_marks (g : Group) (pc : DWord) (m : LaneMask) (df : Bool) (nxt : List (LaneMask × DWord)) : (g.advance pc m df nxt).marks = g.marks := rfl
@[simp] theorem Group.advance_preds (g : Group) (pc : DWord) (m : LaneMask) (df : Bool) (nxt : List (LaneMask × DWord)) : (g.advance pc m df nxt).preds = g.preds := rfl
@[simp] theorem Group.advance_masks (g : Group) (pc : DWord) (m : LaneMask) (df : Bool) (nxt : List (LaneMask × DWord)) : (g.advance pc m df nxt).masks = g.masks := rfl
@[simp] theorem Group.advance_gens (g : Group) (pc : DWord) (m : LaneMask) (df : Bool) (nxt : List (LaneMask × DWord)) : (g.advance pc m df nxt).gens = g.gens := rfl
@[simp] theorem Group.advance_wids (g : Group) (pc : DWord) (m : LaneMask) (df : Bool) (nxt : List (LaneMask × DWord)) : (g.advance pc m df nxt).wids = g.wids := rfl
@[simp] theorem Group.advance_seqs (g : Group) (pc : DWord) (m : LaneMask) (df : Bool) (nxt : List (LaneMask × DWord)) : (g.advance pc m df nxt).seqs = g.seqs := rfl
@[simp] theorem Group.advance_nStaged (g : Group) (pc : DWord) (m : LaneMask) (df : Bool) (nxt : List (LaneMask × DWord)) : (g.advance pc m df nxt).nStaged = g.nStaged := rfl
@[simp] theorem Group.advance_fpflags (g : Group) (pc : DWord) (m : LaneMask) (df : Bool) (nxt : List (LaneMask × DWord)) : (g.advance pc m df nxt).fpflags = g.fpflags := rfl
@[simp] theorem Group.advance_mxflags (g : Group) (pc : DWord) (m : LaneMask) (df : Bool) (nxt : List (LaneMask × DWord)) : (g.advance pc m df nxt).mxflags = g.mxflags := rfl
@[simp] theorem Group.advance_phwm (g : Group) (pc : DWord) (m : LaneMask) (df : Bool) (nxt : List (LaneMask × DWord)) : (g.advance pc m df nxt).phwm = g.phwm := rfl
@[simp] theorem Group.advance_gang (g : Group) (pc : DWord) (m : LaneMask) (df : Bool) (nxt : List (LaneMask × DWord)) : (g.advance pc m df nxt).gang = g.gang := rfl
@[simp] theorem Group.advance_gangSeq (g : Group) (pc : DWord) (m : LaneMask) (df : Bool) (nxt : List (LaneMask × DWord)) : (g.advance pc m df nxt).gangSeq = g.gangSeq := rfl
@[simp] theorem Group.advance_tiles (g : Group) (pc : DWord) (m : LaneMask) (df : Bool) (nxt : List (LaneMask × DWord)) : (g.advance pc m df nxt).tiles = g.tiles := rfl
@[simp] theorem Group.advance_gmmas (g : Group) (pc : DWord) (m : LaneMask) (df : Bool) (nxt : List (LaneMask × DWord)) : (g.advance pc m df nxt).gmmas = g.gmmas := rfl
@[simp] theorem Group.advance_latch (g : Group) (pc : DWord) (m : LaneMask) (df : Bool) (nxt : List (LaneMask × DWord)) : (g.advance pc m df nxt).latch = g.latch := rfl
@[simp] theorem Group.advance_pend (g : Group) (pc : DWord) (m : LaneMask) (df : Bool) (nxt : List (LaneMask × DWord)) : (g.advance pc m df nxt).pend = g.pend := rfl
@[simp] theorem Group.advance_waits (g : Group) (pc : DWord) (m : LaneMask) (df : Bool) (nxt : List (LaneMask × DWord)) : (g.advance pc m df nxt).waits = g.waits := rfl
@[simp] theorem Group.advance_trap (g : Group) (pc : DWord) (m : LaneMask) (df : Bool) (nxt : List (LaneMask × DWord)) : (g.advance pc m df nxt).trap = g.trap := rfl
@[simp] theorem Group.advance_stopped (g : Group) (pc : DWord) (m : LaneMask) (df : Bool) (nxt : List (LaneMask × DWord)) : (g.advance pc m df nxt).stopped = g.stopped := rfl
@[simp] theorem Group.advance_stopReq (g : Group) (pc : DWord) (m : LaneMask) (df : Bool) (nxt : List (LaneMask × DWord)) : (g.advance pc m df nxt).stopReq = g.stopReq := rfl
@[simp] theorem Group.advance_stepping (g : Group) (pc : DWord) (m : LaneMask) (df : Bool) (nxt : List (LaneMask × DWord)) : (g.advance pc m df nxt).stepping = g.stepping := rfl
@[simp] theorem Group.advance_saving (g : Group) (pc : DWord) (m : LaneMask) (df : Bool) (nxt : List (LaneMask × DWord)) : (g.advance pc m df nxt).saving = g.saving := rfl
@[simp] theorem Group.advance_run (g : Group) (pc : DWord) (m : LaneMask) (df : Bool) (nxt : List (LaneMask × DWord)) : (g.advance pc m df nxt).run = g.run := rfl
@[simp] theorem Group.advance_lastIssue (g : Group) (pc : DWord) (m : LaneMask) (df : Bool) (nxt : List (LaneMask × DWord)) : (g.advance pc m df nxt).lastIssue = g.lastIssue := rfl
@[simp] theorem Group.advance_fenceRel (g : Group) (pc : DWord) (m : LaneMask) (df : Bool) (nxt : List (LaneMask × DWord)) : (g.advance pc m df nxt).fenceRel = g.fenceRel := rfl

/-! ## Group.addFp -/

@[simp] theorem Group.addFp_index (g : Group) (f : Flags) : (g.addFp f).index = g.index := rfl
@[simp] theorem Group.addFp_part (g : Group) (f : Flags) : (g.addFp f).part = g.part := rfl
@[simp] theorem Group.addFp_slot (g : Group) (f : Flags) : (g.addFp f).slot = g.slot := rfl
@[simp] theorem Group.addFp_role (g : Group) (f : Flags) : (g.addFp f).role = g.role := rfl
@[simp] theorem Group.addFp_alloc (g : Group) (f : Flags) : (g.addFp f).alloc = g.alloc := rfl
@[simp] theorem Group.addFp_acct (g : Group) (f : Flags) : (g.addFp f).acct = g.acct := rfl
@[simp] theorem Group.addFp_present (g : Group) (f : Flags) : (g.addFp f).present = g.present := rfl
@[simp] theorem Group.addFp_live (g : Group) (f : Flags) : (g.addFp f).live = g.live := rfl
@[simp] theorem Group.addFp_tab (g : Group) (f : Flags) : (g.addFp f).tab = g.tab := rfl
@[simp] theorem Group.addFp_v (g : Group) (f : Flags) : (g.addFp f).v = g.v := rfl
@[simp] theorem Group.addFp_sr (g : Group) (f : Flags) : (g.addFp f).sr = g.sr := rfl
@[simp] theorem Group.addFp_vEmpty (g : Group) (f : Flags) : (g.addFp f).vEmpty = g.vEmpty := rfl
@[simp] theorem Group.addFp_sEmpty (g : Group) (f : Flags) : (g.addFp f).sEmpty = g.sEmpty := rfl
@[simp] theorem Group.addFp_marks (g : Group) (f : Flags) : (g.addFp f).marks = g.marks := rfl
@[simp] theorem Group.addFp_preds (g : Group) (f : Flags) : (g.addFp f).preds = g.preds := rfl
@[simp] theorem Group.addFp_masks (g : Group) (f : Flags) : (g.addFp f).masks = g.masks := rfl
@[simp] theorem Group.addFp_gens (g : Group) (f : Flags) : (g.addFp f).gens = g.gens := rfl
@[simp] theorem Group.addFp_wids (g : Group) (f : Flags) : (g.addFp f).wids = g.wids := rfl
@[simp] theorem Group.addFp_seqs (g : Group) (f : Flags) : (g.addFp f).seqs = g.seqs := rfl
@[simp] theorem Group.addFp_nStaged (g : Group) (f : Flags) : (g.addFp f).nStaged = g.nStaged := rfl
@[simp] theorem Group.addFp_mxflags (g : Group) (f : Flags) : (g.addFp f).mxflags = g.mxflags := rfl
@[simp] theorem Group.addFp_phwm (g : Group) (f : Flags) : (g.addFp f).phwm = g.phwm := rfl
@[simp] theorem Group.addFp_gang (g : Group) (f : Flags) : (g.addFp f).gang = g.gang := rfl
@[simp] theorem Group.addFp_gangSeq (g : Group) (f : Flags) : (g.addFp f).gangSeq = g.gangSeq := rfl
@[simp] theorem Group.addFp_tiles (g : Group) (f : Flags) : (g.addFp f).tiles = g.tiles := rfl
@[simp] theorem Group.addFp_gmmas (g : Group) (f : Flags) : (g.addFp f).gmmas = g.gmmas := rfl
@[simp] theorem Group.addFp_latch (g : Group) (f : Flags) : (g.addFp f).latch = g.latch := rfl
@[simp] theorem Group.addFp_pend (g : Group) (f : Flags) : (g.addFp f).pend = g.pend := rfl
@[simp] theorem Group.addFp_waits (g : Group) (f : Flags) : (g.addFp f).waits = g.waits := rfl
@[simp] theorem Group.addFp_trap (g : Group) (f : Flags) : (g.addFp f).trap = g.trap := rfl
@[simp] theorem Group.addFp_stopped (g : Group) (f : Flags) : (g.addFp f).stopped = g.stopped := rfl
@[simp] theorem Group.addFp_stopReq (g : Group) (f : Flags) : (g.addFp f).stopReq = g.stopReq := rfl
@[simp] theorem Group.addFp_stepping (g : Group) (f : Flags) : (g.addFp f).stepping = g.stepping := rfl
@[simp] theorem Group.addFp_saving (g : Group) (f : Flags) : (g.addFp f).saving = g.saving := rfl
@[simp] theorem Group.addFp_run (g : Group) (f : Flags) : (g.addFp f).run = g.run := rfl
@[simp] theorem Group.addFp_lastIssue (g : Group) (f : Flags) : (g.addFp f).lastIssue = g.lastIssue := rfl
@[simp] theorem Group.addFp_fenceRel (g : Group) (f : Flags) : (g.addFp f).fenceRel = g.fenceRel := rfl

/-! ## Group.addMx -/

@[simp] theorem Group.addMx_index (g : Group) (f : Flags) : (g.addMx f).index = g.index := rfl
@[simp] theorem Group.addMx_part (g : Group) (f : Flags) : (g.addMx f).part = g.part := rfl
@[simp] theorem Group.addMx_slot (g : Group) (f : Flags) : (g.addMx f).slot = g.slot := rfl
@[simp] theorem Group.addMx_role (g : Group) (f : Flags) : (g.addMx f).role = g.role := rfl
@[simp] theorem Group.addMx_alloc (g : Group) (f : Flags) : (g.addMx f).alloc = g.alloc := rfl
@[simp] theorem Group.addMx_acct (g : Group) (f : Flags) : (g.addMx f).acct = g.acct := rfl
@[simp] theorem Group.addMx_present (g : Group) (f : Flags) : (g.addMx f).present = g.present := rfl
@[simp] theorem Group.addMx_live (g : Group) (f : Flags) : (g.addMx f).live = g.live := rfl
@[simp] theorem Group.addMx_tab (g : Group) (f : Flags) : (g.addMx f).tab = g.tab := rfl
@[simp] theorem Group.addMx_v (g : Group) (f : Flags) : (g.addMx f).v = g.v := rfl
@[simp] theorem Group.addMx_sr (g : Group) (f : Flags) : (g.addMx f).sr = g.sr := rfl
@[simp] theorem Group.addMx_vEmpty (g : Group) (f : Flags) : (g.addMx f).vEmpty = g.vEmpty := rfl
@[simp] theorem Group.addMx_sEmpty (g : Group) (f : Flags) : (g.addMx f).sEmpty = g.sEmpty := rfl
@[simp] theorem Group.addMx_marks (g : Group) (f : Flags) : (g.addMx f).marks = g.marks := rfl
@[simp] theorem Group.addMx_preds (g : Group) (f : Flags) : (g.addMx f).preds = g.preds := rfl
@[simp] theorem Group.addMx_masks (g : Group) (f : Flags) : (g.addMx f).masks = g.masks := rfl
@[simp] theorem Group.addMx_gens (g : Group) (f : Flags) : (g.addMx f).gens = g.gens := rfl
@[simp] theorem Group.addMx_wids (g : Group) (f : Flags) : (g.addMx f).wids = g.wids := rfl
@[simp] theorem Group.addMx_seqs (g : Group) (f : Flags) : (g.addMx f).seqs = g.seqs := rfl
@[simp] theorem Group.addMx_nStaged (g : Group) (f : Flags) : (g.addMx f).nStaged = g.nStaged := rfl
@[simp] theorem Group.addMx_fpflags (g : Group) (f : Flags) : (g.addMx f).fpflags = g.fpflags := rfl
@[simp] theorem Group.addMx_phwm (g : Group) (f : Flags) : (g.addMx f).phwm = g.phwm := rfl
@[simp] theorem Group.addMx_gang (g : Group) (f : Flags) : (g.addMx f).gang = g.gang := rfl
@[simp] theorem Group.addMx_gangSeq (g : Group) (f : Flags) : (g.addMx f).gangSeq = g.gangSeq := rfl
@[simp] theorem Group.addMx_tiles (g : Group) (f : Flags) : (g.addMx f).tiles = g.tiles := rfl
@[simp] theorem Group.addMx_gmmas (g : Group) (f : Flags) : (g.addMx f).gmmas = g.gmmas := rfl
@[simp] theorem Group.addMx_latch (g : Group) (f : Flags) : (g.addMx f).latch = g.latch := rfl
@[simp] theorem Group.addMx_pend (g : Group) (f : Flags) : (g.addMx f).pend = g.pend := rfl
@[simp] theorem Group.addMx_waits (g : Group) (f : Flags) : (g.addMx f).waits = g.waits := rfl
@[simp] theorem Group.addMx_trap (g : Group) (f : Flags) : (g.addMx f).trap = g.trap := rfl
@[simp] theorem Group.addMx_stopped (g : Group) (f : Flags) : (g.addMx f).stopped = g.stopped := rfl
@[simp] theorem Group.addMx_stopReq (g : Group) (f : Flags) : (g.addMx f).stopReq = g.stopReq := rfl
@[simp] theorem Group.addMx_stepping (g : Group) (f : Flags) : (g.addMx f).stepping = g.stepping := rfl
@[simp] theorem Group.addMx_saving (g : Group) (f : Flags) : (g.addMx f).saving = g.saving := rfl
@[simp] theorem Group.addMx_run (g : Group) (f : Flags) : (g.addMx f).run = g.run := rfl
@[simp] theorem Group.addMx_lastIssue (g : Group) (f : Flags) : (g.addMx f).lastIssue = g.lastIssue := rfl
@[simp] theorem Group.addMx_fenceRel (g : Group) (f : Flags) : (g.addMx f).fenceRel = g.fenceRel := rfl

end Sys2Proof.Machine
end

