-- ==== Sys2Proof/Laws/Memory.lean ====
section
/-! SUPPORT. What the operations over memory do to it: each keeps the canonical form, and a byte written reads back while
every other byte stays. -/

namespace Sys2Proof.Machine

/-- A fold of operations that each keep a property keeps it. -/
theorem foldl_keeps {σ α : Type} (P : σ → Prop) (f : σ → α → σ) (h : ∀ s a, P s → P (f s a)) : ∀ (l : List α) (s : σ), P s → P (l.foldl f s)
  | [], _, hs => hs
  | a :: t, s, hs => foldl_keeps P f h t (f s a) (h s a hs)

/-- Reading a byte after one byte is stored. -/
theorem State.byte_setByte (s : State) (by_ : Bool) (pa : Nat) (b : Byte) (h : Memory.wf s.mem = true) (a : Nat) :
    (s.setByte by_ pa b).byte a = if a = pa then b else s.byte a := by
  simpa [State.byte, State.setByte] using Sparse.get_set (w := 8) s.mem h pa b a

theorem State.wf_setByte (s : State) (by_ : Bool) (pa : Nat) (b : Byte) (h : Memory.wf s.mem = true) :
    Memory.wf (s.setByte by_ pa b).mem = true := Sparse.wf_set (w := 8) s.mem pa b h

/-- Writing back what the L2 cannot hold changes no home value. -/
theorem State.mem_l2Fit (s : State) (pa : Nat) : (s.l2Fit pa).mem = s.mem := by
  unfold State.l2Fit
  dsimp only
  repeat' (first | rfl | split)

/-- Marking a line of the L2 changes no home value. -/
theorem State.mem_l2Mark (s : State) (strm : Bool) (pa : Nat) : (s.l2Mark strm pa).mem = s.mem := by
  unfold State.l2Mark
  split
  · rw [State.mem_l2Fit]
  · rfl

theorem State.wf_writeSector (s : State) (by_ : Bool) (k : Nat) (d : BitVec 128) (m : BitVec 16) (h : Memory.wf s.mem = true) :
    Memory.wf (s.writeSector by_ k d m).mem = true := by
  show Memory.wf (State.l2Fit _ _).mem = true
  rw [State.mem_l2Fit]
  refine foldl_keeps (fun u => Memory.wf u.mem = true) _ (fun u i hu => State.wf_setByte u _ _ _ hu) _ _ ?_
  show Memory.wf (if m = 0xFFFF#16 then s.setPoison (16 * k) false else s).mem = true
  split <;> simpa using h

theorem State.wf_homeWrite (s : State) (by_ : Bool) (pa n x : Nat) (h : Memory.wf s.mem = true) :
    Memory.wf (s.homeWrite by_ pa n x).mem = true := State.wf_writeSector s by_ _ _ _ h

theorem State.wf_homeWriteBytes (s : State) (by_ : Bool) (pa : Nat) (l : List Byte) (h : Memory.wf s.mem = true) :
    Memory.wf (s.homeWriteBytes by_ pa l).mem = true :=
  foldl_keeps (fun (u : State) => Memory.wf u.mem = true) _ (fun (u : State) bi hu => by
    show Memory.wf (State.l2Fit _ _).mem = true
    rw [State.mem_l2Fit]; exact State.wf_setByte u _ _ _ hu) _ _ h

theorem State.wf_l1Clean (s : State) (e : L1Sector) (h : Memory.wf s.mem = true) : Memory.wf (s.l1Clean e).mem = true := by
  unfold State.l1Clean
  split
  · exact h
  · simpa using State.wf_writeSector s false e.sector e.data e.dirty h

theorem State.wf_l1Evict (s : State) (core sector : Nat) (h : Memory.wf s.mem = true) : Memory.wf (s.l1Evict core sector).mem = true := by
  unfold State.l1Evict
  split
  · exact h
  · exact State.wf_l1Clean s _ h

theorem State.wf_l1DropLine (s : State) (core line : Nat) (h : Memory.wf s.mem = true) : Memory.wf (s.l1DropLine core line).mem = true :=
  foldl_keeps (fun u => Memory.wf u.mem = true) _ (fun u _ hu => State.wf_l1Evict u _ _ hu) _ _ h

theorem State.wf_flushCore (s : State) (core : Nat) (h : Memory.wf s.mem = true) : Memory.wf (s.flushCore core).mem = true :=
  foldl_keeps (fun u => Memory.wf u.mem = true) _ (fun u _ hu => State.wf_l1Clean u _ hu) _ _ h

theorem State.mem_cleanL2 (s : State) (lo len : Nat) : (s.cleanL2 lo len).mem = s.mem := rfl

theorem State.mem_invalCore (s : State) (core : Nat) : (s.invalCore core).mem = s.mem := rfl

/-- Moving a frame keeps the canonical form. -/
theorem State.wf_moveFrame (s : State) (a b : Nat) (h : Memory.wf s.mem = true) : Memory.wf (s.moveFrame a b).mem = true :=
  Sparse.wf_setAll (w := 8) _ _ (Sparse.wf_drop (w := 8) s.mem _ h)

/-- The empty memory is canonical. -/
theorem reset_mem_wf : Memory.wf State.reset.mem = true := rfl

end Sys2Proof.Machine
end

