-- ==== Sys2Proof/Laws/PerInstr.lean ====
section
/-! SUPPORT. One lemma per constructor of Instr, for statements about the instruction as syntax. -/

/-- An instruction has a word exactly when it is one of the words of the opcode maps: an event of the machine has no word. -/
def Sys2Proof.Laws.HasWord.Statement (i : Sys2Proof.Instr) : Prop :=
  (Sys2Proof.encode i).isSome = (Sys2Proof.Machine.hdrOf i).isSome

namespace Sys2Proof.Laws.HasWord

open Sys2Proof

theorem nop (f : FmtV) : Statement (.nop f) := rfl
theorem mov (f : FmtV) : Statement (.mov f) := rfl
theorem movl (f : FmtL) : Statement (.movl f) := rfl
theorem iadd (f : FmtV) : Statement (.iadd f) := rfl
theorem iaddi (f : FmtI) : Statement (.iaddi f) := rfl
theorem isub (f : FmtV) : Statement (.isub f) := rfl
theorem imul (f : FmtV) : Statement (.imul f) := rfl
theorem imulh (f : FmtV) : Statement (.imulh f) := rfl
theorem imad (f : FmtV) : Statement (.imad f) := rfl
theorem imin (f : FmtV) : Statement (.imin f) := rfl
theorem imax (f : FmtV) : Statement (.imax f) := rfl
theorem iabs (f : FmtV) : Statement (.iabs f) := rfl
theorem and (f : FmtV) : Statement (.and f) := rfl
theorem andi (f : FmtI) : Statement (.andi f) := rfl
theorem andn (f : FmtV) : Statement (.andn f) := rfl
theorem or (f : FmtV) : Statement (.or f) := rfl
theorem ori (f : FmtI) : Statement (.ori f) := rfl
theorem xor (f : FmtV) : Statement (.xor f) := rfl
theorem xori (f : FmtI) : Statement (.xori f) := rfl
theorem shl (f : FmtV) : Statement (.shl f) := rfl
theorem shli (f : FmtI) : Statement (.shli f) := rfl
theorem shr (f : FmtV) : Statement (.shr f) := rfl
theorem shri (f : FmtI) : Statement (.shri f) := rfl
theorem sar (f : FmtV) : Statement (.sar f) := rfl
theorem sari (f : FmtI) : Statement (.sari f) := rfl
theorem bfx (f : FmtV) : Statement (.bfx f) := rfl
theorem bfi (f : FmtV) : Statement (.bfi f) := rfl
theorem popc (f : FmtV) : Statement (.popc f) := rfl
theorem clz (f : FmtV) : Statement (.clz f) := rfl
theorem permb (f : FmtV) : Statement (.permb f) := rfl
theorem lea (f : FmtV) : Statement (.lea f) := rfl
theorem isetp (f : FmtV) : Statement (.isetp f) := rfl
theorem isetpi (f : FmtI) : Statement (.isetpi f) := rfl
theorem sel (f : FmtV) : Statement (.sel f) := rfl
theorem cvti (f : FmtV) : Statement (.cvti f) := rfl
theorem cvtf (f : FmtV) : Statement (.cvtf f) := rfl
theorem pack (f : FmtV) : Statement (.pack f) := rfl
theorem unpack (f : FmtV) : Statement (.unpack f) := rfl
theorem msk (f : FmtV) : Statement (.msk f) := rfl
theorem fadd (f : FmtV) : Statement (.fadd f) := rfl
theorem fmul (f : FmtV) : Statement (.fmul f) := rfl
theorem ffma (f : FmtV) : Statement (.ffma f) := rfl
theorem fmin (f : FmtV) : Statement (.fmin f) := rfl
theorem fmax (f : FmtV) : Statement (.fmax f) := rfl
theorem fsetp (f : FmtV) : Statement (.fsetp f) := rfl
theorem frcp (f : FmtV) : Statement (.frcp f) := rfl
theorem frsq (f : FmtV) : Statement (.frsq f) := rfl
theorem fexp2 (f : FmtV) : Statement (.fexp2 f) := rfl
theorem flog2 (f : FmtV) : Statement (.flog2 f) := rfl
theorem fdot2 (f : FmtV) : Statement (.fdot2 f) := rfl
theorem fdot4 (f : FmtV) : Statement (.fdot4 f) := rfl
theorem hfma2 (f : FmtV) : Statement (.hfma2 f) := rfl
theorem idp4 (f : FmtV) : Statement (.idp4 f) := rfl
theorem idp8 (f : FmtV) : Statement (.idp8 f) := rfl
theorem isqd4 (f : FmtV) : Statement (.isqd4 f) := rfl
theorem hamd (f : FmtV) : Statement (.hamd f) := rfl
theorem pqacc (f : FmtV) : Statement (.pqacc f) := rfl
theorem gsort (f : FmtV) : Statement (.gsort f) := rfl
theorem gmergek (f : FmtV) : Statement (.gmergek f) := rfl
theorem shfl (f : FmtV) : Statement (.shfl f) := rfl
theorem gred (f : FmtV) : Statement (.gred f) := rfl
theorem gscan (f : FmtV) : Statement (.gscan f) := rfl
theorem vote (f : FmtV) : Statement (.vote f) := rfl
theorem matchL (f : FmtV) : Statement (.matchL f) := rfl
theorem compact (f : FmtV) : Statement (.compact f) := rfl
theorem rgput (f : FmtV) : Statement (.rgput f) := rfl
theorem rgtake (f : FmtV) : Statement (.rgtake f) := rfl
theorem genrd (f : FmtV) : Statement (.genrd f) := rfl
theorem ld (f : FmtM) : Statement (.ld f) := rfl
theorem lds (f : FmtM) : Statement (.lds f) := rfl
theorem st (f : FmtM) : Statement (.st f) := rfl
theorem sts (f : FmtM) : Statement (.sts f) := rfl
theorem atom (f : FmtM) : Statement (.atom f) := rfl
theorem atoms (f : FmtM) : Statement (.atoms f) := rfl
theorem fence (f : FmtV) : Statement (.fence f) := rfl
theorem pref (f : FmtM) : Statement (.pref f) := rfl
theorem cstore (f : FmtV) : Statement (.cstore f) := rfl
theorem icinv (f : FmtV) : Statement (.icinv f) := rfl
theorem arrive (f : FmtV) : Statement (.arrive f) := rfl
theorem waitb (f : FmtV) : Statement (.waitb f) := rfl
theorem sbres (f : FmtV) : Statement (.sbres f) := rfl
theorem sbfill (f : FmtV) : Statement (.sbfill f) := rfl
theorem sbtake (f : FmtV) : Statement (.sbtake f) := rfl
theorem sbfree (f : FmtV) : Statement (.sbfree f) := rfl
theorem join (f : FmtV) : Statement (.join f) := rfl
theorem leave (f : FmtV) : Statement (.leave f) := rfl
theorem waitm (f : FmtV) : Statement (.waitm f) := rfl
theorem yield (f : FmtV) : Statement (.yield f) := rfl
theorem bra (f : FmtB) : Statement (.bra f) := rfl
theorem brx (f : FmtV) : Statement (.brx f) := rfl
theorem call (f : FmtB) : Statement (.call f) := rfl
theorem ret (f : FmtV) : Statement (.ret f) := rfl
theorem exit (f : FmtV) : Statement (.exit f) := rfl
theorem trap (f : FmtV) : Statement (.trap f) := rfl
theorem bkpt (f : FmtV) : Statement (.bkpt f) := rfl
theorem trapret (f : FmtV) : Statement (.trapret f) := rfl
theorem bcopy (f : FmtV) : Statement (.bcopy f) := rfl
theorem bgather (f : FmtV) : Statement (.bgather f) := rfl
theorem tierin (f : FmtV) : Statement (.tierin f) := rfl
theorem tierout (f : FmtV) : Statement (.tierout f) := rfl
theorem gangset (f : FmtV) : Statement (.gangset f) := rfl
theorem gmma (f : FmtV) : Statement (.gmma f) := rfl
theorem accrd (f : FmtV) : Statement (.accrd f) := rfl
theorem accwr (f : FmtV) : Statement (.accwr f) := rfl
theorem accst (f : FmtV) : Statement (.accst f) := rfl
theorem genset (f : FmtV) : Statement (.genset f) := rfl
theorem cfgwr (f : FmtV) : Statement (.cfgwr f) := rfl
theorem cfgseal (f : FmtV) : Statement (.cfgseal f) := rfl
theorem cfgrun (f : FmtV) : Statement (.cfgrun f) := rfl
theorem cfgrunResume (f : FmtV) : Statement (.cfgrunResume f) := rfl
theorem cfgstat (f : FmtV) : Statement (.cfgstat f) := rfl
theorem cfgdrain (f : FmtV) : Statement (.cfgdrain f) := rfl
theorem cfgkill (f : FmtV) : Statement (.cfgkill f) := rfl
theorem cfgevict (f : FmtV) : Statement (.cfgevict f) := rfl
theorem obind (f : FmtV) : Statement (.obind f) := rfl
theorem obindU (f : FmtV) : Statement (.obindU f) := rfl
theorem ocall (f : FmtV) : Statement (.ocall f) := rfl
theorem old (f : FmtV) : Statement (.old f) := rfl
theorem ost (f : FmtV) : Statement (.ost f) := rfl
theorem ocommit (f : FmtV) : Statement (.ocommit f) := rfl
theorem oabort (f : FmtV) : Statement (.oabort f) := rfl
theorem launch (f : FmtV) : Statement (.launch f) := rfl
theorem sysrd (f : FmtS) : Statement (.sysrd f) := rfl
theorem syswr (f : FmtS) : Statement (.syswr f) := rfl
theorem wid (f : FmtV) : Statement (.wid f) := rfl
theorem rgive (f : FmtV) : Statement (.rgive f) := rfl
theorem rclaim (f : FmtV) : Statement (.rclaim f) := rfl
theorem dualWord (d : Dual) : Statement (.dualWord d) := rfl
theorem producerComplete (p : Party) (id : Nat) : Statement (.producerComplete p id) := rfl
theorem rclaimGrant (blk : Nat) : Statement (.rclaimGrant blk) := rfl
theorem sbresGrant (blk : Nat) (buf : Nat) : Statement (.sbresGrant blk buf) := rfl
theorem sbtakeGrant (blk : Nat) (buf : Nat) : Statement (.sbtakeGrant blk buf) := rfl
theorem waitbWake (p : Party) (pc : BitVec 64) : Statement (.waitbWake p pc) := rfl
theorem waitbPoll (p : Party) (pc : BitVec 64) : Statement (.waitbPoll p pc) := rfl
theorem gangLatchOpen (h : Handle) : Statement (.gangLatchOpen h) := rfl
theorem regdeadlock (blk : Nat) : Statement (.regdeadlock blk) := rfl
theorem watchdog (p : Party) (va : BitVec 64) : Statement (.watchdog p va) := rfl
theorem eccfatal (p : Party) (what : BitVec 2) : Statement (.eccfatal p what) := rfl
theorem rucksackSaveDone (launch : Nat) (cset : Nat) (image : Bool) : Statement (.rucksackSaveDone launch cset image) := rfl
theorem launchComplete (launch : Nat) : Statement (.launchComplete launch) := rfl
theorem ocallRequestArrive (u : UnitId) : Statement (.ocallRequestArrive u) := rfl
theorem batchStart (u : UnitId) : Statement (.batchStart u) := rfl
theorem waveLimit (u : UnitId) (wslot : Nat) : Statement (.waveLimit u wslot) := rfl
theorem ocallReply (ix : Nat) : Statement (.ocallReply ix) := rfl
theorem faultReply (ix : Nat) : Statement (.faultReply ix) := rfl
theorem copyEngineComplete (id : Nat) (upto : Option Nat) : Statement (.copyEngineComplete id upto) := rfl
theorem tierPageMove (id : Nat) : Statement (.tierPageMove id) := rfl
theorem tierCommandComplete (id : Nat) : Statement (.tierCommandComplete id) := rfl
theorem icinvComplete (id : Nat) : Statement (.icinvComplete id) := rfl
theorem tlbiRange (r : Nat) (v : BitVec 32) : Statement (.tlbiRange r v) := rfl
theorem tlbiContext (r : Nat) (v : BitVec 32) : Statement (.tlbiContext r v) := rfl
theorem tlbiAll (r : Nat) (v : BitVec 32) : Statement (.tlbiAll r v) := rfl
theorem stopCmd (r : Nat) : Statement (.stopCmd r) := rfl
theorem stepCmd (r : Nat) : Statement (.stepCmd r) := rfl
theorem terminateCmd (r : Nat) : Statement (.terminateCmd r) := rfl
theorem preemptCmd (r : Nat) (hold : Bool) : Statement (.preemptCmd r hold) := rfl
theorem releaseCmd (r : Nat) : Statement (.releaseCmd r) := rfl
theorem wcmdBadcmd (r : Nat) (v : BitVec 32) : Statement (.wcmdBadcmd r v) := rfl
theorem windowRead (r : Nat) : Statement (.windowRead r) := rfl
theorem windowWrite (r : Nat) (v : BitVec 32) : Statement (.windowWrite r v) := rfl
theorem tqtake (r : Nat) : Statement (.tqtake r) := rfl
theorem dbsync (r : Nat) (v : BitVec 32) : Statement (.dbsync r v) := rfl
theorem clkloRead (p : Party) : Statement (.clkloRead p) := rfl
theorem sbcfgWrite (blk : Nat) (buf : Nat) (v : BitVec 32) : Statement (.sbcfgWrite blk buf v) := rfl
theorem fbsactRetry (r : Nat) (v : BitVec 32) : Statement (.fbsactRetry r v) := rfl
theorem fbsactUnresolvable (r : Nat) (v : BitVec 32) : Statement (.fbsactUnresolvable r v) := rfl
theorem fbownSelect (r : Nat) (v : BitVec 32) : Statement (.fbownSelect r v) := rfl
theorem fbownWrite (r : Nat) (v : BitVec 32) : Statement (.fbownWrite r v) := rfl
theorem drainCmd (r : Nat) (v : BitVec 32) : Statement (.drainCmd r v) := rfl
theorem resumeCmd (r : Nat) (v : BitVec 32) : Statement (.resumeCmd r v) := rfl
theorem lendCmd (r : Nat) (v : BitVec 32) : Statement (.lendCmd r v) := rfl
theorem returnCmd (r : Nat) (v : BitVec 32) : Statement (.returnCmd r v) := rfl
theorem killCmd (r : Nat) (v : BitVec 32) : Statement (.killCmd r v) := rfl
theorem eraseCmd (r : Nat) (v : BitVec 32) : Statement (.eraseCmd r v) := rfl
theorem fbrcmdBadcmd (r : Nat) (v : BitVec 32) : Statement (.fbrcmdBadcmd r v) := rfl
theorem frgreq (h : Handle) (ox oy rid : Nat) : Statement (.frgreq h ox oy rid) := rfl
theorem ftrust (h : Handle) : Statement (.ftrust h) := rfl
theorem fverify (h : Handle) : Statement (.fverify h) := rfl
theorem runSelect (stack rid : Nat) : Statement (.runSelect stack rid) := rfl
theorem loadingComplete (stack rid : Nat) : Statement (.loadingComplete stack rid) := rfl
theorem runDone (stack rid : Nat) : Statement (.runDone stack rid) := rfl
theorem drainComplete (stack rid : Nat) : Statement (.drainComplete stack rid) := rfl
theorem tokenArrive (stack ix : Nat) : Statement (.tokenArrive stack ix) := rfl
theorem batonEscape (stack ix : Nat) : Statement (.batonEscape stack ix) := rfl
theorem channelWatchdog (t : TileId) : Statement (.channelWatchdog t) := rfl
theorem bankRefresh (t : TileId) (bank : Nat) : Statement (.bankRefresh t bank) := rfl
theorem fabricEccError (t : TileId) (what : EccWhat) : Statement (.fabricEccError t what) := rfl
theorem streamWalkComplete (t : TileId) (rec : Nat) : Statement (.streamWalkComplete t rec) := rfl
theorem streamGateOpen (t : TileId) (rec : Nat) : Statement (.streamGateOpen t rec) := rfl
theorem readStreamToken (t : TileId) (rec : Nat) : Statement (.readStreamToken t rec) := rfl
theorem writeStreamElement (t : TileId) (rec : Nat) : Statement (.writeStreamElement t rec) := rfl
theorem writePassComplete (t : TileId) (rec : Nat) : Statement (.writePassComplete t rec) := rfl
theorem elementwiseFire (t : TileId) (slot : Nat) : Statement (.elementwiseFire t slot) := rfl
theorem selNode (t : TileId) (slot : Nat) : Statement (.selNode t slot) := rfl
theorem constN (t : TileId) (slot : Nat) : Statement (.constN t slot) := rfl
theorem countN (t : TileId) (slot : Nat) : Statement (.countN t slot) := rfl
theorem genN (t : TileId) (slot : Nat) : Statement (.genN t slot) := rfl
theorem steerN (t : TileId) (slot : Nat) : Statement (.steerN t slot) := rfl
theorem filterN (t : TileId) (slot : Nat) : Statement (.filterN t slot) := rfl
theorem mergeN (t : TileId) (slot : Nat) : Statement (.mergeN t slot) := rfl
theorem accN (t : TileId) (slot : Nat) : Statement (.accN t slot) := rfl
theorem bfpsumN (t : TileId) (slot : Nat) : Statement (.bfpsumN t slot) := rfl
theorem mmanN (t : TileId) (slot : Nat) : Statement (.mmanN t slot) := rfl
theorem topknN (t : TileId) (slot : Nat) : Statement (.topknN t slot) := rfl
theorem partN (t : TileId) (slot : Nat) : Statement (.partN t slot) := rfl
theorem gathrN (t : TileId) (slot : Nat) : Statement (.gathrN t slot) := rfl
theorem sinkN (t : TileId) (slot : Nat) : Statement (.sinkN t slot) := rfl
theorem pqaccTableLoad (t : TileId) (slot : Nat) : Statement (.pqaccTableLoad t slot) := rfl
theorem mbReserve (mb : Nat) : Statement (.mbReserve mb) := rfl
theorem mbCommit (mb : Nat) (v : BitVec 32) : Statement (.mbCommit mb v) := rfl
theorem launchSlotWrite (off : Nat) (data : List (BitVec 8)) : Statement (.launchSlotWrite off data) := rfl
theorem mailboxConsume (mb : Nat) : Statement (.mailboxConsume mb) := rfl
theorem hostBar2Access (off : Nat) (acc : HostAccess) : Statement (.hostBar2Access off acc) := rfl
theorem bar0Violation (off : Nat) (acc : HostAccess) : Statement (.bar0Violation off acc) := rfl
theorem registerWrite (off : Nat) (v : BitVec 64) (size8 : Bool) : Statement (.registerWrite off v size8) := rfl
theorem logTail (die : Nat) (v : BitVec 32) : Statement (.logTail die v) := rfl
theorem mgcmdBadcmd (code : BitVec 32) : Statement (.mgcmdBadcmd code) := rfl
theorem coldReset (primaryOk secondaryOk : Bool) : Statement (.coldReset primaryOk secondaryOk) := rfl
theorem configRequest (q : ConfigReq) : Statement (.configRequest q) := rfl
theorem negotiateAlgorithms (offersSlhDsa128f : Bool) : Statement (.negotiateAlgorithms offersSlhDsa128f) := rfl
theorem getCertificate (slot offset length : Nat) : Statement (.getCertificate slot offset length) := rfl
theorem challenge (slot : Nat) (nonce : BitVec 256) : Statement (.challenge slot nonce) := rfl
theorem getMeasurements (index : Nat) (nonce : BitVec 256) : Statement (.getMeasurements index nonce) := rfl
theorem supplySag (core part : Nat) : Statement (.supplySag core part) := rfl
theorem clockStretchEnd (core part : Nat) : Statement (.clockStretchEnd core part) := rfl
theorem peerRequestArrive (port : Nat) (q : PeerRequest) : Statement (.peerRequestArrive port q) := rfl
theorem linkDown (port : Nat) : Statement (.linkDown port) := rfl
theorem rucksackRestoreDone (launch : Nat) (cset : Nat) : Statement (.rucksackRestoreDone launch cset) := rfl
theorem gmmaComplete (h : Handle) : Statement (.gmmaComplete h) := rfl
theorem memoryEccError (pa : Nat) (correctable : Bool) : Statement (.memoryEccError pa correctable) := rfl
theorem detLogExtend (ctx : Nat) (pages : Nat) : Statement (.detLogExtend ctx pages) := rfl
theorem doneArrivalRetry (launch : Nat) : Statement (.doneArrivalRetry launch) := rfl
theorem dispatcherCycle : Statement (.dispatcherCycle) := rfl
theorem poolStarvation : Statement (.poolStarvation) := rfl
theorem tlbiComplete : Statement (.tlbiComplete) := rfl
theorem ctxcreate : Statement (.ctxcreate) := rfl
theorem ctxdestroy : Statement (.ctxdestroy) := rfl
theorem mbbind : Statement (.mbbind) := rfl
theorem qassign : Statement (.qassign) := rfl
theorem savepool : Statement (.savepool) := rfl
theorem powercap : Statement (.powercap) := rfl
theorem segmap : Statement (.segmap) := rfl
theorem freezeCmd : Statement (.freezeCmd) := rfl
theorem cfgkey : Statement (.cfgkey) := rfl
theorem fabquota : Statement (.fabquota) := rfl
theorem freezeJtag : Statement (.freezeJtag) := rfl
theorem bringupComplete : Statement (.bringupComplete) := rfl
theorem functionLevelReset : Statement (.functionLevelReset) := rfl
theorem getVersion : Statement (.getVersion) := rfl
theorem getCapabilities : Statement (.getCapabilities) := rfl
theorem getDigests : Statement (.getDigests) := rfl

end Sys2Proof.Laws.HasWord
end

