-- ==== Sys2Proof/Laws/Results.lean ====
section
/-! SUPPORT. What the writes of results leave: one lane, all active lanes, a scalar, a predicate. -/

namespace Sys2Proof.Machine

/-- A lane stands in the list of a mask's lanes when its bit is set. -/
theorem mem_lanesOf (m : LaneMask) (l : Nat) : l ∈ lanesOf m ↔ l < 32 ∧ hasLane m l = true := by
  simp [lanesOf, bitList, hasLane, BitVec.getLsbD]

/-- A mask with a lane has a nonempty list of lanes. -/
theorem lanesOf_ne_nil {m : LaneMask} (h : m ≠ 0) : lanesOf m ≠ [] := by
  intro hn
  apply h
  apply BitVec.eq_of_getLsbD_eq
  intro i hi
  have : ¬ i ∈ lanesOf m := by rw [hn]; simp
  rw [mem_lanesOf] at this
  have hf : hasLane m i ≠ true := fun e => this ⟨hi, e⟩
  simpa [hasLane] using hf

/-- Two keys of lanes are equal only for one register and lane. -/
theorem laneKey_inj {n m l k : Nat} (hl : l < 32) (hk : k < 32) : 32 * n + l = 32 * m + k ↔ n = m ∧ l = k := by omega

/-- The marks left by a write of `cnt` registers from dst. -/
def marksAfter (ms : List FaultMark) (dst cnt : Nat) : List FaultMark :=
  ms.filter (fun k => !((List.range cnt).any (fun i => k.pair = (dst + i) / 2)))

theorem marksAfter_idem (ms : List FaultMark) (dst cnt : Nat) :
    marksAfter (marksAfter ms dst cnt) dst cnt = marksAfter ms dst cnt := by
  simp [marksAfter]

/-- A write of one lane: the register file, the marks, and nothing else. -/
theorem vsetN_shape (g : Group) (dst cnt l : Nat) (x : DWord) (hc : cnt = 1 ∨ cnt = 2) :
    g.vsetN dst cnt l x = { g with v := (g.vsetN dst cnt l x).v, marks := marksAfter g.marks dst cnt } := by
  rcases hc with rfl | rfl
  · simp [Group.vsetN, Group.vset, marksAfter, bne, List.range, List.range.loop]
    rfl
  · simp only [Group.vsetN, Group.vset, marksAfter, if_true, List.filter_filter]
    congr 1
    apply List.filter_congr
    intro k _
    by_cases h1 : k.pair = dst / 2 <;> by_cases h2 : k.pair = (dst + 1) / 2 <;> simp [bne, List.range, List.range.loop, h1, h2]

/-- What one lane's registers read after a write. -/
theorem vsetN_get (g : Group) (dst cnt l : Nat) (x : Nat) (hw : g.v.wf = true) (hc : cnt = 1 ∨ cnt = 2) (hl : l < 32) :
    (g.vsetN dst cnt l (BitVec.ofNat 64 x)).v.wf = true ∧ ∀ n k, k < 32 →
      Sparse.get (g.vsetN dst cnt l (BitVec.ofNat 64 x)).v (32 * n + k) =
        if dst ≤ n ∧ n < dst + cnt ∧ k = l then partOf x dst n else Sparse.get g.v (32 * n + k) := by
  have e0 : (BitVec.ofNat 64 x).setWidth 32 = BitVec.ofNat 32 x := by
    simp [BitVec.setWidth_ofNat_of_le]
  have e1 : (BitVec.ofNat 64 x).extractLsb' 32 32 = BitVec.ofNat 32 (x >>> 32) := by
    apply BitVec.eq_of_toNat_eq
    simp [BitVec.extractLsb', Nat.shiftRight_eq_div_pow]
    omega
  rcases hc with rfl | rfl
  · simp only [Group.vsetN, Group.vset, Nat.reduceEqDiff, if_false, e0]
    refine ⟨Sparse.wf_set _ _ _ hw, fun n k hk => ?_⟩
    rw [Sparse.get_set _ hw]
    simp only [laneKey_inj hk hl]
    by_cases h : n = dst ∧ k = l
    · obtain ⟨rfl, rfl⟩ := h
      simp [partOf]
    · rw [if_neg h, if_neg (by omega)]
  · simp only [Group.vsetN, Group.vset, if_true, e0, e1]
    have hw1 := Sparse.wf_set g.v (32 * dst + l) (BitVec.ofNat 32 x) hw
    refine ⟨Sparse.wf_set _ _ _ hw1, fun n k hk => ?_⟩
    rw [Sparse.get_set _ hw1, Sparse.get_set _ hw]
    simp only [laneKey_inj hk hl]
    by_cases h1 : n = dst + 1 ∧ k = l
    · obtain ⟨rfl, rfl⟩ := h1
      simp [partOf]
    · rw [if_neg h1]
      by_cases h : n = dst ∧ k = l
      · obtain ⟨rfl, rfl⟩ := h
        simp [partOf]
      · rw [if_neg h, if_neg (by omega)]

/-- Writes of a list of lanes. -/
theorem vsetN_fold (dst cnt : Nat) (hc : cnt = 1 ∨ cnt = 2) (val : Nat → Nat) : ∀ (ls : List Nat) (g : Group),
    g.v.wf = true → (∀ l ∈ ls, l < 32) →
    let r := ls.foldl (fun g l => g.vsetN dst cnt l (BitVec.ofNat 64 (val l))) g
    r.v.wf = true ∧
    r = { g with v := r.v, marks := if ls = [] then g.marks else marksAfter g.marks dst cnt } ∧
    ∀ n k, k < 32 → Sparse.get r.v (32 * n + k) =
      if dst ≤ n ∧ n < dst + cnt ∧ k ∈ ls then partOf (val k) dst n else Sparse.get g.v (32 * n + k) := by
  intro ls
  induction ls with
  | nil => intro g hw _; exact ⟨hw, rfl, fun n k _ => by simp⟩
  | cons l t ih =>
    intro g hw hl
    have h1 := vsetN_get g dst cnt l (val l) hw hc (hl l (by simp))
    have h2 := ih (g.vsetN dst cnt l (BitVec.ofNat 64 (val l))) h1.1 (fun k hk => hl k (by simp [hk]))
    simp only [List.foldl_cons]
    obtain ⟨a, b, c⟩ := h2
    refine ⟨a, ?_, fun n k hk => ?_⟩
    · have hs := vsetN_shape g dst cnt l (BitVec.ofNat 64 (val l)) hc
      rw [b]
      rw [hs]
      simp only [List.cons_ne_nil, if_false]
      congr 1
      split
      · rfl
      · exact marksAfter_idem _ _ _
    · rw [c n k hk, h1.2 n k hk]
      by_cases hd : dst ≤ n ∧ n < dst + cnt
      · by_cases hkt : k ∈ t
        · simp [hd.1, hd.2, hkt]
        · by_cases hkl : k = l
          · simp [hd.1, hd.2, hkl]
          · simp [hd.1, hd.2, hkt, hkl]
      · have n1 : ¬ (dst ≤ n ∧ n < dst + cnt ∧ k ∈ t) := fun h => hd ⟨h.1, h.2.1⟩
        have n2 : ¬ (dst ≤ n ∧ n < dst + cnt ∧ k = l) := fun h => hd ⟨h.1, h.2.1⟩
        have n3 : ¬ (dst ≤ n ∧ n < dst + cnt ∧ k ∈ l :: t) := fun h => hd ⟨h.1, h.2.1⟩
        rw [if_neg n1, if_neg n2, if_neg n3]

/-- Writes of a mask's lanes, with flags: the vector result of a word. -/
theorem vecOut_of_fold (g : Group) (dst cnt : Nat) (m : LaneMask) (val : Nat → Nat) (fl : Flags) (hw : g.v.wf = true)
    (hc : cnt = 1 ∨ cnt = 2) (hm : m ≠ 0) :
    VecOut g (((lanesOf m).foldl (fun g l => g.vsetN dst cnt l (BitVec.ofNat 64 (val l))) g).addFp fl) dst cnt m val fl := by
  have h := vsetN_fold dst cnt hc val (lanesOf m) g hw (fun l hl => ((mem_lanesOf m l).1 hl).1)
  obtain ⟨_, b, c⟩ := h
  rw [if_neg (lanesOf_ne_nil hm)] at b
  refine ⟨((lanesOf m).foldl (fun g l => g.vsetN dst cnt l (BitVec.ofNat 64 (val l))) g).v, ?_, fun n l hl => ?_⟩
  · unfold Group.addFp
    rw [b]
    rfl
  · rw [c n l hl]
    by_cases hd : dst ≤ n ∧ n < dst + cnt ∧ hasLane m l = true
    · rw [if_pos ⟨hd.1, hd.2.1, (mem_lanesOf m l).2 ⟨hl, hd.2.2⟩⟩, if_pos hd]
    · rw [if_neg (fun h => hd ⟨h.1, h.2.1, ((mem_lanesOf m l).1 h.2.2).2⟩), if_neg hd]
      rfl

/-- A scalar result. -/
theorem scaOut_of_sset (g : Group) (dst cnt : Nat) (v : Nat) (fl : Flags) (hw : g.sr.wf = true) (hc : cnt = 1 ∨ cnt = 2) :
    ScaOut g ((g.ssetN dst cnt (BitVec.ofNat 64 v)).addFp fl) dst cnt v fl := by
  have e0 : (BitVec.ofNat 64 v).setWidth 32 = BitVec.ofNat 32 v := by simp [BitVec.setWidth_ofNat_of_le]
  have e1 : (BitVec.ofNat 64 v).extractLsb' 32 32 = BitVec.ofNat 32 (v >>> 32) := by
    apply BitVec.eq_of_toNat_eq
    simp [BitVec.extractLsb', Nat.shiftRight_eq_div_pow]
    omega
  rcases hc with rfl | rfl
  · simp only [Group.ssetN, Group.sset, Nat.reduceEqDiff, if_false, e0, Group.addFp]
    refine ⟨_, rfl, fun n => ?_⟩
    rw [Sparse.get_set _ hw]
    by_cases h : n = dst
    · subst h; simp [partOf]
    · rw [if_neg h, if_neg (by omega)]; rfl
  · simp only [Group.ssetN, Group.sset, if_true, e0, e1, Group.addFp]
    have hw1 := Sparse.wf_set g.sr dst (BitVec.ofNat 32 v) hw
    refine ⟨_, rfl, fun n => ?_⟩
    rw [Sparse.get_set _ hw1, Sparse.get_set _ hw]
    by_cases h1 : n = dst + 1
    · subst h1; simp [partOf]
    · rw [if_neg h1]
      by_cases h : n = dst
      · subst h; simp [partOf]
      · rw [if_neg h, if_neg (by omega)]; rfl

/-- What `aluOut` retires with. -/
theorem aluOut_out (x : Issue) (sk : Bool) (dst cnt : Nat) (val : Nat → Nat × Flags) (s : State)
    (hv : x.g.v.wf = true) (hs : x.g.sr.wf = true) (hc : cnt = 1 ∨ cnt = 2) (hm : x.active ≠ 0) :
    ∃ g', aluOut x sk dst cnt val s = retire x g' s ∧ AluOut x g' sk dst cnt val := by
  refine ⟨_, rfl, ?_⟩
  cases sk
  · have := vecOut_of_fold x.g dst cnt x.active (fun l => (val l).1) (orFlags (x.lanes.map (fun l => (val l).2))) hv hc hm
    simpa [AluOut, aluOut, Issue.lanes, putResult, List.foldl_map, Function.comp_def] using this
  · have := scaOut_of_sset x.g dst cnt (val (lowLane x.active)).1 (val (lowLane x.active)).2 hs hc
    simpa [AluOut, aluOut, putResult, orFlags] using this

/-- A word whose body is `aluOut`. -/
theorem regWord_of_alu {i : Instr} {body : Issue → State → State} {sk : Bool} {dst cnt : Nat} {val : Issue → Nat → Nat × Flags}
    (he : ∀ s, exec i s = laneWord i body s) (hb : ∀ x s, body x s = aluOut x sk dst cnt (val x) s)
    (hc : cnt = 1 ∨ cnt = 2) : RegWord i (fun x _ g' => AluOut x g' sk dst cnt (val x)) := by
  intro s x hx hv hs
  obtain ⟨g', h1, h2⟩ := aluOut_out x sk dst cnt (val x) s hv hs hc (issues_spec hx).2
  refine ⟨retire x g' s, g', ?_, retire_ends _ _ _, h2⟩
  rw [he, laneWord_performs hx, hb, h1]

/-- The registers of a type are one or two. -/
theorem tyRegs_cases (ty : Nat) : tyRegs ty = 1 ∨ tyRegs ty = 2 := by
  unfold tyRegs
  split
  · exact .inr rfl
  · exact .inl rfl

end Sys2Proof.Machine
end

