-- ==== Sys2Proof/Laws/Rounding.lean ====
section
/-! SUPPORT. FP32 rounding is exact (spec 04 R84, R86, R95): the code that `Fmt.round` chooses is the rounded value, also of a reciprocal
and of a reciprocal square root, which reach it as a floor with a sticky bit. -/

namespace Sys2Proof.Machine

/-- The units of a code, by its exponent step and its significand. -/
theorem fp32Units_at {E q : Nat} (hq : q ≤ 2 ^ 24) (h : E = 0 ∨ 2 ^ 23 ≤ q) : fp32Units (E * 2 ^ 23 + q) = q * 2 ^ (E + 1) := by
  unfold fp32Units
  rcases Nat.lt_or_ge q (2 ^ 23) with h1 | h1
  · obtain rfl : E = 0 := by omega
    rw [if_pos (by omega)]; omega
  · rw [if_neg (by omega)]
    rcases Nat.lt_or_ge q (2 ^ 24) with h2 | h2
    · rw [show (E * 2 ^ 23 + q) / 2 ^ 23 = E + 1 by omega, show (E * 2 ^ 23 + q) % 2 ^ 23 = q - 2 ^ 23 by omega,
        show 2 ^ 23 + (q - 2 ^ 23) = q by omega]
    · obtain rfl : q = 2 ^ 24 := by omega
      rw [show (E * 2 ^ 23 + 2 ^ 24) / 2 ^ 23 = E + 2 by omega, show (E * 2 ^ 23 + 2 ^ 24) % 2 ^ 23 = 0 by omega,
        Nat.pow_succ 2 (E + 1)]
      omega

/-- Comparison with a common factor. -/
theorem compare_mul {a b c : Nat} (hc : 0 < c) : compare (a * c) (b * c) = compare a b := by
  rcases Nat.lt_trichotomy a b with h | h | h
  · rw [Nat.compare_eq_lt.2 h, Nat.compare_eq_lt.2 (Nat.mul_lt_mul_of_pos_right h hc)]
  · rw [h, Nat.compare_eq_eq.2 rfl, Nat.compare_eq_eq.2 rfl]
  · rw [Nat.compare_eq_gt.2 h, Nat.compare_eq_gt.2 (Nat.mul_lt_mul_of_pos_right h hc)]

/-- Comparison with a common summand. -/
theorem compare_add {a b w : Nat} : compare (w + a) (w + b) = compare a b := by
  rcases Nat.lt_trichotomy a b with h | h | h
  · rw [Nat.compare_eq_lt.2 h, Nat.compare_eq_lt.2 (by omega)]
  · rw [h, Nat.compare_eq_eq.2 rfl, Nat.compare_eq_eq.2 rfl]
  · rw [Nat.compare_eq_gt.2 h, Nat.compare_eq_gt.2 (by omega)]

/-- A value written as quotient and remainder at the unit 2^(E − 149) of a code, compared with multiples of 2^−151. -/
theorem dyadicCmp_at {m : Nat} {e : Int} {E c d : Nat} (h : (e : Int) = (E : Int) - 149 + c - d) (j : Nat) :
    dyadicCmp m e j = compare (m * 2 ^ c * 2 ^ (E + 2)) (j * 2 ^ d) := by
  unfold dyadicCmp
  have hx : (e + 151).toNat + d = (-(e + 151)).toNat + c + (E + 2) := by omega
  rw [← compare_mul (Nat.pow_pos (n := d) (show 0 < 2 by decide)),
    ← compare_mul (a := m * 2 ^ c * 2 ^ (E + 2)) (Nat.pow_pos (n := (-(e + 151)).toNat) (show 0 < 2 by decide)),
    Nat.mul_assoc, ← Nat.pow_add, hx, Nat.pow_add, Nat.pow_add]
  congr 1
  · ring
  · ring

/-- Codes rise with their magnitudes. -/
theorem fp32Units_lt (k : Nat) : fp32Units k < fp32Units (k + 1) := by
  obtain ⟨E, q, hk, hq, h⟩ : ∃ E q, k = E * 2 ^ 23 + q ∧ q < 2 ^ 24 ∧ (E = 0 ∨ 2 ^ 23 ≤ q) := by
    rcases Nat.lt_or_ge k (2 ^ 23) with h | h
    · exact ⟨0, k, by omega, by omega, .inl rfl⟩
    · exact ⟨k / 2 ^ 23 - 1, k % 2 ^ 23 + 2 ^ 23, by omega, by omega, .inr (by omega)⟩
  subst hk
  rw [Nat.add_assoc, fp32Units_at (by omega) h, fp32Units_at (by omega) (by omega)]
  exact Nat.mul_lt_mul_of_pos_right (by omega) (Nat.pow_pos (by decide))

/-- Rounding from quotient and remainder: where `cmp` is the order of an exact value that lies q + r / u units of 2^(E − 149) from 0, as
far as the codes beside it and their middles show, the code chosen is the rounded one. -/
theorem roundsTo_of_cmp {rm : Nat} {neg : Bool} {cmp : Nat → Ordering} {A : Nat} {F : Nat → Nat} {E q r u k : Nat} (hrm : rm < 4) (hr : r < u)
    (hq : q < 2 ^ 24) (hE : E = 0 ∨ 2 ^ 23 ≤ q) (hk : k = E * 2 ^ 23 + q) (hF : ∀ a b, a < b → F a < F b)
    (hc : ∀ j, cmp j = compare A (F j)) (H1 : cmp ((2 * q + 1) * 2 ^ (E + 1)) = compare (2 * r) u)
    (H2 : cmp (2 * q * 2 ^ (E + 1)) = compare r 0) (H3 : cmp ((2 * q + 2) * 2 ^ (E + 1)) = .lt) {res : Nat × Flags}
    (hres : let k' := k + (if roundsUp rm neg q r u then 1 else 0)
      let up := (rm = 2 ∧ neg = false) ∨ (rm = 3 ∧ neg = true)
      let sign := if neg then 2 ^ 31 else 0
      (k' < 0x7F800000 → res.1 = k' + sign ∧ res.2 = if r = 0 then 0 else if k' < 2 ^ 23 then fNX ||| fUF else fNX) ∧
      (0x7F800000 ≤ k' → res.1 = (if rm = 0 ∨ up then 0x7F800000 else 0x7F7FFFFF) + sign ∧ res.2 = fOF ||| fNX)) :
    RoundsTo rm neg cmp res := by
  have hU0 : fp32Units k = q * 2 ^ (E + 1) := by rw [hk]; exact fp32Units_at (by omega) hE
  have hU1 : fp32Units (k + 1) = (q + 1) * 2 ^ (E + 1) := by
    have h := fp32Units_at (E := E) (q := q + 1) (by omega) (by omega)
    rwa [show E * 2 ^ 23 + (q + 1) = k + 1 by omega] at h
  have hpar : k % 2 = q % 2 := by omega
  clear hk hE hq
  generalize (2 : Nat) ^ (E + 1) = Q at *
  have hlow : ∀ n, n ≠ 0 → fp32Units (n - 1) < fp32Units n := fun n h => by
    have := fp32Units_lt (n - 1); rwa [Nat.sub_add_cancel (by omega)] at this
  have K1 : cmp (fp32Units k + fp32Units (k + 1)) = compare (2 * r) u := by
    rw [← H1, hU0, hU1, show q * Q + (q + 1) * Q = (2 * q + 1) * Q by grind]
  have K2 : cmp (2 * fp32Units k) = compare r 0 := by rw [← H2, hU0, Nat.mul_assoc]
  have K3 : cmp (2 * fp32Units (k + 1)) = .lt := by rw [← H3, hU1, show (2 * q + 2) * Q = 2 * ((q + 1) * Q) by grind]
  have mono : ∀ a b, a < b → cmp a = .lt → cmp b = .lt := fun a b h1 h2 => by
    rw [hc] at h2 ⊢
    exact Nat.compare_eq_lt.2 (Nat.lt_trans (Nat.compare_eq_lt.1 h2) (hF a b h1))
  have anti : ∀ a, a < 2 * fp32Units k → cmp a = .gt := fun a h1 => by
    have h2 : cmp (2 * fp32Units k) ≠ .lt := by rw [K2]; intro h; have := Nat.compare_eq_lt.1 h; omega
    rw [hc] at h2 ⊢
    have h3 : ¬ A < F (2 * fp32Units k) := fun h => h2 (Nat.compare_eq_lt.2 h)
    exact Nat.compare_eq_gt.2 (Nat.lt_of_lt_of_le (hF _ _ h1) (by omega))
  have K4 : k ≠ 0 → cmp (fp32Units (k - 1) + fp32Units k) = .gt ∧ cmp (2 * fp32Units (k - 1)) = .gt := fun h =>
    ⟨anti _ (by have := hlow k h; omega), anti _ (by have := hlow k h; omega)⟩
  have K5 : cmp (fp32Units (k + 1) + fp32Units (k + 1 + 1)) = .lt := mono _ _ (by have := fp32Units_lt (k + 1); omega) K3
  have hz : (cmp (2 * fp32Units k) = .eq) ↔ r = 0 := by rw [K2]; exact Nat.compare_eq_eq
  clear hc hU0 hU1 mono anti hF H1 H2 H3
  by_cases hup : roundsUp rm neg q r u = true
  · refine ⟨k + 1, ?_, ?_, ?_, ?_⟩
    · rintro rfl
      have h0 : r ≠ 0 ∧ (u < 2 * r ∨ (u = 2 * r ∧ q % 2 = 1)) := by
        simp only [roundsUp] at hup
        by_cases h0 : r = 0
        · simp [h0] at hup
        · simpa [h0] using hup
      refine ⟨.inr ?_, .inl K5⟩
      rw [Nat.add_sub_cancel, K1]
      rcases h0.2 with h | h
      · exact .inl (Nat.compare_eq_gt.2 h)
      · exact .inr ⟨Nat.compare_eq_eq.2 h.1.symm, by omega⟩
    · intro h1 h2
      rw [K3, Nat.add_sub_cancel, K2]
      refine ⟨by decide, .inr (Nat.compare_eq_gt.2 (Nat.pos_of_ne_zero ?_))⟩
      rintro rfl
      simp [roundsUp] at hup
    · intro h1 h2
      exfalso
      simp only [roundsUp] at hup
      have h3 : rm = 1 ∨ rm = 2 ∨ rm = 3 := by omega
      rcases h3 with rfl | rfl | rfl <;> cases neg <;> simp_all
    · simp only [hup, if_true] at hres
      have hr0 : r ≠ 0 := by rintro rfl; simp [roundsUp] at hup
      rw [K3]
      simpa [hr0] using hres
  · refine ⟨k, ?_, ?_, ?_, ?_⟩
    · rintro rfl
      rw [K1]
      refine ⟨?_, ?_⟩
      · by_cases h : k = 0
        · exact .inl h
        · exact .inr (.inl (K4 h).1)
      · simp only [roundsUp] at hup
        by_cases h0 : r = 0
        · exact .inl (Nat.compare_eq_lt.2 (by omega))
        · have h1 : ¬ (u < 2 * r ∨ (u = 2 * r ∧ q % 2 = 1)) := by simpa [h0] using hup
          rcases Nat.lt_trichotomy (2 * r) u with h | h | h
          · exact .inl (Nat.compare_eq_lt.2 h)
          · exact .inr ⟨Nat.compare_eq_eq.2 h, by omega⟩
          · exact absurd (.inl h) h1
    · intro h1 h2
      have hr0 : r = 0 := by
        refine Decidable.byContradiction (fun h0 => hup ?_)
        simp only [roundsUp]
        rcases h2 with ⟨rfl, rfl⟩ | ⟨rfl, rfl⟩ <;> simp [h0]
      refine ⟨by rw [hz.2 hr0]; decide, ?_⟩
      by_cases h : k = 0
      · exact .inl h
      · exact .inr (K4 h).2
    · intro h1 h2
      refine ⟨?_, K3⟩
      rw [K2]; intro h; have := Nat.compare_eq_lt.1 h; omega
    · simp only [Bool.not_eq_true] at hup
      simp only [hup, Bool.false_eq_true, if_false, Nat.add_zero] at hres
      simp only [hz]
      exact hres

/-- The same where the value is exactly q + r / u units. -/
theorem roundsTo_of_parts {rm : Nat} {neg : Bool} {cmp : Nat → Ordering} {E q r u k : Nat} (hrm : rm < 4) (hr : r < u)
    (hq : q < 2 ^ 24) (hE : E = 0 ∨ 2 ^ 23 ≤ q) (hk : k = E * 2 ^ 23 + q)
    (hc : ∀ j, cmp j = compare ((q * u + r) * 2 ^ (E + 2)) (j * u)) {res : Nat × Flags}
    (hres : let k' := k + (if roundsUp rm neg q r u then 1 else 0)
      let up := (rm = 2 ∧ neg = false) ∨ (rm = 3 ∧ neg = true)
      let sign := if neg then 2 ^ 31 else 0
      (k' < 0x7F800000 → res.1 = k' + sign ∧ res.2 = if r = 0 then 0 else if k' < 2 ^ 23 then fNX ||| fUF else fNX) ∧
      (0x7F800000 ≤ k' → res.1 = (if rm = 0 ∨ up then 0x7F800000 else 0x7F7FFFFF) + sign ∧ res.2 = fOF ||| fNX)) :
    RoundsTo rm neg cmp res := by
  have hQ : 0 < 2 ^ (E + 1) := Nat.pow_pos (by decide)
  have hP : (2 : Nat) ^ (E + 2) = 2 * 2 ^ (E + 1) := by rw [Nat.pow_succ, Nat.mul_comm]
  refine roundsTo_of_cmp hrm hr hq hE hk (fun a b h => Nat.mul_lt_mul_of_pos_right h (by omega)) hc ?_ ?_ ?_ hres
  all_goals rw [hc, hP]; generalize (2 : Nat) ^ (E + 1) = Q at *
  · rw [show (q * u + r) * (2 * Q) = (2 * (q * u) + 2 * r) * Q by grind,
      show (2 * q + 1) * Q * u = (2 * (q * u) + u) * Q by grind, compare_mul hQ, compare_add]
  · rw [show 2 * q * Q * u = (q * u + 0) * (2 * Q) by grind, compare_mul (by omega), compare_add]
  · rw [show (2 * q + 2) * Q * u = (q * u + u) * (2 * Q) by grind, compare_mul (by omega), compare_add]
    exact Nat.compare_eq_lt.2 hr

/-- The quotient, remainder and unit of a finite value at its FP32 unit. -/
theorem shiftTo_parts {m : Nat} (hm : 0 < m) (e : Int) :
    let l := log2of m e
    let ulp := (if l < -126 then -126 else l) - 23
    ∃ E q r c d u : Nat, ulp = (E : Int) - 149 ∧ (e : Int) = E - 149 + c - d ∧ u = 2 ^ d ∧ (c = 0 ∨ d = 0) ∧ m * 2 ^ c = q * u + r ∧ r < u ∧ q < 2 ^ 24 ∧
      (E = 0 ∨ 2 ^ 23 ≤ q) ∧ (shiftTo m (e - ulp)).1 = q ∧ (shiftTo m (e - ulp)).2.1 = r ∧
      ∀ rm neg, roundsUp rm neg q r (shiftTo m (e - ulp)).2.2 = roundsUp rm neg q r u := by
  intro l ulp
  have hl : l = (Nat.log2 m : Int) + e := rfl
  have hlo : 2 ^ Nat.log2 m ≤ m := Nat.log2_self_le (by omega)
  have hhi : m < 2 ^ (Nat.log2 m + 1) := Nat.lt_log2_self
  have hu : -149 ≤ ulp ∧ l - ulp ≤ 23 ∧ (ulp = -149 ∨ l - ulp = 23) := by
    have : ulp = (if l < -126 then -126 else l) - 23 := rfl
    split at this <;> omega
  generalize ulp = ulp at *
  generalize l = l at *
  obtain ⟨E, rfl⟩ : ∃ E : Nat, ulp = (E : Int) - 149 := ⟨(ulp + 149).toNat, by omega⟩
  unfold shiftTo
  by_cases hd : 0 ≤ e - ((E : Int) - 149)
  · rw [if_pos hd]
    generalize hc : (e - ((E : Int) - 149)).toNat = c
    refine ⟨E, m * 2 ^ c, 0, c, 0, 1, rfl, by omega, rfl, .inr rfl, by omega, by omega, ?_, ?_, rfl, rfl, by intros; simp [roundsUp]⟩
    · calc m * 2 ^ c < 2 ^ (Nat.log2 m + 1) * 2 ^ c := Nat.mul_lt_mul_of_pos_right hhi (Nat.pow_pos (by decide))
        _ = 2 ^ (Nat.log2 m + 1 + c) := (Nat.pow_add ..).symm
        _ ≤ 2 ^ 24 := Nat.pow_le_pow_right (by decide) (by omega)
    · rcases hu.2.2 with h | h
      · exact .inl (by omega)
      · right
        calc 2 ^ 23 = 2 ^ (Nat.log2 m + c) := by rw [show Nat.log2 m + c = 23 by omega]
          _ = 2 ^ Nat.log2 m * 2 ^ c := Nat.pow_add ..
          _ ≤ m * 2 ^ c := Nat.mul_le_mul_right _ hlo
  · rw [if_neg hd]
    generalize hc : (-(e - ((E : Int) - 149))).toNat = d
    have hp : 0 < 2 ^ d := Nat.pow_pos (by decide)
    refine ⟨E, m / 2 ^ d, m % 2 ^ d, 0, d, 2 ^ d, rfl, by omega, rfl, .inl rfl, ?_, Nat.mod_lt _ hp, ?_, ?_, rfl, rfl, fun _ _ => rfl⟩
    · rw [Nat.pow_zero, Nat.mul_one, Nat.mul_comm]; exact (Nat.div_add_mod ..).symm
    · rw [Nat.div_lt_iff_lt_mul hp, ← Nat.pow_add]
      exact Nat.lt_of_lt_of_le hhi (Nat.pow_le_pow_right (by decide) (by omega))
    · rcases hu.2.2 with h | h
      · exact .inl (by omega)
      · right
        rw [Nat.le_div_iff_mul_le hp, ← Nat.pow_add]
        exact Nat.le_trans (Nat.pow_le_pow_right (by decide) (by omega)) hlo

/-- FP32 rounding, by the quotient, the remainder and the unit. -/
theorem round_at {rm : Nat} {neg : Bool} {m q r unit : Nat} {e : Int} (hm : m ≠ 0)
    (hs : shiftTo m (e - ((if log2of m e < -126 then -126 else log2of m e) - 23)) = (q, r, unit)) :
    fp32.round rm .ieee neg m e =
      let code := ((((if log2of m e < -126 then -126 else log2of m e) - 23 + 23 - -126) * ((2 ^ 23 : Nat) : Int) +
        ((if roundsUp rm neg q r unit = true then q + 1 else q : Nat) : Int)).toNat)
      if 0x7F7FFFFF < code then
        (if (decide (rm = 0) || decide (rm = 2) && !neg || decide (rm = 3) && neg) = true then 0x7F800000 + fp32.sign neg
          else 0x7F7FFFFF + fp32.sign neg, fOF ||| fNX)
      else (code + fp32.sign neg, fif (r != 0) fNX ||| fif (r != 0 && decide (code < 2 ^ 23)) fUF) := by
  have hb : (1 : Int) - fp32.bias = -126 := rfl
  have hf : fp32.frac = 23 := rfl
  have hg : ((23 : Nat) : Int) = 23 := rfl
  have hx : fp32.maxFin = 0x7F7FFFFF := rfl
  have hi : fp32.infCode .ieee neg = 0x7F800000 + fp32.sign neg := rfl
  simp only [Fmt.round, if_neg hm, hb, hf, hg, hx, hi, hs]

/-- The result that a rounded code gives. -/
theorem round_res {rm r k : Nat} {neg : Bool} {res : Nat × Flags} (h : res = if 0x7F7FFFFF < k then
        (if (decide (rm = 0) || decide (rm = 2) && !neg || decide (rm = 3) && neg) = true then 0x7F800000 + fp32.sign neg
          else 0x7F7FFFFF + fp32.sign neg, fOF ||| fNX)
      else (k + fp32.sign neg, fif (r != 0) fNX ||| fif (r != 0 && decide (k < 2 ^ 23)) fUF)) :
    let up := (rm = 2 ∧ neg = false) ∨ (rm = 3 ∧ neg = true)
    let sign := if neg then 2 ^ 31 else 0
    (k < 0x7F800000 → res.1 = k + sign ∧ res.2 = if r = 0 then 0 else if k < 2 ^ 23 then fNX ||| fUF else fNX) ∧
    (0x7F800000 ≤ k → res.1 = (if rm = 0 ∨ up then 0x7F800000 else 0x7F7FFFFF) + sign ∧ res.2 = fOF ||| fNX) := by
  have hsign : fp32.sign neg = if neg then 2 ^ 31 else 0 := rfl
  have haway : ((decide (rm = 0) || decide (rm = 2) && !neg || decide (rm = 3) && neg) = true) ↔
      (rm = 0 ∨ ((rm = 2 ∧ neg = false) ∨ (rm = 3 ∧ neg = true))) := by simp [or_assoc]
  subst h
  simp only [hsign, haway]
  refine ⟨fun h => ?_, fun h => ?_⟩
  · rw [if_neg (by omega)]
    refine ⟨rfl, ?_⟩
    by_cases h0 : r = 0
    · simp [h0, fif]
    · have h1 : (r != 0) = true := by simp [h0]
      simp only [h1, Bool.true_and, if_neg h0]
      by_cases h2 : k < 2 ^ 23
      · simp [fif, show k < 8388608 from h2]
      · simp only [fif, if_true, decide_eq_true_eq, if_neg h2]; rfl
  · rw [if_pos (by omega)]
    refine ⟨?_, rfl⟩
    show (if _ then _ else _) = (if _ then _ else _) + _
    split <;> rfl

/-- The code that FP32 rounding chooses, by the quotient and the remainder of its input at its unit. -/
theorem round_parts {rm : Nat} (neg : Bool) {m : Nat} (hm : 0 < m) (e : Int) :
    ∃ E q r c d : Nat, (e : Int) = E - 149 + c - d ∧ (c = 0 ∨ d = 0) ∧ m * 2 ^ c = q * 2 ^ d + r ∧ r < 2 ^ d ∧ q < 2 ^ 24 ∧
      (E = 0 ∨ 2 ^ 23 ≤ q) ∧
      let k' := E * 2 ^ 23 + q + (if roundsUp rm neg q r (2 ^ d) then 1 else 0)
      let up := (rm = 2 ∧ neg = false) ∨ (rm = 3 ∧ neg = true)
      let sign := if neg then 2 ^ 31 else 0
      (k' < 0x7F800000 → (fp32.round rm .ieee neg m e).1 = k' + sign ∧
        (fp32.round rm .ieee neg m e).2 = if r = 0 then 0 else if k' < 2 ^ 23 then fNX ||| fUF else fNX) ∧
      (0x7F800000 ≤ k' → (fp32.round rm .ieee neg m e).1 = (if rm = 0 ∨ up then 0x7F800000 else 0x7F7FFFFF) + sign ∧
        (fp32.round rm .ieee neg m e).2 = fOF ||| fNX) := by
  obtain ⟨E, q, r, c, d, u, hE, he, rfl, hcd, hqr, hru, hq, hEq, h1, h2, h3⟩ := shiftTo_parts hm e
  refine ⟨E, q, r, c, d, he, hcd, hqr, hru, hq, hEq, round_res ?_⟩
  have hm0 : m ≠ 0 := by omega
  generalize hs : shiftTo m (e - ((if log2of m e < -126 then -126 else log2of m e) - 23)) = st at *
  obtain ⟨q', r', unit⟩ := st
  simp only at h1 h2 h3
  subst h1; subst h2
  rw [round_at hm0 hs, show (if log2of m e < -126 then -126 else log2of m e) - 23 + 23 - -126 = (E : Int) by omega]
  have hcode : ((E : Int) * ((2 ^ 23 : Nat) : Int) + ((if roundsUp rm neg q' r' (2 ^ d) = true then q' + 1 else q' : Nat) : Int)).toNat =
      E * 2 ^ 23 + q' + (if roundsUp rm neg q' r' (2 ^ d) = true then 1 else 0) := by
    rw [← Int.natCast_mul, ← Int.natCast_add, Int.toNat_natCast]
    split
    · exact (Nat.add_assoc _ _ _).symm
    · exact (Nat.add_zero _).symm
  simp only [h3, hcode]

/-- Every finite value is rounded once, exactly (04 R84, R86, R95). -/
theorem round_roundsTo {rm : Nat} (hrm : rm < 4) (neg : Bool) {m : Nat} (hm : 0 < m) (e : Int) :
    RoundsTo rm neg (dyadicCmp m e) (fp32.round rm .ieee neg m e) := by
  obtain ⟨E, q, r, c, d, he, -, hqr, hru, hq, hEq, hres⟩ := round_parts (rm := rm) neg hm e
  exact roundsTo_of_parts hrm hru hq hEq rfl (fun j => by rw [dyadicCmp_at he, hqr]) hres

/-- Rounding a value that is known by its floor at a unit of 2^(e + 1) and whether it lies above it (a sticky bit): where `cmp` is the
value's order at the multiples of that unit, the rounded floor with the sticky bit is the value rounded. -/
theorem sticky_roundsTo {rm : Nat} (hrm : rm < 4) (neg : Bool) {q0 st : Nat} (hst : st < 2) (hq0 : 2 ^ 26 ≤ q0) (e : Int)
    {cmp : Nat → Ordering} {A : Nat} {F : Nat → Nat} (hF : ∀ a b, a < b → F a < F b) (hc : ∀ j, cmp j = compare A (F j))
    (H : ∀ w E d : Nat, 2 ≤ d → (e : Int) = E - 149 - d → cmp (w * 2 ^ (E + 1)) = compare (2 * q0 + st) (2 * (w * 2 ^ (d - 2)))) :
    RoundsTo rm neg cmp (fp32.round rm .ieee neg (2 * q0 + st) e) := by
  obtain ⟨E, q, r, c, d, he, hcd, hqr, hru, hq, hEq, hres⟩ := round_parts (rm := rm) neg (show 0 < 2 * q0 + st by omega) e
  have hd : 3 ≤ d ∧ c = 0 := by
    have hc0 : 2 * q0 + st ≤ (2 * q0 + st) * 2 ^ c := Nat.le_mul_of_pos_right _ (Nat.pow_pos (by decide))
    have h3 : 3 ≤ d := by
      refine Decidable.byContradiction (fun h => ?_)
      have h2 : (2 : Nat) ^ d ≤ 2 ^ 2 := Nat.pow_le_pow_right (by decide) (by omega)
      have h4 : q * 2 ^ d ≤ q * 2 ^ 2 := Nat.mul_le_mul_left q h2
      omega
    omega
  obtain ⟨hd, rfl⟩ := hd
  obtain ⟨f, rfl⟩ : ∃ f, d = f + 2 := ⟨d - 2, by omega⟩
  rw [Nat.pow_zero, Nat.mul_one] at hqr
  have hp : (2 : Nat) ^ (f + 2) = 4 * 2 ^ f := by rw [Nat.pow_add, Nat.mul_comm]
  have H' := fun w => H w E (f + 2) (by omega) (by omega)
  simp only [Nat.add_sub_cancel] at H'
  refine roundsTo_of_cmp hrm hru hq hEq rfl hF hc ?_ ?_ ?_ hres
  all_goals rw [H', hqr, hp]; clear hres H H' hqr; rw [hp] at hru; clear hp; generalize (2 : Nat) ^ f = X at *
  · rw [show 2 * ((2 * q + 1) * X) = q * (4 * X) + 2 * X by grind, compare_add]
    rw [show 4 * X = 2 * X * 2 by omega, show 2 * r = r * 2 by omega, compare_mul (by decide)]
  · rw [show 2 * (2 * q * X) = q * (4 * X) + 0 by grind, compare_add]
  · rw [show 2 * ((2 * q + 2) * X) = q * (4 * X) + 4 * X by grind, compare_add]
    exact Nat.compare_eq_lt.2 hru

/-- FRCP rounds the exact reciprocal once (04 R95). -/
theorem frcp_roundsTo {rm : Nat} (hrm : rm < 4) (n : Bool) {m : Nat} (hm : 0 < m) (e : Int) :
    RoundsTo rm n (recipCmp m e) (frcp32 rm (.fin n m e)) := by
  have hm0 : m ≠ 0 := by omega
  show RoundsTo rm n (recipCmp m e) (if m = 0 then _ else _)
  rw [if_neg hm0]
  have hk : m < 2 ^ (Nat.log2 m + 1) := Nat.lt_log2_self
  generalize hl : Nat.log2 m = l at *
  have hq : 2 ^ 26 ≤ 2 ^ (l + 40) / m := by
    rw [Nat.le_div_iff_mul_le hm]
    calc 2 ^ 26 * m ≤ 2 ^ 26 * 2 ^ (l + 1) := Nat.mul_le_mul_left _ (Nat.le_of_lt hk)
      _ = 2 ^ (26 + (l + 1)) := (Nat.pow_add ..).symm
      _ ≤ 2 ^ (l + 40) := Nat.pow_le_pow_right (by decide) (by omega)
  refine sticky_roundsTo hrm n (by split <;> decide) hq _ (A := 2 ^ (151 - e).toNat) (F := fun j => j * m * 2 ^ (e - 151).toNat)
    (fun a b h => Nat.mul_lt_mul_of_pos_right (Nat.mul_lt_mul_of_pos_right h hm) (Nat.pow_pos (by decide))) (fun j => rfl) ?_
  intro w E d hd he
  have h1 : recipCmp m e (w * 2 ^ (E + 1)) = compare (2 ^ (l + 40)) (w * 2 ^ (d - 2) * m) := by
    unfold recipCmp
    rw [← compare_mul (Nat.pow_pos (n := d - 2) (show 0 < 2 by decide)),
      ← compare_mul (a := 2 ^ (l + 40)) (Nat.pow_pos (n := E + 1 + (e - 151).toNat) (show 0 < 2 by decide)), ← Nat.pow_add,
      ← Nat.pow_add, show (151 - e).toNat + (d - 2) = l + 40 + (E + 1 + (e - 151).toNat) by omega, Nat.pow_add 2 (E + 1)]
    congr 1
    ring
  rw [h1]
  generalize w * 2 ^ (d - 2) = t
  have hdm := Nat.div_add_mod (2 ^ (l + 40)) m
  have hlt := Nat.mod_lt (2 ^ (l + 40)) hm
  generalize 2 ^ (l + 40) / m = q at *
  generalize 2 ^ (l + 40) % m = s at *
  rw [← hdm, Nat.mul_comm t m]
  rcases Nat.lt_trichotomy t q with h | rfl | h
  · have h2 : m * (t + 1) ≤ m * q := Nat.mul_le_mul_left m h
    rw [Nat.mul_add] at h2
    rw [Nat.compare_eq_gt.2 (show m * t < m * q + s by omega), Nat.compare_eq_gt.2 (by omega)]
  · rcases Nat.eq_zero_or_pos s with rfl | h0
    · rw [Nat.add_zero, if_pos rfl, Nat.add_zero, Nat.compare_eq_eq.2 rfl, Nat.compare_eq_eq.2 rfl]
    · rw [if_neg (by omega), Nat.compare_eq_gt.2 (by omega), Nat.compare_eq_gt.2 (by omega)]
  · have h2 : m * (q + 1) ≤ m * t := Nat.mul_le_mul_left m h
    rw [Nat.mul_add] at h2
    have h3 : (if s = 0 then 0 else 1) < 2 := by split <;> decide
    rw [Nat.compare_eq_lt.2 (show m * q + s < m * t by omega), Nat.compare_eq_lt.2 (by omega)]

/-- The integer square root, by its bits. -/
theorem isqrtFrom_spec : ∀ (b n acc : Nat), acc * acc ≤ n → n < (acc + 2 ^ b) * (acc + 2 ^ b) →
    isqrtFrom b n acc * isqrtFrom b n acc ≤ n ∧ n < (isqrtFrom b n acc + 1) * (isqrtFrom b n acc + 1)
  | 0, n, acc, h1, h2 => ⟨h1, h2⟩
  | b + 1, n, acc, h1, h2 => by
    have hu : isqrtFrom (b + 1) n acc =
      if (acc + 2 ^ b) * (acc + 2 ^ b) ≤ n then isqrtFrom b n (acc + 2 ^ b) else isqrtFrom b n acc := rfl
    rw [hu]
    by_cases h : (acc + 2 ^ b) * (acc + 2 ^ b) ≤ n
    · simp only [if_pos h]
      refine isqrtFrom_spec b n _ h ?_
      rwa [show acc + 2 ^ b + 2 ^ b = acc + 2 ^ (b + 1) by rw [Nat.pow_succ]; omega]
    · simp only [if_neg h]
      exact isqrtFrom_spec b n acc h1 (by omega)

/-- The order of 1 / √(m × 2^e) at a place does not change when the factor 2 moves between m and 2^e. -/
theorem rsqrtCmp_double (m : Nat) (e : Int) (j : Nat) : rsqrtCmp (2 * m) (e - 1) j = rsqrtCmp m e j := by
  unfold rsqrtCmp
  rcases Int.lt_or_le e 303 with h | h
  · by_cases h2 : e ≤ 302
    · rw [show (302 - (e - 1)).toNat = (302 - e).toNat + 1 by omega, show (e - 1 - 302).toNat = 0 by omega,
        show (e - 302).toNat = 0 by omega, Nat.pow_succ, Nat.pow_zero, Nat.mul_one, Nat.mul_one,
        show j * j * (2 * m) = j * j * m * 2 by ring]
      exact compare_mul (by decide)
    · omega
  · rw [show (302 - (e - 1)).toNat = 0 by omega, show (302 - e).toNat = 0 by omega,
      show (e - 302).toNat = (e - 1 - 302).toNat + 1 by omega, Nat.pow_succ]
    congr 1
    ring

/-- FRSQ's rounding, for an even exponent. -/
theorem frsq_even {rm : Nat} (hrm : rm < 4) {m : Nat} (hm : 0 < m) (hb : m < 2 ^ 25) (h : Int) :
    RoundsTo rm false (rsqrtCmp m (2 * h))
      (fp32.round rm .ieee false (2 * isqrtFrom 46 (2 ^ 90 / m) 0 + (if isqrtFrom 46 (2 ^ 90 / m) 0 * isqrtFrom 46 (2 ^ 90 / m) 0 * m = 2 ^ 90 then 0 else 1))
        (-(45 : Int) - h - 1)) := by
  have hsp := isqrtFrom_spec 46 (2 ^ 90 / m) 0 (Nat.zero_le _)
    (Nat.lt_of_le_of_lt (Nat.div_le_self _ _) (by rw [Nat.zero_add, ← Nat.pow_add]; exact Nat.pow_lt_pow_right (by decide) (by decide)))
  generalize isqrtFrom 46 (2 ^ 90 / m) 0 = s at *
  obtain ⟨hs1, hs2⟩ := hsp
  rw [Nat.le_div_iff_mul_le hm] at hs1
  rw [Nat.div_lt_iff_lt_mul hm] at hs2
  have hq : 2 ^ 26 ≤ s := by
    refine Decidable.byContradiction (fun hn => ?_)
    have h1 : (s + 1) * (s + 1) * m ≤ 2 ^ 26 * 2 ^ 26 * 2 ^ 25 :=
      Nat.mul_le_mul (Nat.mul_le_mul (by omega) (by omega)) (by omega)
    have h2 : (2 : Nat) ^ 26 * 2 ^ 26 * 2 ^ 25 < 2 ^ 90 := by decide
    omega
  have hF : ∀ a b : Nat, a < b → a * a * m * 2 ^ (2 * h - 302).toNat < b * b * m * 2 ^ (2 * h - 302).toNat := fun a b hab =>
    Nat.mul_lt_mul_of_pos_right (Nat.mul_lt_mul_of_pos_right (Nat.mul_lt_mul'' hab hab) hm) (Nat.pow_pos (by decide))
  refine sticky_roundsTo hrm false (by split <;> decide) hq _ (A := 2 ^ (302 - 2 * h).toNat) hF (fun j => rfl) ?_
  intro w E d hd he
  have h1 : rsqrtCmp m (2 * h) (w * 2 ^ (E + 1)) = compare (2 ^ 90) (w * 2 ^ (d - 2) * (w * 2 ^ (d - 2)) * m) := by
    unfold rsqrtCmp
    rw [← compare_mul (Nat.pow_pos (n := (d - 2) + (d - 2)) (show 0 < 2 by decide)),
      ← compare_mul (a := 2 ^ 90) (Nat.pow_pos (n := (E + 1) + (E + 1) + (2 * h - 302).toNat) (show 0 < 2 by decide)), ← Nat.pow_add,
      ← Nat.pow_add, show (302 - 2 * h).toNat + (d - 2 + (d - 2)) = 90 + (E + 1 + (E + 1) + (2 * h - 302).toNat) by omega,
      Nat.pow_add 2 (E + 1 + (E + 1)), Nat.pow_add 2 (E + 1), Nat.pow_add 2 (d - 2)]
    congr 1
    ring
  rw [h1]
  generalize w * 2 ^ (d - 2) = t
  clear hF h1 hd he hq
  rcases Nat.lt_trichotomy t s with hlt | rfl | hgt
  · have h2 : t * t * m < s * s * m := Nat.mul_lt_mul_of_pos_right (Nat.mul_lt_mul'' hlt hlt) hm
    rw [Nat.compare_eq_gt.2 (by omega), Nat.compare_eq_gt.2 (by omega)]
  · by_cases h0 : t * t * m = 2 ^ 90
    · rw [if_pos h0, h0, Nat.add_zero, Nat.compare_eq_eq.2 rfl, Nat.compare_eq_eq.2 rfl]
    · rw [if_neg h0, Nat.compare_eq_gt.2 (by omega), Nat.compare_eq_gt.2 (by omega)]
  · have h2 : (s + 1) * (s + 1) * m ≤ t * t * m := Nat.mul_le_mul_right m (Nat.mul_le_mul hgt hgt)
    have h3 : (if s * s * m = 2 ^ 90 then 0 else 1) < 2 := by split <;> decide
    rw [Nat.compare_eq_lt.2 (by omega), Nat.compare_eq_lt.2 (by omega)]

/-- FRSQ rounds the exact reciprocal square root once (04 R95). -/
theorem frsq_roundsTo {rm : Nat} (hrm : rm < 4) {m : Nat} (hm : 0 < m) (hb : m < 2 ^ 24) (e : Int) :
    RoundsTo rm false (rsqrtCmp m e) (frsq32 rm (.fin false m e)) := by
  have hm0 : m ≠ 0 := by omega
  unfold frsq32
  simp only [if_neg hm0, Bool.false_eq_true, if_false]
  by_cases h : e % 2 = 0
  · simp only [if_pos h]
    have h2 : 2 * (e / 2) = e := by omega
    have := frsq_even hrm hm (by omega) (e / 2)
    rwa [h2] at this
  · simp only [if_neg h]
    have h2 : 2 * ((e - 1) / 2) = e - 1 := by omega
    have h3 := frsq_even hrm (show 0 < 2 * m by omega) (by omega) ((e - 1) / 2)
    rw [h2, show rsqrtCmp (2 * m) (e - 1) = rsqrtCmp m e from funext (rsqrtCmp_double m e)] at h3
    exact h3

end Sys2Proof.Machine
end

