-- ==== Sys2Proof/Tests/Slice0.lean ====
section
/-! SUPPORT. Small tests: words decode to what the spec's fields say, ill-formed terms are refused, single steps give the
results the spec states, and for every statement with hypotheses a state and operands that meet them. -/

namespace Sys2Proof.Tests

open Sys2Proof Sys2Proof.Machine

/-! ## Words -/

/-- A format V word's fields: no B, always-true guard, no T bits. -/
def fv (dst sa sb sc fn : Nat) : FmtV :=
  ⟨false, 7, false, false, false, BitVec.ofNat 9 dst, BitVec.ofNat 9 sa, BitVec.ofNat 9 sb, BitVec.ofNat 9 sc, BitVec.ofNat 11 fn⟩
/-- A format I word's fields. -/
def fi (dst sa fn imm : Nat) : FmtI := ⟨false, 7, false, BitVec.ofNat 9 dst, BitVec.ofNat 9 sa, BitVec.ofNat 11 fn, BitVec.ofNat 20 imm⟩
/-- A format M word's fields. -/
def fm (dv av fn off : Nat) : FmtM := ⟨false, 7, false, BitVec.ofNat 9 dv, BitVec.ofNat 9 av, BitVec.ofNat 11 fn, BitVec.ofNat 20 off⟩
/-- A format L word's fields. -/
def fl (dst imm : Nat) : FmtL := ⟨false, 7, BitVec.ofNat 9 dst, 0, BitVec.ofNat 32 imm⟩
/-- A format B word's fields. -/
def fb (fn off : Nat) : FmtB := ⟨false, 7, 0, BitVec.ofNat 8 fn, BitVec.ofNat 32 off⟩
/-- A format S word's fields. -/
def fs (reg num : Nat) : FmtS := ⟨false, 7, BitVec.ofNat 9 reg, BitVec.ofNat 16 num, 0⟩

/-- 14 R303, 15 R317 to R323: words composed from the spec's fields. -/
theorem test_decode_arithmetic :
    decode 0x005C000000000000 = some (.nop (fv 0 0 0 0 0)) ∧
    decode 0x009C008080600002 = some (.mov (fv 2 4 6 0 2)) ∧
    decode 0x00DC06003F800000 = some (.movl (fl 3 1065353216)) ∧
    decode 0x011C008080600000 = some (.iadd (fv 2 4 6 0 0)) ∧
    decode 0x015C020200000005 = some (.iaddi (fi 2 4 0 5)) ∧
    decode 0x019C008080600000 = some (.isub (fv 2 4 6 0 0)) ∧
    decode 0x01DC008080600000 = some (.imul (fv 2 4 6 0 0)) ∧
    decode 0x021C008080600000 = some (.imulh (fv 2 4 6 0 0)) ∧
    decode 0x025C008080600000 = some (.imad (fv 2 4 6 0 0)) ∧
    decode 0x029C008080600000 = some (.imin (fv 2 4 6 0 0)) ∧
    decode 0x02DC008080600000 = some (.imax (fv 2 4 6 0 0)) ∧
    decode 0x031C008080000000 = some (.iabs (fv 2 4 0 0 0)) ∧
    decode 0x035C008080600000 = some (.and (fv 2 4 6 0 0)) ∧
    decode 0x039C020200000005 = some (.andi (fi 2 4 0 5)) ∧
    decode 0x03DC008080600000 = some (.andn (fv 2 4 6 0 0)) ∧
    decode 0x041C008080600000 = some (.or (fv 2 4 6 0 0)) ∧
    decode 0x045C020200000005 = some (.ori (fi 2 4 0 5)) ∧
    decode 0x049C008080600000 = some (.xor (fv 2 4 6 0 0)) ∧
    decode 0x04DC020200000005 = some (.xori (fi 2 4 0 5)) := by decide

/-- 14 R303, 15 R317 to R323: words composed from the spec's fields. -/
theorem test_decode_shifts_fields_predicates :
    decode 0x051C008080600000 = some (.shl (fv 2 4 6 0 0)) ∧
    decode 0x055C020200000005 = some (.shli (fi 2 4 0 5)) ∧
    decode 0x059C008080600000 = some (.shr (fv 2 4 6 0 0)) ∧
    decode 0x05DC020200000005 = some (.shri (fi 2 4 0 5)) ∧
    decode 0x061C008080600000 = some (.sar (fv 2 4 6 0 0)) ∧
    decode 0x065C020200000005 = some (.sari (fi 2 4 0 5)) ∧
    decode 0x069C008080600000 = some (.bfx (fv 2 4 6 0 0)) ∧
    decode 0x06DC008080600000 = some (.bfi (fv 2 4 6 0 0)) ∧
    decode 0x071C008080000000 = some (.popc (fv 2 4 0 0 0)) ∧
    decode 0x075C008080000000 = some (.clz (fv 2 4 0 0 0)) ∧
    decode 0x079C008080600020 = some (.permb (fv 2 4 6 0 32)) ∧
    decode 0x07DC008080600040 = some (.lea (fv 2 4 6 0 64)) ∧
    decode 0x081C008080600000 = some (.isetp (fv 2 4 6 0 0)) ∧
    decode 0x085C020200000005 = some (.isetpi (fi 2 4 0 5)) ∧
    decode 0x089C008080600000 = some (.sel (fv 2 4 6 0 0)) ∧
    decode 0x08DC008080000000 = some (.cvti (fv 2 4 0 0 0)) ∧
    decode 0x091C008080000100 = some (.cvtf (fv 2 4 0 0 256)) ∧
    decode 0x095C008080600080 = some (.pack (fv 2 4 6 0 128)) ∧
    decode 0x099C008080000080 = some (.unpack (fv 2 4 0 0 128)) ∧
    decode 0x09DC008080600003 = some (.msk (fv 2 4 6 0 3)) := by decide

/-- 14 R303, 15 R317 to R323: words composed from the spec's fields. -/
theorem test_decode_floating_point :
    decode 0x0C1C008080600100 = some (.fadd (fv 2 4 6 0 256)) ∧
    decode 0x0C5C008080600100 = some (.fmul (fv 2 4 6 0 256)) ∧
    decode 0x0C9C008080600100 = some (.ffma (fv 2 4 6 0 256)) ∧
    decode 0x0CDC008080600100 = some (.fmin (fv 2 4 6 0 256)) ∧
    decode 0x0D1C008080600100 = some (.fmax (fv 2 4 6 0 256)) ∧
    decode 0x0D5C008080600100 = some (.fsetp (fv 2 4 6 0 256)) ∧
    decode 0x0D9C008080000100 = some (.frcp (fv 2 4 0 0 256)) ∧
    decode 0x0DDC008080000100 = some (.frsq (fv 2 4 0 0 256)) ∧
    decode 0x0E1C008080000100 = some (.fexp2 (fv 2 4 0 0 256)) ∧
    decode 0x0E5C008080000100 = some (.flog2 (fv 2 4 0 0 256)) ∧
    decode 0x0E9C008080600120 = some (.fdot2 (fv 2 4 6 0 288)) ∧
    decode 0x0EDC008080600160 = some (.fdot4 (fv 2 4 6 0 352)) ∧
    decode 0x0F1C008080600120 = some (.hfma2 (fv 2 4 6 0 288)) := by decide

/-- 14 R303, 15 R317 to R323: words composed from the spec's fields. -/
theorem test_decode_integer_dot_and_cross_lane :
    decode 0x101C0080806000C0 = some (.idp4 (fv 2 4 6 0 192)) ∧
    decode 0x105C0080806001C0 = some (.idp8 (fv 2 4 6 0 448)) ∧
    decode 0x109C0080806000C0 = some (.isqd4 (fv 2 4 6 0 192)) ∧
    decode 0x10DC008080600020 = some (.hamd (fv 2 4 6 0 32)) ∧
    decode 0x111C008080600200 = some (.pqacc (fv 2 4 6 0 512)) ∧
    decode 0x115C008080600000 = some (.gsort (fv 2 4 6 0 0)) ∧
    decode 0x119C008080600000 = some (.gmergek (fv 2 4 6 0 0)) ∧
    decode 0x11DC008080600000 = some (.shfl (fv 2 4 6 0 0)) ∧
    decode 0x121C008080000000 = some (.gred (fv 2 4 0 0 0)) ∧
    decode 0x125C008080000000 = some (.gscan (fv 2 4 0 0 0)) ∧
    decode 0x129C008080000000 = some (.vote (fv 2 4 0 0 0)) ∧
    decode 0x12DC008080000000 = some (.matchL (fv 2 4 0 0 0)) ∧
    decode 0x131C008080600000 = some (.compact (fv 2 4 6 0 0)) ∧
    decode 0x135C008080600000 = some (.rgput (fv 2 4 6 0 0)) ∧
    decode 0x139C008080000000 = some (.rgtake (fv 2 4 0 0 0)) ∧
    decode 0x13DC008080600000 = some (.genrd (fv 2 4 6 0 0)) := by decide

/-- 14 R303, 15 R317 to R323: words composed from the spec's fields. -/
theorem test_decode_memory :
    decode 0x141C020224000010 = some (.ld (fm 2 4 576 16)) ∧
    decode 0x145C020224000010 = some (.st (fm 2 4 576 16)) ∧
    decode 0x149C020220000010 = some (.lds (fm 2 4 512 16)) ∧
    decode 0x14DC020220000010 = some (.sts (fm 2 4 512 16)) ∧
    decode 0x151C020204000020 = some (.atom (fm 2 4 64 32)) ∧
    decode 0x155C020200000020 = some (.atoms (fm 2 4 0 32)) ∧
    decode 0x159C000000000010 = some (.fence (fv 0 0 0 0 16)) ∧
    decode 0x15DC000204000010 = some (.pref (fm 0 4 64 16)) ∧
    decode 0x161C000080000000 = some (.cstore (fv 0 4 0 0 0)) ∧
    decode 0x165C008080600000 = some (.icinv (fv 2 4 6 0 0)) := by decide

/-- 14 R303, 15 R317 to R323: words composed from the spec's fields. -/
theorem test_decode_sync_and_masks :
    decode 0x181C000080000020 = some (.arrive (fv 0 4 0 0 32)) ∧
    decode 0x185C000080000010 = some (.waitb (fv 0 4 0 0 16)) ∧
    decode 0x189C008080000000 = some (.sbres (fv 2 4 0 0 0)) ∧
    decode 0x18DC000080000000 = some (.sbfill (fv 0 4 0 0 0)) ∧
    decode 0x191C008080000000 = some (.sbtake (fv 2 4 0 0 0)) ∧
    decode 0x195C000080000000 = some (.sbfree (fv 0 4 0 0 0)) ∧
    decode 0x199C000080000000 = some (.join (fv 0 4 0 0 0)) ∧
    decode 0x19DC000080000000 = some (.leave (fv 0 4 0 0 0)) ∧
    decode 0x1A1C000080000000 = some (.waitm (fv 0 4 0 0 0)) ∧
    decode 0x1A5C000000000000 = some (.yield (fv 0 0 0 0 0)) := by decide

/-- 14 R303, 15 R317 to R323: words composed from the spec's fields. -/
theorem test_decode_control :
    decode 0x1C1C000000000002 = some (.bra (fb 0 2)) ∧
    decode 0x1C5C000080000000 = some (.brx (fv 0 4 0 0 0)) ∧
    decode 0x1C9C000400000002 = some (.call (fb 4 2)) ∧
    decode 0x1CDC000080000000 = some (.ret (fv 0 4 0 0 0)) ∧
    decode 0x1D1C000000000000 = some (.exit (fv 0 0 0 0 0)) ∧
    decode 0x1D5C000000000000 = some (.trap (fv 0 0 0 0 0)) ∧
    decode 0x1D9C000000000000 = some (.bkpt (fv 0 0 0 0 0)) ∧
    decode 0x1DDC000000000000 = some (.trapret (fv 0 0 0 0 0)) := by decide

/-- 14 R303, 15 R317 to R323: words composed from the spec's fields. -/
theorem test_decode_engines_and_matrix :
    decode 0x201C000080000000 = some (.bcopy (fv 0 4 0 0 0)) ∧
    decode 0x205C000080000000 = some (.bgather (fv 0 4 0 0 0)) ∧
    decode 0x209C000080000000 = some (.tierin (fv 0 4 0 0 0)) ∧
    decode 0x20DC000080000000 = some (.tierout (fv 0 4 0 0 0)) ∧
    decode 0x241C000080000000 = some (.gangset (fv 0 4 0 0 0)) ∧
    decode 0x245C008080600000 = some (.gmma (fv 2 4 6 0 0)) ∧
    decode 0x249C008080600000 = some (.accrd (fv 2 4 6 0 0)) ∧
    decode 0x24DC008080600000 = some (.accwr (fv 2 4 6 0 0)) ∧
    decode 0x251C000080000000 = some (.accst (fv 0 4 0 0 0)) ∧
    decode 0x255C008000000000 = some (.genset (fv 2 0 0 0 0)) := by decide

/-- 14 R303, 15 R317 to R323: words composed from the spec's fields. -/
theorem test_decode_configurations :
    decode 0x281C008080600000 = some (.cfgwr (fv 2 4 6 0 0)) ∧
    decode 0x285C008080600000 = some (.cfgseal (fv 2 4 6 0 0)) ∧
    decode 0x289C008080600000 = some (.cfgrun (fv 2 4 6 0 0)) ∧
    decode 0x289C008080600001 = some (.cfgrunResume (fv 2 4 6 0 1)) ∧
    decode 0x28DC008080600000 = some (.cfgstat (fv 2 4 6 0 0)) ∧
    decode 0x291C008000000000 = some (.cfgdrain (fv 2 0 0 0 0)) ∧
    decode 0x295C008000000000 = some (.cfgkill (fv 2 0 0 0 0)) ∧
    decode 0x299C008000000000 = some (.cfgevict (fv 2 0 0 0 0)) := by decide

/-- 14 R303, 15 R317 to R323: words composed from the spec's fields. -/
theorem test_decode_combining_and_system :
    decode 0x2C1C000080000000 = some (.obind (fv 0 4 0 0 0)) ∧
    decode 0x2C1C000080000001 = some (.obindU (fv 0 4 0 0 1)) ∧
    decode 0x2C5C008080600000 = some (.ocall (fv 2 4 6 0 0)) ∧
    decode 0x2C9C008080000000 = some (.old (fv 2 4 0 0 0)) ∧
    decode 0x2CDC000080000000 = some (.ost (fv 0 4 0 0 0)) ∧
    decode 0x2D1C000080000000 = some (.oabort (fv 0 4 0 0 0)) ∧
    decode 0x2D5C000080000000 = some (.ocommit (fv 0 4 0 0 0)) ∧
    decode 0x301C008080000000 = some (.launch (fv 2 4 0 0 0)) ∧
    decode 0x305C0A0004000000 = some (.sysrd (fs 5 2)) ∧
    decode 0x309C0A0004000000 = some (.syswr (fs 5 2)) ∧
    decode 0x30DC008000000000 = some (.wid (fv 2 0 0 0 0)) ∧
    decode 0x311C000000000000 = some (.rgive (fv 0 0 0 0 0)) ∧
    decode 0x315C000000000000 = some (.rclaim (fv 0 0 0 0 0)) := by decide
/-! ## Ill-formed terms -/

/-- 14 R313: a term for each check, which the check refuses: a reserved guard, a register pair that is not aligned, a scalar
beyond s63, a T bit over no register, a predicate beyond p7, a mask beyond m11, SK or BC where the word has none, a reserved
type, a rounding mode or a sub-operation where there is none, reserved fields of formats L, B and S, a memory layout's
reserved size and order, and a dual word whose halves write one register. -/
theorem test_illformed_refused :
    [Instr.iadd { fv 2 4 6 0 0 with g := 15 }, .iadd (fv 3 4 6 0 0x40), .iadd (fv 64 4 6 0 0x420), .iadd { fv 2 4 6 0 0 with tc := true },
      .isetp (fv 8 4 6 7 0), .msk (fv 12 7 0 0 0), .gsort (fv 2 4 6 0 0x500), .gred (fv 2 4 0 0 0x200), .iadd (fv 2 4 6 0 0x120),
      .iadd (fv 2 4 6 0 0x08), .iadd (fv 2 4 6 0 0x04), .iadd (fv 2 4 6 1 0), .movl { fl 3 1 with rsv := 1 }, .bra { fb 0 2 with rsv := 1 },
      .sysrd { fs 5 2 with rsv := 1 }, .ld (fm 2 4 0x740 0), .ld (fm 2 4 0x270 0), .fadd (fv 2 4 6 0 0),
      .dualWord ⟨false, ⟨1, 2, 3, 7, false, false, false, false⟩, ⟨1, 2, 4, 7, false, false, false, false⟩⟩,
      .dualWord ⟨false, ⟨1, 2, 3, 7, false, false, true, false⟩, ⟨1, 3, 4, 7, false, false, false, false⟩⟩].all (fun i => !i.legal) = true := by
  decide

/-- The same terms mended are well-formed. -/
theorem test_wellformed_accepted :
    [Instr.iadd (fv 2 4 6 0 0), .iadd (fv 2 4 6 0 0x40), .iadd (fv 60 4 6 0 0x420), .iadd { fv 2 4 6 0 0 with ta := true },
      .isetp (fv 7 4 6 7 0), .msk (fv 11 7 0 0 0), .gsort (fv 2 4 6 0 0), .gred (fv 2 4 0 0 0), .fadd (fv 2 4 6 0 0x100), .movl (fl 3 1),
      .bra (fb 0 2), .sysrd (fs 5 2), .ld (fm 2 4 0x240 0),
      .dualWord ⟨false, ⟨1, 2, 3, 7, false, false, false, false⟩, ⟨1, 3, 4, 7, false, false, false, false⟩⟩].all Instr.legal = true := by
  decide

/-! ## States -/

/-- A resident group on core 0 with a word in hand, in a context mapped one to one for its core, its die and its stack. -/
def wit (g : Group) : State :=
  { placeWord State.reset 64 0 with
    blocks := [{ placeBlock with groups := [g] }], agenda := [], cur := some ⟨.group ⟨0, 0, 0⟩, 0x1000, g.live, false, 0⟩
    tlb := [⟨.core 0, 1, 0, 30, 0, placeLeaf, 3⟩, ⟨.die 0, 1, 0, 30, 0, placeLeaf, 3⟩, ⟨.stack 0, 1, 0, 30, 0, placeLeaf, 3⟩] }

/-- The group of `wit`, with scalar registers. -/
def wg (sr : List (Nat × Word)) : Group := { placeGroup with sr := sr }

/-- A wave of two requests with a word in hand, its 64-byte window staged. -/
def witWave (v : List (Nat × Word)) : State :=
  let g : Group := { Group.blank with alloc := 64, present := 3, live := 3, v := v, tab := [⟨0x1000, 3, .ready, 0, false, true⟩] }
  let req : Request := ⟨0x8000, 0x8000, ⟨0, 0⟩, 1, 7, 1, 0, [0, 0, 0, 0, 0], some ⟨1, 0, 0, 8, 1, none, false⟩, 0⟩
  let w : Wave := { unit := ⟨0, 0⟩, wslot := 0, hdrPa := 0x8000, hdrVa := 0x8000, ctx := 1, n := 2, meth := 1, reqs := [req, req], lines := [0x240]
                    windowVa := 0x9000, staged := [], size := 64, words := 0, det := none, grp := g }
  { wit placeGroup with potluck.waves := [w], cur := some ⟨.wave ⟨0, 0⟩ 0, 0x1000, 3, false, 0⟩ }

/-- A Ranger with a word in hand. -/
def witRanger (sr : List (Nat × Word)) : State :=
  let r : Ranger := { Ranger.blank with running := true, grp := { Ranger.blank.grp with live := 1, sr := sr, tab := [⟨0x1000, 1, .ready, 0, false, true⟩] } }
  { wit placeGroup with rangers := r :: List.replicate 8 Ranger.blank, cur := some ⟨.ranger 0, 0x1000, 1, false, 0⟩ }

/-- Whether every one of some words performs in a state. -/
def performs (s : State) (l : List Instr) : Bool := l.all (fun i => (s.issues i).isSome)

/-- A word that performs in a state, with a condition on its issue. -/
def issued (s : State) (i : Instr) (k : Issue → Bool) : Bool :=
  match s.issues i with
  | some x => k x
  | none => false

/-! ## Witnesses: states and operands that meet the hypotheses of the statements -/

/-- The witness group and its state, without register contents. -/
abbrev w0 : State := wit placeGroup

/-- A state with a group whose vector registers, scalar registers and predicates are given. -/
def wvs (v sr : List (Nat × Word)) : State := wit { placeGroup with v := v, sr := sr }

/-- A state with four little-endian 32-bit words, and more, stored in memory. -/
def pokes (s : State) (l : List (Nat × Nat × Nat)) : State := l.foldl (fun s a => s.homeWrite true a.1 a.2.1 a.2.2) s

/-- A translation answered, with the physical address asked for. -/
def okAt (pa : Nat) (r : State × Except TransFault Trans) : Bool :=
  match r.2 with
  | .ok t => t.pa = pa
  | .error _ => false

theorem witness_IntegerWords : performs w0 [.iadd (fv 2 4 6 0 0), .isub (fv 2 4 6 0 1), .imul (fv 2 4 6 0 0x40), .imulh (fv 2 4 6 0 0x60),
    .imad (fv 2 4 6 8 0x20), .imin (fv 60 4 6 0 0x400), .imax (fv 2 4 6 0 0x200), .iabs (fv 510 4 0 0 0), .iaddi (fi 2 4 0 0xFFFFF)] = true ∧
    placeGroup.sparseOk = true := by decide

theorem witness_IntegerWords_types : (0 : Nat) < 4 ∧ (3 : Nat) < 4 := by decide

theorem witness_LogicWords : performs w0 [.and (fv 2 4 6 0 0), .andn (fv 2 4 6 0 0), .or (fv 2 4 6 0 0x400), .xor (fv 2 4 6 0 0x40),
    .andi (fi 2 4 0 5), .ori (fi 2 4 0 5), .xori (fi 2 4 0 0xFFFFF), .shl (fv 2 4 6 0 0), .shr (fv 2 4 6 0 0x40), .sar (fv 2 4 6 0 0x60),
    .shli (fi 2 4 0 31), .shri (fi 2 4 0x40 63), .sari (fi 2 4 0x60 64)] = true ∧ placeGroup.sparseOk = true := by decide

theorem witness_FieldAndMoveWords : performs w0 [.bfx (fv 2 4 6 0 0), .bfi (fv 2 4 6 8 0), .popc (fv 2 4 0 0 0), .clz (fv 2 4 0 0 0),
    .permb (fv 2 4 6 8 0x20), .lea (fv 2 4 6 0 0x40), .sel (fv 2 4 6 3 0), .nop (fv 0 0 0 0 0), .movl (fl 3 1), .mov (fv 2 4 0 0 0), .mov (fv 2 4 0 0 1),
    .mov (fv 2 4 6 0 2), .cvti (fv 2 4 0 1 0), .cvtf (fv 2 4 0 0 0x100), .pack (fv 2 4 6 0 0x80), .unpack (fv 2 4 0 0 0x80)] = true ∧
    placeGroup.sparseOk = true := by decide

theorem witness_PredicateWords : performs w0 [.isetp (fv 0 4 6 7 0), .isetpi (fi 7 4 2 5), .fsetp (fv 6 4 6 3 0x101), .vote (fv 5 7 0 0 0),
    .vote (fv 5 7 0 0 1), .vote (fv 5 7 0 0 2), .vote (fv 7 7 0 0 3), .vote (fv 0 0 0 0 4)] = true ∧ placeGroup.sparseOk = true := by decide

theorem witness_FloatWords : performs w0 [.fadd (fv 2 4 6 0 0x100), .fmul (fv 2 4 6 0 0x108), .ffma (fv 2 4 6 8 0x100), .fmin (fv 2 4 6 0 0x100),
    .fmax (fv 2 4 6 0 0x500), .fdot2 (fv 2 4 6 8 0x120), .fdot4 (fv 2 4 6 8 0x160), .hfma2 (fv 2 4 6 8 0x120), .idp4 (fv 2 4 6 8 0xC0),
    .idp8 (fv 2 4 6 8 0x1C0), .isqd4 (fv 2 4 6 8 0xC0), .hamd (fv 2 4 6 8 0x20)] = true ∧ placeGroup.sparseOk = true := by decide

theorem witness_PendingResults : performs w0 [.frcp (fv 2 4 0 0 0x100), .frsq (fv 2 4 0 0 0x100), .fexp2 (fv 2 4 0 0 0x100), .flog2 (fv 2 4 0 0 0x500)] = true ∧
    (let q : Producer := { (default : Producer) with id := 9, kind := .load, vregs := [5], vwrites := [(160, 7)], vmask := [(5, 1)], fills := true }
     let s := wit { placeGroup with pend := [q], vEmpty := [5] }
     ∃ g, s.grp? (.group ⟨0, 0, 0⟩) = some g ∧ g.pend.find? (fun q => q.id = 9) = some q ∧ q.kind ≠ .ocall ∧ q.kind ≠ .drain ∧ q.kind ≠ .icinv ∧
       g.sparseOk = true) := ⟨by decide, _, rfl, by decide⟩

set_option maxRecDepth 20000 in
theorem witness_CrossLaneWords : performs w0 [.shfl (fv 9 8 4 0 0), .shfl (fv 9 8 4 0 0x203), .gred (fv 2 4 0 0 0), .gscan (fv 2 4 0 0 4),
      .matchL (fv 2 4 0 0 0), .compact (fv 2 4 7 6 0), .gsort (fv 2 4 6 0 0), .gmergek (fv 2 4 6 5 0), .rgput (fv 2 4 7 0 0), .rgtake (fv 2 4 0 0 0)] = true ∧
    placeGroup.sparseOk = true ∧ placeGroup.wids.length = 32 ∧ (w0.blockOfParty (.group ⟨0, 0, 0⟩)).isSome = true ∧
    w0.sched.records.length + 32 ≤ 256 ∧
    (let s := { w0 with sched.records := List.replicate 250 (0, ⟨[0], 0, 0, 1⟩) }
     performs s [.rgput (fv 2 4 7 0 0), .rgtake (fv 2 4 0 0 0)] = true ∧ 256 < s.sched.records.length + 32) := by decide

theorem witness_MaskWords : performs w0 [.msk (fv 0 7 0 0 0), .msk (fv 11 7 0 0 1), .msk (fv 3 5 0 0 2), .msk (fv 3 4 6 0 3), .msk (fv 3 4 6 0 4),
      .msk (fv 3 4 6 0 5), .msk (fv 3 4 6 0 6), .msk (fv 2 4 0 0 7), .leave (fv 0 4 0 0 0), .join (fv 0 4 0 0 0), .waitm (fv 0 4 0 0 0),
      .yield (fv 0 0 0 0 0)] = true ∧
    performs (wit { placeGroup with masks := List.replicate 12 3 }) [.join (fv 0 4 0 0 0), .waitm (fv 0 4 0 0 0)] = true ∧
    placeGroup.sr.wf = true := by decide

/-- Lanes parked at a JOIN of m0 beside an unparked entry at its PC and one that waits to be whole. -/
def parkedTab : List Entry :=
  [⟨0x1000, 1, .ready, 0, false, true⟩, ⟨0x1000, 2, .join, 0, false, true⟩, ⟨0x1010, 4, .uwait, 0, true, true⟩]

/-- A group of them, with every mask register as given. -/
def parkedGroup (m : LaneMask) : Group := { placeGroup with live := 7, tab := parkedTab, masks := List.replicate 12 m }

/-- The parked entry. -/
def parkedEntry : Entry := ⟨0x1000, 2, .join, 0, false, true⟩

theorem witness_MaskWords_table :
    (parkedEntry ∈ parkedTab ∧ parkedEntry.parked = true ∧ parkedEntry.pm.toNat < 12 ∧ hasLane parkedEntry.mask 1 = true ∧
      ¬ Released (parkedGroup 3) parkedEntry 1 ∧ Released (parkedGroup 2) parkedEntry 1 ∧ Released (parkedGroup 0) parkedEntry 1 ∧
      (∃ q ∈ parkedTab, q.parked = false ∧ hasLane q.mask 0 = true) ∧ ∃ q ∈ (parkedGroup 3).reeval.tab, q.st = .uwait) ∧
    parkedTab = [] ++ (⟨0x1000, 1, .ready, 0, false, true⟩ : Entry) :: parkedTab.drop 1 ∧
    parkedTab = parkedTab.take 1 ++ (⟨0x1000, 2, .join, 0, false, true⟩ : Entry) :: parkedTab.drop 2 ∧
    (∀ y ∈ parkedTab, y.pc = 0x2000 → y.parked = true) ∧ ∀ y ∈ parkedTab, y.pc = 0x2000 → y.parked = false :=
  ⟨⟨by decide, by decide, by decide, by decide, by decide, by decide, by decide, by decide, by decide⟩, by decide, by decide, by decide, by decide⟩

theorem witness_ControlWords_table :
    (hasLane 1 0 = true ∧ (∃ e ∈ parkedTab, ¬ (e.pc = 0x1000 ∧ e.st = .ready) ∧ hasLane e.mask 1 = true) ∧
      ∃ q ∈ ((parkedGroup 3).advance 0x1000 1 false [(1, 0x1008)]).tab, q.st = .uwait) ∧
    (∃ x, w0.issues (.iadd (fv 2 4 6 0 0)) = some x) := ⟨by decide, _, rfl⟩

theorem witness_ControlWords : performs w0 [.bra (fb 0 2), .call (fb 3 0xFFFFFFFF), .brx (fv 0 4 0 0 0), .ret (fv 0 4 0 0 0), .exit (fv 0 0 0 0 0)] = true ∧
    placeGroup.marks = [] ∧ performs (wvs [] [(4, 0x2001)]) [.brx (fv 0 4 0 0 1), .ret (fv 0 4 0 0 1)] = true ∧
    ((placeGroup.sset 4 0x2001).spair 4).toNat % 8 ≠ 0 ∧ performs (witRanger []) [.exit (fv 0 0 0 0 0)] = true ∧
    0 < (witRanger []).rangers.length ∧ performs (witWave []) [.exit (fv 0 0 0 0 0)] = true := by decide

/-- The witness group stopped by a trap with code 0x17. -/
def trapped : Group :=
  { placeGroup with stopped := true, trap := some { (default : TrapRec) with cause := 0x17, lanes := placeGroup.live, pc := 0x1000 } }

/-- A Ranger that has selected the witness group, and the group in that state. -/
def selecting (g : Group) : State :=
  let r : Ranger := { Ranger.blank with wsel := 0x8000, running := true, grp := { Ranger.blank.grp with live := 1, tab := [⟨0x1000, 1, .ready, 0, false, true⟩] } }
  { wit g with rangers := r :: List.replicate 8 Ranger.blank, cur := some ⟨.ranger 0, 0x1000, 1, false, 0⟩ }

/-- A group with two entries that share a lane. -/
def doubled : Group := { trapped with tab := [⟨0x1000, 3, .ready, 0, false, true⟩, ⟨0x2000, 1, .join, 0, false, true⟩] }

theorem witness_TrapWords_return :
    (selecting trapped).selected 0 = some (⟨0, 0, 0⟩, trapped) ∧ trapped.stopped = true ∧ (∀ t, trapped.trap = some t → t.fatal = false) ∧
    trapped.tab.Pairwise (fun a b => a.valid = true → b.valid = true → a.mask &&& b.mask &&& trapped.live = 0) ∧
    trapped.resume.live = trapped.live ∧ performs (selecting trapped) [.trapret (fv 0 0 0 0 0)] = true ∧
    (selecting placeGroup).selected 0 = some (⟨0, 0, 0⟩, placeGroup) ∧ placeGroup.stopped = false ∧ (witRanger []).selected 0 = none ∧
    (let g := { trapped with trap := some { (default : TrapRec) with fatal := true } }
     (selecting g).selected 0 = some (⟨0, 0, 0⟩, g)) ∧
    (selecting doubled).selected 0 = some (⟨0, 0, 0⟩, doubled) ∧ twice doubled.live doubled.tab = true ∧
    (∃ e ∈ trapped.tab, e.valid = true ∧ hasLane e.mask 0 = true) :=
  ⟨by decide, by decide, (by intro t h; cases h; rfl), by decide, by decide, by decide, by decide, by decide, by decide, by decide, by decide,
    by decide, by decide⟩

theorem witness_TrapWords : performs w0 [.trap (fv 0 0 0 0 5), .bkpt (fv 0 0 0 0 0)] = true ∧ performs (witRanger []) [.trapret (fv 0 0 0 0 0)] = true ∧
    (∃ (r : TrapRec) (e : Entry), trapped.trap = some r ∧ r.cause = 0x17 ∧ trapped.tab = [e] ∧ e.valid = true ∧ e.pc = r.pc ∧ e.st = .ready ∧
      e.mask = r.lanes ∧ r.lanes = trapped.live ∧ trapped.live ≠ 0) := ⟨by decide, by decide, _, ⟨0x1000, placeGroup.live, .ready, 0, false, true⟩, rfl, by decide⟩

theorem witness_PoolWords : performs w0 [.rgive (fv 0 0 0 0 1), .wid (fv 2 0 0 0 0), .wid (fv 2 0 0 0 6), .wid (fv 2 0 0 0 8)] = true ∧
    8 * 1 + 8 ≤ placeGroup.alloc ∧ (List.range 8).all (fun i => !placeGroup.vPending (504 + i)) = true ∧ placeGroup.sparseOk = true ∧
    (let s := { wit { placeGroup with alloc := 504 } with blocks := [{ placeBlock with free := 8, groups := [{ placeGroup with alloc := 504 }] }] }
     performs s [.rclaim (fv 0 0 0 0 1)] = true ∧
     (s.blockOf ⟨0, 0, 0⟩).map (fun b => (decide (504 + 8 ≤ 8 * (s.hdrOfBlock b).rmaxq), b.claims, b.free)) = some (true, [], 8)) ∧
    (let g := { placeGroup with alloc := 504, waits := [⟨0x1000, placeGroup.live, placeGroup.live, 1, .rclaim 8, 0⟩] }
     let b := { placeBlock with free := 8, claims := [⟨0, 8⟩], groups := [g] }
     let s := { w0 with blocks := [b] }
     (s.hdrOfBlock b).ext.length = 6 ∧ s.blockUid 1 = some b ∧ b.claims.head? = some ⟨0, 8⟩ ∧ b.groups.find? (fun g => g.index = 0 && !g.stopped && !g.saving) = some g ∧
       (g.waits.find? (fun w => w.kind = .rclaim 8)).isSome = true ∧ 8 ≤ b.free ∧ g.stepping = false) := by decide

theorem witness_StoreThenLoad : Memory.wf w0.mem = true ∧ 0x200C % 16 + 4 ≤ 16 ∧ 4 ≤ 4 ∧ 0x2000 % 2 ^ 4 = 0 ∧ 0xFFFFFFFF < 2 ^ (8 * 2 ^ 2) ∧
    region 0x2000 = .hbm 0 ∧ w0.poisoned 0x2000 = false := by decide

/-! ### Memory and synchronisation -/

/-- Every lane's pair (v4, v5) holds 0x2000 plus `step` times the lane. -/
def vAddr (step : Nat) : List (Nat × Word) := (List.range 32).map (fun l => (128 + l, BitVec.ofNat 32 (0x2000 + step * l)))

/-- Whether a list of accesses resolves whole. -/
def resolvesTo (n : Nat) (r : State × List Acc × List LaneFault) : Bool := decide (r.2.1.length = n) && r.2.2.isEmpty

/-- The hypotheses of the statement about LD. -/
def ldMeets (f : FmtM) (s : State) : Bool :=
  issued s (.ld f) (fun x =>
    let n := szBytes (fnSz f.fn)
    let sc := scopeOf (fnScope f.fn)
    let rmt := decide (fnOrd f.fn = 1) && fnRmt f.fn
    let r := resolveAll x needRd (laneAddrs f.fn f.av.toNat (f.off.signExtend 64) n false x s) s
    let accs := accessCh f.fn r.2.1
    let q := readAll x n accs (if fnOrd f.fn = 1 then acquireAt x rmt sc r.1 else r.1)
    !(rmt && rmtBad sc) && resolvesTo x.lanes.length r && decide (fnOrd f.fn = 1 → peerScope sc accs = none) &&
      accs.all (fun a => !r.1.mustWait x.party a.t n true) && q.2.2.isEmpty &&
      decide (q.1.bkptOf x.party 1 n (accs.map (fun a => (a.lane, a.va))) = none))

theorem witness_LoadWords : ldMeets (fm 2 4 0x240 0) (wvs (vAddr 4) []) = true ∧ ldMeets (fm 2 4 0x35A 0) (wvs (vAddr 8) []) = true ∧
    issued (wvs [] [(4, 0x100)]) (.lds (fm 2 4 0x200 4)) (fun x =>
      let s := wvs [] [(4, 0x100)]
      match s.blockOfParty x.party with
      | some b =>
        let r := splitLanes ((scratchAddrs (BitVec.ofNat 11 0x200) 4 4 4 x).map (scratchLane s b 4))
        decide (r.1.length = 32) && r.2.isEmpty && r.1.all (fun a => !s.scratchOwned a.2.1.uid a.2.2.1 && !a.2.1.scPoisoned a.2.2.1 4) &&
          decide (s.bkptOf x.party 1 4 [] = none)
      | none => false) = true := by decide

/-- The hypotheses of the statement about ST. -/
def stMeets (f : FmtM) (s : State) : Bool :=
  issued s (.st f) (fun x =>
    let n := szBytes (fnSz f.fn)
    let sc := scopeOf (fnScope f.fn)
    let rel := decide (fnOrd f.fn = 2)
    let r := resolveAll x needWr (laneAddrs f.fn f.av.toNat (f.off.signExtend 64) n true x s) s
    let accs := accessCh f.fn r.2.1
    let t := accs.foldl (fun u a => u.storeBytes x.party a.t n
      (dataOf x.g f.dv.toNat (szRegs (fnSz f.fn)) a.lane % 2 ^ (8 * n)) (relWide x rel sc)) (relBefore x rel sc r.1)
    resolvesTo x.lanes.length r && decide (rel = true → peerScope sc accs = none) &&
      accs.all (fun a => !r.1.mustWait x.party a.t n false) && decide (t.bkptOf x.party 2 n (accs.map (fun a => (a.lane, a.va))) = none) &&
      Memory.wf s.mem && accs.all (fun a => decide (a.t.pa % n = 0 ∧ region a.t.pa = .hbm 0)))

/-- The hypotheses of the statement about CSTORE. -/
def cstoreMeets (f : FmtV) (s : State) : Bool :=
  issued s (.cstore f) (fun x =>
    let va := x.g.spair f.sa.toNat
    match s.resolve x.party va needRw with
    | (s1, .ok t) =>
      match (s1.dropOwn x.party t.pa).loadBytes x.party { t with leaf := t.leaf ||| 0x400#64 } 8 with
      | (s2, some h) =>
        let r := resolvePages x.party needWr (pagesOf (va.toNat + 8) (4 * (h / 2 ^ 32 % 2 ^ 24))) s2
        let ws := recordWords x f.sb.toNat va (h % 2 ^ 24)
        let q := resolveAll x needWr (ws.map (fun w => (w.1, .ok w.2.1))) r.1
        let u := (relBefore x false .group q.1).storeBytes x.party t 8 (h + 1 + x.lanes.length) true
        let w := (q.2.1.zip ws).foldl (fun u aw => u.storeBytes x.party aw.1.t 4 aw.2.2.2 (relWide x false .group)) u
        decide (va.toNat % 8 = 0) && !s1.waveWindow x.party t.pa && !s1.mustWait x.party t 8 false && decide (region t.pa = .hbm 0) && r.2.isNone &&
          decide (h % 2 ^ 24 + 1 + x.lanes.length ≤ h / 2 ^ 32 % 2 ^ 24) && q.2.2.isEmpty &&
          q.2.1.all (fun a => !q.1.mustWait x.party a.t 4 false) &&
          decide (w.bkptOf x.party 2 4 ((lowLane x.active, va) :: (lowLane x.active, va + 4) :: ws.map (fun w => (w.1, w.2.1))) = none)
      | _ => false
    | _ => false)

set_option maxRecDepth 20000 in
theorem witness_StoreWords : stMeets (fm 2 4 0x240 0) (wvs (vAddr 4) []) = true ∧ stMeets (fm 2 4 0x26A 0) (wvs (vAddr 4) []) = true ∧
    issued (wvs (vAddr 4) [(4, 0x100)]) (.sts (fm 2 4 0x200 0)) (fun x =>
      let s := wvs (vAddr 4) [(4, 0x100)]
      match s.blockOfParty x.party with
      | some b =>
        let r := splitLanes ((scratchAddrs (BitVec.ofNat 11 0x200) 4 0 4 x).map (scratchLane s b 4))
        decide (r.1.length = 32) && r.2.isEmpty && x.g.fenceRel.isEmpty && r.1.all (fun a => !s.scratchOwned a.2.1.uid a.2.2.1) &&
          Sparse.wf b.scratch
      | none => false) = true ∧
    cstoreMeets (fv 0 4 6 0 0) (pokes (wvs [] [(4, 0x2000)]) [(0x2004, 4, 33)]) = true := by decide

/-- The hypotheses of the statement about ATOM. -/
def atomMeets (f : FmtM) (s : State) : Bool :=
  issued s (.atom f) (fun x =>
    let n := atomBytes (atomOp f)
    let sc := scopeOf (fnScope f.fn)
    let r := resolveAll x needRw (laneAddrs f.fn f.av.toNat (atomOff f) n true x s) s
    let s2 := relBefore x (ordRel (fnOrd f.fn)) sc r.1
    let q := atomAll f x r.2.1 (if ordAcq (fnOrd f.fn) && fnRmt f.fn then s2.promote (partyCore x.party) sc else s2)
    let s4 := if ordAcq (fnOrd f.fn) then q.1.acquire (partyCore x.party) sc else q.1
    !(s.detOf x.party && atomFp (atomOp f)) && !(fnRmt f.fn && rmtBad sc) && resolvesTo x.lanes.length r &&
      decide (fnOrd f.fn ≠ 0 → peerScope sc r.2.1 = none) && r.2.1.all (fun a => !r.1.mustWait x.party a.t n false) && q.2.2.isEmpty &&
      decide (s4.bkptOf x.party 3 n (r.2.1.map (fun a => (a.lane, a.va))) = none))

/-- A deterministic launch's witness state, its pages memory-side, with pages of staging log. -/
def wdet (v sr : List (Nat × Word)) (staged pages : Nat) : State :=
  let s := wit { placeGroup with v := v, sr := sr, nStaged := staged }
  let leaf : DWord := placeLeaf ||| 0x40#64
  { s with
    launches := s.launches.map (fun l => { l with hdr := { l.hdr with det := true } })
    tlb := [⟨.core 0, 1, 0, 30, 0, leaf, 3⟩, ⟨.die 0, 1, 0, 30, 0, leaf, 3⟩]
    ctxs := put s.ctxs 1 { Ctx.blank with valid := true, detLogPages := pages } }

/-- The hypotheses of the statement about a staged ATOM, with room for its lanes or not. -/
def stageMeets (f : FmtM) (room : Bool) (s : State) : Bool :=
  issued s (.atom f) (fun x =>
    let r := resolveAll x needRw (laneAddrs f.fn f.av.toNat (atomOff f) (atomBytes (atomOp f)) true x s) s
    let ops := r.2.1.map (fun a => (a.lane, StagedOp.atomic a.t.pa a.va (atomOp f) false (BitVec.ofNat 64 (dataOf x.g f.dv.toNat 1 a.lane))))
    s.detOf x.party && atomFp (atomOp f) && !fnSk f.fn && !(fnRmt f.fn && rmtBad (scopeOf (fnScope f.fn))) && resolvesTo x.lanes.length r &&
      (s.blockOfParty x.party).isSome && decide (s.blockOfParty x.party = r.1.blockOfParty x.party) &&
      decide (fnOrd f.fn ≠ 0 → peerScope (scopeOf (fnScope f.fn)) r.2.1 = none) && r.2.1.all (fun a => leafMs a.t.leaf) &&
      decide (decide (r.2.1.length ≤ r.1.stageRoom x.g x.ctx) = room) &&
      decide ((stageOps x ops r.1).2.bkptOf x.party 3 4 (r.2.1.map (fun a => (a.lane, a.va))) = none))

set_option maxRecDepth 20000 in
theorem witness_AtomicWords_staged : (∀ op ∈ [0x14, 0x15, 0x19], stageMeets (fm 2 4 0x40 (op * 2 ^ 15)) true (wdet (vAddr 4) [] 0 0) = true) ∧
    stageMeets (fm 2 4 0x40 (0x14 * 2 ^ 15)) false (wdet (vAddr 4) [] 250 0) = true := by decide

/-- The hypotheses of the statement about ATOMS. -/
def atomsMeets (f : FmtM) (s : State) : Bool :=
  issued s (.atoms f) (fun x =>
    let n := atomBytes (atomOp f)
    let sc := scopeOf (fnScope f.fn)
    match s.blockOfParty x.party with
    | some b =>
      let r := splitLanes ((scratchAddrs f.fn f.av.toNat (atomOff f) n x).map (scratchLane s b n))
      let s2 := relBefore x (ordRel (fnOrd f.fn)) sc s
      let q := r.1.foldl (scratchAtom f x n) (if ordAcq (fnOrd f.fn) && fnRmt f.fn then s2.promote (partyCore x.party) sc else s2, [], [])
      let s4 := if ordAcq (fnOrd f.fn) then q.1.acquire (partyCore x.party) sc else q.1
      decide (r.1.length = 32) && r.2.isEmpty && !(s.detOf x.party && atomFp (atomOp f)) && !(fnRmt f.fn && rmtBad sc) &&
        r.1.all (fun a => !s.scratchOwned a.2.1.uid a.2.2.1 && !a.2.1.scPoisoned a.2.2.1 n) && q.2.2.isEmpty &&
        decide (s4.bkptOf x.party 3 n (r.1.map (fun a => (a.1, a.2.2.2))) = none)
    | none => false)

set_option maxRecDepth 20000 in
theorem witness_AtomicWords : atomMeets (fm 2 4 0x040 0) (wvs (vAddr 4) []) = true ∧ atomMeets (fm 2 4 0x47A 0) (wvs (vAddr 4) []) = true ∧
    Memory.wf w0.mem = true ∧ 0 < 0x1A ∧ 0x19 < 0x1A ∧ 0x2000 % atomBytes 0 = 0 ∧ region 0x2000 = .hbm 0 ∧ w0.poisoned 0x2000 = false ∧
    5 < 2 ^ 128 ∧ atomsMeets (fm 2 4 0 0) (wvs (vAddr 4) [(4, 0x100)]) = true ∧
    atomsMeets (fm 2 4 0x43A 0) (wvs ((List.range 32).map (fun l => (128 + l, BitVec.ofNat 32 (8 * l)))) []) = true := by decide

theorem witness_FenceWords : performs w0 [.fence (fv 0 0 0 0 0x1A), .fence (fv 0 0 0 0 0x2A), .fence (fv 0 0 0 0 0x3A), .icinv (fv 2 4 6 0 0)] = true ∧
    issued (wvs (vAddr 4) []) (.pref (fm 0 4 0x40 0)) (fun x => decide (readiness x.g (specPref (fm 0 4 0x40 0)).ops ≠ .wait)) = true ∧
    issued (wit { placeGroup with vEmpty := [4] }) (.pref { fm 0 4 0x40 0 with ta := true }) (fun x =>
      decide (readiness x.g (specPref { fm 0 4 0x40 0 with ta := true }).ops ≠ .wait)) = true ∧
    (placeGroup.spair 4).toNat < 2 ^ 57 ∧ performs (wvs [] [(6, 0x100)]) [.icinv (fv 2 4 6 0 0)] = true ∧
    (let o : IcinvOp := ⟨5, .group ⟨0, 0, 0⟩, 1, 2, 1, 0, 0x100⟩
     let q : Producer := { (default : Producer) with id := 5, kind := .icinv, sregs := [2], swrites := [(2, 0)], fills := true }
     let g := { placeGroup with pend := [q], sEmpty := [2] }
     let s := { wit g with icinvs := [o, { o with id := 6 }] }
     s.icinvs.find? (fun o => o.id = 5) = some o ∧ (∀ y ∈ s.icinvs, y.party = o.party → y.blk = o.blk → o.id ≤ y.id) ∧
       (s.blockOf ⟨0, 0, 0⟩).map (fun b => b.uid) = some o.blk ∧ s.grp? o.party = some g ∧
       g.pend.find? (fun q => q.id = 5 && q.kind = .icinv) = some q ∧ q.fills = true) := by decide

/-- The hypotheses of the statement about ARRIVE. -/
def arriveMeets (f : FmtV) (s : State) : Bool :=
  issued s (.arrive f) (fun x =>
    let va := x.g.spair f.sa.toNat
    let n := if f.fn.getLsbD 6 then f.fn.toNat / 128 % 16 else (x.g.sget f.sb.toNat).toNat
    let sc := scopeOf (fnScope f.fn)
    match s.resolve x.party va needRw with
    | (s1, .ok t) => decide (va.toNat % 16 = 0) && !s1.waveWindow x.party t.pa && !((Acc.mk 0 va t).peer && sc != .system) &&
        !s1.mustWait x.party t 16 false &&
        (match ((relBefore x true sc s1).dropOwn x.party t.pa).arrive (partyDie x.party) x.ctx t n with
          | .done _ => true
          | _ => false)
    | _ => false)

/-- The hypotheses of the statement about WAITB, with a phase that differs from the one named or not. -/
def waitbMeets (f : FmtV) (differs : Bool) (s : State) : Bool :=
  issued s (.waitb f) (fun x =>
    let va := x.g.spair f.sa.toNat
    let sc := scopeOf (fnScope f.fn)
    match s.resolve x.party va needRd with
    | (s1, .ok t) => decide (va.toNat % 16 = 0) && !((fnRmt f.fn && rmtBad sc) || ((Acc.mk 0 va t).peer && sc != .system)) &&
        !s1.mustWait x.party t 16 false &&
        (match s1.phaseAt x.party t with
          | (_, some v) => decide (decide (v ≠ (x.g.sget f.sb.toNat).toNat) = differs)
          | _ => false)
    | _ => false)

/-- A group that waits at a barrier for a phase other than 1. -/
def atBarrier (ph : Word) : Group := { placeGroup with waits := [⟨0x1000, placeGroup.live, placeGroup.live, 1, .waitb 0x2000 ph .block false, 0⟩] }

theorem witness_BarrierWords :
    (let s := pokes w0 [(0x2000, 4, 2), (0x2004, 4, 1)]
     Memory.wf s.mem = true ∧ s.poisoned 0x2000 = false ∧ s.homeRead 0x2000 4 = 2 ∧ s.homeRead 0x200C 4 = 0 ∧ s.homeRead 0x2004 4 + 1 ≤ 2) ∧
    arriveMeets (fv 0 4 0 0 0xE2) (pokes (wvs [] [(4, 0x2000)]) [(0x2000, 4, 1)]) = true ∧
    arriveMeets (fv 0 4 6 0 0x22) (pokes (wvs [] [(4, 0x2000)]) [(0x2000, 4, 1)]) = true ∧
    waitbMeets (fv 0 4 6 0 0x12) false (wvs [] [(4, 0x2000)]) = true ∧ waitbMeets (fv 0 4 6 0 0x12) true (wvs [] [(4, 0x2000), (6, 1)]) = true ∧
    (let g := atBarrier 1
     let s := wit g
     let p : Party := .group ⟨0, 0, 0⟩
     s.grp? p = some g ∧ g.stopped = false ∧ g.saving = false ∧ (g.waits.find? (fun w => w.pc = 0x1000 && (match w.kind with
       | .waitb _ _ _ _ => true
       | _ => false))).map (fun w => w.kind) = some (.waitb 0x2000 1 .block false) ∧
       (match s.resolve p 0x2000 needRd with
         | (s0, .ok t) => !s0.mustWait p t 16 false && ((s0.phaseAt p t).2.any (fun v => v != 1))
         | _ => false) = true) := by decide

/-- A ring of two slots at 0x100, 64 bytes each. -/
def ring (a b : SlotSt) : SlotBuf := ⟨0x04001001, [a, b], 0, false, 0, false⟩
/-- The witness state with a ring as slot buffer 0. -/
def withRing (g : Group) (a b : SlotSt) : State :=
  { wit g with blocks := [{ placeBlock with groups := [g], sbufs := ring a b :: List.replicate 15 SlotBuf.blank }] }

/-- A group that waits with a word on slot buffer 0. -/
def onRing (k : WaitKind) : Group := { placeGroup with waits := [⟨0x1000, placeGroup.live, placeGroup.live, 0, k, 0⟩], sEmpty := [2] }

/-- Whether a wait is of SBTAKE (or of SBRES) on a buffer, with its destination. -/
def slotWait (n : Nat) (take : Bool) (k : WaitKind) : Option Nat :=
  match k with
  | .sbres m d => if m = n ∧ take = false then some d else none
  | .sbtake m d => if m = n ∧ take = true then some d else none
  | _ => none

set_option maxRecDepth 20000 in
theorem witness_SlotWords :
    (let s := withRing placeGroup .free .free
     performs s [.sbres (fv 2 0 0 0 0)] = true ∧ (placeBlock.groups.all (fun g => g.waits.isEmpty)) = true ∧ s.engineAsks 1 0 = [] ∧
       (s.blockUid 1).map (fun b => (b.sbuf 0).slots[(b.sbuf 0).pix]?) = some (some SlotSt.free)) ∧
    performs (withRing placeGroup .filled .free) [.sbtake (fv 2 0 0 0 0), .sbres (fv 2 0 0 0 0)] = true ∧
    performs (withRing placeGroup .reserved .free) [.sbfill (fv 0 0 2 0 0), .sbtake (fv 2 0 0 0 0)] = true ∧
    performs (withRing placeGroup .taken .free) [.sbfree (fv 0 0 2 0 0)] = true ∧
    (let g := onRing (.sbtake 0 2)
     let h := { placeGroup with index := 1, part := 1 }
     let s := withRing h .filled .free
     let s := { s with fresh := 1, cur := some ⟨.group ⟨0, 1, 0⟩, 0x1000, h.live, false, 0⟩
                       blocks := s.blocks.map (fun b => { b with groups := [g, h] }) }
     performs s [.sbtake (fv 3 0 0 0 0)] = true ∧ g.stopped = false ∧ g.saving = false ∧
       ∃ w ∈ g.waits, slotWait 0 true w.kind = some 2 ∧ w.stamp < s.fresh) ∧
    (∀ take ∈ [true, false],
     let s := withRing (onRing (if take then .sbtake 0 2 else .sbres 0 2)) (if take then .filled else .free) .free
     (s.blockUid 1).map (fun b => decide ((oldestWait b (slotWait 0 take)).isSome = true ∧
       ((if take then (b.sbuf 0).take else (b.sbuf 0).reserve .reserved)).isSome = true ∧ s.engineAsks b.uid 0 = [])) = some true) ∧
    (let s := withRing placeGroup .free .free
     let v : Word := 0x0C001001
     (s.blockUid 1).map (fun b => decide (0 < b.sbufs.length ∧ 15 < b.sbufs.length ∧ (∀ t ∈ (b.sbuf 0).slots, t = SlotSt.free) ∧ s.engineNames b.uid 0 = false ∧
       v.toNat / 2 ^ 26 % 64 ≠ 0 ∧ 64 * (v.toNat / 4096 % 16384) ≠ 0 ∧
       256 * (v.toNat % 4096) + (v.toNat / 2 ^ 26 % 64 + 1) * (64 * (v.toNat / 4096 % 16384)) ≤ (s.hdrOfBlock b).scratch)) = some true) ∧
    (0x3FFFFFF : Word).toNat / 2 ^ 26 % 64 = 0 ∧ slotWait 0 true (.sbtake 0 2) = some 2 ∧ (onRing (.sbtake 0 2)).waits.length = 1 := by decide

/-! ### Matrix words, engines, objects -/

/-- Whether a GMMA's parameters parse, with sound operands. -/
def gmmaMeets (f : FmtV) (s : State) : Bool :=
  issued s (.gmma f) (fun x => match s.blockOfParty x.party, gmmaParse f x s with
    | some _, .ok o => decide (s.sidePoison o.a o.fa o.k = none ∧ s.sidePoison o.b o.fb o.k = none)
    | _, _ => false)

/-- Scalar registers for a GMMA of K = 32 on rows of 64 bytes: A at 0, B at 0x2000. -/
def gmmaRegs : List (Nat × Word) := [(5, 64), (6, 0x2000), (7, 64), (8, 31)]

theorem witness_MatrixWords : performs w0 [.genset (fv 2 0 0 0 0), .genrd (fv 2 4 6 8 0)] = true ∧
    genValid (genOfWords ((List.range 8).map (fun i => placeGroup.sget i))) = true ∧ genValid (nth 0 placeGroup.gens 4) = true ∧
    gmmaMeets (fv 0 4 6 8 0) (wvs [] gmmaRegs) = true ∧ gmmaMeets (fv 0 4 6 8 0x400) (wvs [] gmmaRegs) = true ∧ gmmaMeets (fv 0 4 6 8 0x200) (wvs [] gmmaRegs) = true ∧ placeGroup.gang = [] ∧
    (let g := { placeGroup with gmmas := [⟨1, [], 0⟩] }
     (wit g).grp? (.group ⟨0, 0, 0⟩) = some g ∧ 1 < g.acct ∧ g.live ≠ 0) ∧
    issued w0 (.gangset (fv 0 4 6 0 0)) (fun x => match w0.blockOfParty x.party with
      | some b => w0.gangListOk b (gangName b x.g) 0 []
      | none => false) = true ∧
    (let s := wvs [] [(6, 1)]
     issued s (.gangset (fv 0 4 6 0 0)) (fun x => match s.blockOfParty x.party with
      | some b => s.gangListOk b (gangName b x.g) 1 [0]
      | none => false) = true) := by decide

/-- Two groups of one block in a gang, each latched or not, the second with its own control word. -/
def gangState (la lb : Option Latched) (ctl : Word) (copies : List CopyEngine) : State :=
  let a := { placeGroup with sr := gmmaRegs, gang := [0, 1], latch := la }
  let b := { a with index := 1, part := 1, slot := 0, latch := lb, sr := [(5, 64), (6, 0x2000), (7, 64), (8, ctl)] }
  { wit a with blocks := [{ placeBlock with groups := [a, b] }], copies := copies }

/-- A latched GMMA. -/
def latched : Latched := ⟨0x1000, placeGroup.live, 1, fv 0 4 6 8 0, 0, 0⟩

/-- The two members. -/
def members : List Handle := [⟨0, 0, 0⟩, ⟨0, 1, 0⟩]

/-- An engine that owns the first line of A. -/
def ownsLine : CopyEngine := { (default : CopyEngine) with id := 7, blk := 1, owned := [(2, 0)] }

/-- Whether every member of the gang waits with the same list and count. -/
def allReady (s : State) : Bool := s.blocks.all (fun b => [0, 1].all (fun e => match s.member b e with
  | some (_, q) => q.latch == some latched && q.gang == [0, 1] && !q.stopped && !q.saving
  | none => false))

/-- The items of the members, none for one that must wait. -/
def items (s : State) : List (Option (List Nat)) := members.map (fun k => match memberParse s k with
  | .ok o => some (agreeItems o)
  | .error (.trap _) => some []
  | .error _ => none)

set_option maxRecDepth 20000 in
theorem witness_GangLatch :
    gmmaMeets (fv 0 4 6 8 0) (gangState none none 31 []) = true ∧
    (∀ y ∈ (gangState none none 31 []).blocks, ∀ q ∈ y.groups, q.latch = none ∧ gangOf y q = true) ∧
    (let s := gangState (some latched) (some latched) 31 []
     (s.grp? (.group ⟨0, 0, 0⟩)).map (fun g => (g.latch, g.gang, g.stepping)) = some (some latched, [0, 1], false) ∧ allReady s = true ∧
     (items s).all (fun o => o.isSome && o == (items s).headD none) = true ∧
     (match memberParse s ⟨0, 0, 0⟩ with
       | .ok o => decide (s.sidePoison o.a o.fa o.k = none ∧ s.sidePoison o.b o.fb o.k = none)
       | _ => false) = true) ∧
    (let s := gangState (some latched) (some latched) 63 []
     allReady s = true ∧ (items s).all Option.isSome = true ∧ (items s).eraseDups.length = 2) ∧
    (let s := gangState (some latched) (some latched) 31 [ownsLine]
     allReady s = true ∧ (items s).all Option.isSome = false) ∧
    (let s := gangState (some latched) none 31 []
     (s.grp? (.group ⟨0, 0, 0⟩)).map (fun g => g.latch) = some (some latched) ∧ allReady s = false) := by decide

theorem witness_AccumulatorWords : performs w0 [.accrd (fv 2 4 6 0 0), .accwr (fv 2 4 6 0 0), .accst (fv 0 4 6 8 0), .accst (fv 0 4 6 8 0x80)] = true ∧
    accWindow (placeGroup.sget 6).toNat = some (0, 1, 0) ∧ accWindow 0x1F81 = some (0, 64, 32) ∧ 2 + 64 ≤ placeGroup.alloc ∧
    placeGroup.vEmpty = [] ∧ placeGroup.gmmas = [] ∧ placeGroup.sparseOk = true ∧
    (let s := wvs [] [(8, 256)]
     accstOk 0 false 256 = true ∧ (s.blocks.map (fun b => (s.operandAt b 0 (63 * 256 + 256)).isSome)) = [true] ∧ s.copies = []) ∧
    performs w0 [.pqacc (fv 2 4 6 0 0x200)] = true ∧ (w0.blocks.map (fun b => (w0.scratchAt b 0 512).isSome)) = [true] ∧
    w0.blocks.all (fun b => b.scPoison.isEmpty) = true := by decide

/-- Two 16-byte rows copied from 0x3000 to 0x4000. -/
def copyRecord : List (Nat × Nat × Nat) := [(0x2000, 8, 0x3000), (0x2008, 8, 0x4000), (0x2018, 8, 16 + 2 ^ 33), (0x2020, 8, 16 + 16 * 2 ^ 32)]

/-- Whether the record of a copy command is sound. -/
def copyMeets (gather : Bool) (i : Instr) (s : State) : Bool :=
  issued s i (fun x => match readRecord x (x.g.spair 4) 8 s with
    | (s1, .ok w) => match s1.blockOfParty x.party with
      | some b => decide (copyCheck s1 b (copyCmd gather w).1 (copyCmd gather w).2 = none ∧ (x.g.spair 4).toNat % 64 = 0 ∧ partyCore x.party = some 0)
      | none => false
    | _ => false)

/-- A copy engine on that record. -/
def copyEngine : CopyEngine :=
  { id := 7, blk := 1, gix := 0, core := 0, launch := 1, cset := 0, ctx := 1, asked := none, slot := none, row := 0, sector := 0, index := none, owned := []
    cmd := { gather := false, src := 0x3000, dst := 0x4000, idx := 0, rowBytes := 16, rows := 2, sstride := 16, dstride := 16, ctl := 0, bar := 0, report := 0 } }

/-- An engine that fills a slot of slot buffer 0 with 16 bytes, from memory or from the scratchpad at 0x100. -/
def slotEngine (sks : Bool) (asked : Option Nat) : CopyEngine :=
  { copyEngine with asked := asked, cmd := { copyEngine.cmd with src := if sks then 0x100 else 0x3000, dst := 0, rows := 1, ctl := if sks then 7 else 6 } }

/-- What an engine in a state comes to: whether it has its slot and meets no batch, whether its source meets its slot, and how up to n
sectors end. -/
def engineEnds (s : State) (e : CopyEngine) (n : Nat) (k : Bool → Progress → Bool) : Bool :=
  decide (s.copies.find? (fun e => e.id = 7) = some e ∧ s.blockSaved e.blk = false) && (match copyReserve (e.block s) e s with
    | .go u e' => !u.awaitsBatch e' &&
        k (u.copyMeets (e'.block u) e'.cmd (e'.base u (e'.block u))) (copySectors (coreDie (e.block s).core) (e'.block u) n e' u).2.2
    | .wait _ => false)

/-- Whether an engine does not get its slot. -/
def slotRefused (s : State) (e : CopyEngine) : Bool :=
  e.cmd.sbd && e.slot.isNone && ((s.blockUid 1).any (fun b => !s.resFirst b e.cmd.sbn (e.asked.getD s.fresh) || (b.sbuf e.cmd.sbn).reserve .engine == none))

set_option maxRecDepth 20000 in
theorem witness_CopyWords : copyMeets false (.bcopy (fv 0 4 0 0 0)) (pokes (wvs [] [(4, 0x2000)]) copyRecord) = true ∧
    copyMeets true (.bgather (fv 0 4 0 0 0)) (pokes (wvs [] [(4, 0x2000)]) copyRecord) = true ∧
    (let s := { w0 with copies := [copyEngine] }
     engineEnds s copyEngine 2 (fun _ q => decide (q = .done)) = true ∧ engineEnds s copyEngine 1 (fun _ q => decide (q = .more)) = true ∧
     okAt 0x3000 (s.translate (.die 0) 1 0x3000 needRd) = true ∧ okAt 0x4000 (s.translate (.die 0) 1 0x4000 needWr) = true ∧
     region 0x3000 = .hbm 0 ∧ region 0x4000 = .hbm 0 ∧ s.poisoned 0x3000 = false ∧ homeDie 0x3000 = 0 ∧ s.potluck.waves = [] ∧ Memory.wf s.mem = true) ∧
    (let e := { copyEngine with cmd := { copyEngine.cmd with dst := 0x40000000 } }
     engineEnds { w0 with copies := [e] } e 2 (fun _ q => match q with
       | .stopped st _ _ => st == 1
       | _ => false) = true) ∧
    (let s := { witWave [] with copies := [{ copyEngine with cmd := { copyEngine.cmd with dst := 0x9000 } }] }
     engineEnds s { copyEngine with cmd := { copyEngine.cmd with dst := 0x9000 } } 2 (fun _ q => decide (q = .blocked)) = true) ∧
    (let s := { withRing placeGroup .free .free with copies := [slotEngine false none] }
     engineEnds s (slotEngine false none) 1 (fun m q => !m && decide (q = .done)) = true) ∧
    (let s := { withRing placeGroup .free .free with copies := [slotEngine true none] }
     engineEnds s (slotEngine true none) 1 (fun m _ => m) = true) ∧
    (∀ a ∈ [none, some 0], slotRefused { withRing placeGroup .taken .free with copies := [slotEngine false a] } (slotEngine false a) = true) ∧
    slotRefused { withRing (onRing (.sbres 0 2)) .free .free with fresh := 1, copies := [slotEngine false none] } (slotEngine false none) = true ∧
    okAt 0x5000 (w0.translate (.die 0) 1 0x5000 needWr) = true ∧
    ({ w0 with copies := [copyEngine], sched.saved := [⟨1, 0, 0, false, false, [], 0, 0, [placeBlock], 0, false, []⟩] } : State).blockSaved 1 = true := by decide

/-- Page tables for VA 0x50000 of context 1: a 64 KiB page at a frame, tables at 0x10000 to 0x14000, pools at 0x20000 and 0x21000. -/
def tierState (frame : Nat) : State :=
  let t : TierCmd := { (default : TierCmd) with id := 4, blk := 1, ctx := 1, inward := true, page := 0x50000, count := 1, kind := false, status := none }
  let s := pokes { w0 with tiers := [t], ctxs := put w0.ctxs 1 { Ctx.blank with valid := true, hbmPool := 0x20000, ctPool := 0x21000 } }
    [(8, 8, 0x10001), (0x10000, 8, 0x11001), (0x11000, 8, 0x12001), (0x12000, 8, 0x13001), (0x13000, 8, 0x14001),
     (0x20000, 4, 4), (0x20004, 4, 1), (0x20040, 8, 0x60000), (0x21000, 4, 4)]
  pokes s ((List.range 16).map (fun i => (0x14280 + 8 * i, 8, frame + 4096 * i + 0x20F)))

/-- Whether a page stands at a frame, and moves. -/
def movesOne (s : State) : Bool := match s.tiers, s.pageAt 1 true 0x50000 with
  | [t], .frame pa at_ => !s.frameBusy pa && (movePage t.die t 0x50000 pa at_ s).2.isNone
  | _, _ => false

/-- Whether the record of a tier command is sound. -/
def tierMeets (i : Instr) (s : State) : Bool :=
  issued s i (fun x => match readRecord x (x.g.spair 4) 4 s with
    | (s1, .ok w) => (s1.blockOfParty x.party).isSome && decide (nth 0 w 1 = 65536 ∧ nth 0 w 0 = 0x50000)
    | _ => false)

/-- The hypotheses of the statement about ACCST. -/
def accstMeets (f : FmtV) (s : State) : Bool :=
  issued s (.accst f) (fun x =>
    let o := (f.fn.extractLsb' 8 3).toNat
    let w := (x.g.sget f.sc.toNat).toNat
    let rows := (List.range 64).map (fun r => storedRow o ((List.range 64).map (fun c => x.g.tileAt f.sb.toNat (64 * r + c))))
    let pieces := piecesOf (accstRuns o (f.fn.getLsbD 6) w (rows.map (fun r => (r.1, r.2.1))))
    accstOk o (f.fn.getLsbD 6) w && x.g.gmmas.isEmpty &&
      if f.fn.getLsbD 7 then
        match s.blockOfParty x.party with
        | some b => match s.operandAt b (x.g.sget f.sa.toNat) (pieces.foldl (fun a p => if a < p.1 + p.2.length then p.1 + p.2.length else a) 0) with
          | some (u, off) => decide ((x.g.sget f.sa.toNat).toNat % 16 = 0) && pieces.all (fun p => !s.scratchOwned u (off + p.1))
          | none => false
        | none => false
      else
        match resolvePieces x.party (x.g.spair f.sa.toNat) pieces s with
        | (s1, .ok l) => decide ((x.g.spair f.sa.toNat).toNat % 16 = 0) && l.all (fun a => !s1.mustWait x.party a.1 a.2.length false)
        | _ => false)

/-- Both places, rows of bf16 and a compressed tile. -/
theorem witness_AccumulatorWords_store :
    accstMeets (fv 0 4 6 8 0x100) (wvs [] [(4, 0x2000), (8, 256)]) = true ∧ accstMeets (fv 0 4 6 8 0x180) (wvs [] [(4, 0x100), (8, 256)]) = true ∧
    accstMeets (fv 0 4 6 8 0x140) (wvs [] [(4, 0x2000)]) = true := by decide +kernel

/-- Whether a page's move comes to a status, or none. -/
def moveEnds (s : State) (st : Option Nat) : Bool := match s.tiers, s.pageAt 1 true 0x50000 with
  | [t], .frame pa at_ => !s.frameBusy pa && (movePage t.die t 0x50000 pa at_ s).2 == st
  | _, _ => false

/-- A tier command with KIND 1 on slot buffer 0 whose pages are done, in a block with a ring. -/
def tierDone (asked : Option Nat) (st : SlotSt) : State :=
  { withRing placeGroup st .free with tiers := [{ (default : TierCmd) with id := 4, blk := 1, ctx := 1, count := 1, pos := 1, kind := true, asked := asked }] }

/-- Whether a done command gets its slot. -/
def tierSlot (s : State) : Bool := s.tiers.all (fun t => decide (t.count ≤ t.pos) && (s.blockUid t.blk).any (fun b =>
  s.resFirst b t.sb (t.asked.getD s.fresh) && ((b.sbuf t.sb).reserve .engine).isSome))

theorem witness_TierSteps : (let s := pokes (wvs [] [(4, 0x2000)]) [(0x2000, 8, 0x50000), (0x2008, 8, 65536)]
      tierMeets (.tierin (fv 0 4 0 0 0)) s = true ∧ tierMeets (.tierout (fv 0 4 0 0 0)) s = true) ∧
    (tierState 0x70000).pageAt 1 true 0x50000 = .moved 0x70000 ∧ w0.pageAt 1 true 0x50000 = .bad 3 ∧ moveEnds (tierState ctBase) none = true ∧
    moveEnds (pokes (tierState ctBase) [(0x20004, 4, 0)]) (some 1) = true ∧
    (match (tierState ctBase).pageAt 1 true 0x50000 with
      | .frame pa _ => ({ tierState ctBase with copies := [{ copyEngine with owned := [(0, ctBase / 64)] }] } : State).frameBusy pa
      | _ => false) = true ∧
    (tierState 0).tiers.all (fun t => decide (t.pos < t.count ∧ t.status = none ∧ t.kind = false)) = true ∧
    (let t : TierCmd := { (default : TierCmd) with id := 4, count := 1, pos := 1 }
     t.count ≤ t.pos ∧ t.status = none ∧ t.kind = false) ∧
    tierSlot (tierDone none .free) = true ∧ tierSlot (tierDone none .taken) = false ∧ tierSlot (tierDone (some 0) .taken) = false := by decide +kernel

/-- A request of context 1 to the object at 0x8000. -/
def request : Request := ⟨0x8000, 0x8000, unitOf 0x8000, 1, 7, 1, 0, [0, 0, 0, 0, 0], some ⟨1, 0, 0, 8, 1, none, false⟩, 0⟩
/-- The object at 0x8000 with its queue. -/
def object (faulted : Bool) (queue : List Request) : Bound := ⟨unitOf 0x8000, 0x8000, 0x8000, 1, 0x6000, 0x9000, 0, false, faulted, queue⟩
/-- A state with requests, an object and replies. -/
def potluckState (net : List Request) (bound : List Bound) : State := { w0 with potluck := { w0.potluck with net := net, bound := bound } }

theorem witness_CallWords :
    (let s := wvs [] [(4, 0x8000)]
     performs s [.obind (fv 0 4 0 0 0)] = true ∧ okAt 0x8000 (s.resolve (.group ⟨0, 0, 0⟩) 0x8000 needRw) = true ∧ leafMs placeLeaf = false ∧
       region 0x8000 = .hbm 0 ∧ s.headerOk 0x8000 = true ∧ s.batchOn 0x8000 = false ∧ s.boundAt 0x8000 = none ∧ s.potluck.bound.length < 1024) ∧
    (let s := { potluckState [] [object false []] with blocks := (wvs [] [(4, 0x8000)]).blocks }
     performs s [.obindU (fv 0 4 0 0 1)] = true ∧ s.boundAt 0x8000 = some (object false []) ∧ s.batchOn 0x8000 = false) ∧
    (let s := wvs (vAddr 64) []
     issued s (.ocall (fv 2 4 6 0 0)) (fun x =>
       let r := resolveAll x needRd (x.lanes.map (fun l => (l, aligned 64 (x.g.vpair 4 l)))) s
       resolvesTo 32 r && !r.1.detOf x.party && r.2.1.all (fun a => decide (region a.t.pa = .hbm 0))) = true) := by decide

theorem witness_BatchEvents :
    (let s := potluckState [request] [object false []]
     s.potluck.net.find? (fun r => r.unit = unitOf 0x8000) = some request ∧ s.boundAt 0x8000 = some (object false []) ∧ s.unitLoad (unitOf 0x8000) < 4096) ∧
    ((potluckState [request] [{ object false [] with ctx := 2 }]).boundAt 0x8000).map (fun o => o.ctx) = some 2 ∧ request.ctx = 1 ∧
    (potluckState [request] []).boundAt 0x8000 = none ∧ (potluckState [request] [object true []]).boundAt 0x8000 = some (object true []) ∧
    (let s := potluckState [] [object false [request]]
     s.freeWave (unitOf 0x8000) = some 0 ∧ (sortBy (fun (a b : Bound) => (a.queue.head?.map (fun r => r.stamp)).getD 0 ≤ (b.queue.head?.map (fun r => r.stamp)).getD 0)
       (s.potluck.bound.filter (fun o => o.unit = unitOf 0x8000 && o.queue != [] && !s.batchOn o.hdrPa))).length = 1 ∧
     (startBatch (object false [request]) 0 [request] none s).isSome = true ∧ (windowLines (unitOf 0x8000) 1 0x9000 0 0 s).2 = some [] ∧
     okAt 0x6008 (s.translate (.die 0) 1 0x6008 needRd) = true ∧ s.poisoned 0x6008 = false ∧ s.homeRead 0x6008 8 = 0) ∧
    (pokes (potluckState [] []) [(0x6008, 8, 0x1000)]).homeRead 0x6008 8 = 0x1000 := by decide

theorem witness_BatchEvents_full :
    4096 ≤ (potluckState [request] [object false (List.replicate 4096 request)]).unitLoad (unitOf 0x8000) := by decide +kernel

theorem witness_WaveWords :
    (let s := witWave [(128, 8), (129, 16)]
     performs s [.old (fv 2 4 0 0 2), .old (fv 2 4 0 0 3), .ost (fv 0 4 6 0 3), .ocommit (fv 0 4 0 0 0), .oabort (fv 0 4 0 0 0)] = true ∧
     (match s.cur, s.potluck.waves with
       | some c, [w] => decide (s.waveOf c.party = some w) && w.staged.wf && decide (w.grp.live = w.grp.present ∧ c.mask = w.grp.live)
       | _, _ => false) = true ∧
     Memory.wf s.mem = true ∧ s.potluck.waves.map (fun w => w.lines) = [[] ++ 0x240 :: []] ∧
     issued s (.old (fv 2 4 0 0 3)) (fun x => s.potluck.waves.all (fun w => (splitLanes (windowOffs w 4 8 x)).2.isEmpty)) = true) := by decide

/-- A reply to lane 0 of the witness group, pair (v8, v9). -/
def reply0 (fault : Option Byte) : Reply := ⟨⟨1, 0, 0, 8, 1, none, false⟩, 5, fault, 0x8000, 1⟩

theorem witness_ReplyEvents_arrive (f : Option Byte) :
    (let s := { w0 with potluck.replies := [reply0 f] }
     s.potluck.replies[0]? = some (reply0 f) ∧ replyBlocked s.potluck.replies 0 (reply0 f) = false ∧ (reply0 f).dest.peer = false ∧
      (s.blockUid 1).map (fun b => b.groups.all (fun g => !g.saving)) = some true) := ⟨rfl, rfl, rfl, rfl⟩

theorem witness_ReplyEvents :
    (let s := witWave []
     let w := { (s.potluck.waves.headD default) with words := 4096 }
     let s := { s with potluck.waves := [w] }
     s.potluck.waves.find? (fun w => w.is ⟨0, 0⟩ 0) = some w ∧ 4096 ≤ w.words) ∧
    placeGroup.v.wf = true ∧ hasLane placeGroup.live 0 = true ∧ placeGroup.marks = [] ∧
    (let q : Producer := { (default : Producer) with id := 1, kind := .ocall, vregs := [8, 9], fills := true, lanes := 1 }
     let g := { placeGroup with pend := [q], vEmpty := [8, 9] }
     g.pend.find? (fun p => p.id = (reply0 none).dest.prod) = some q ∧ q.lanes &&& ~~~laneBit 0 &&& g.live = 0) := by decide

/-! ### System registers, launches, traps -/

/-- A system register read answers a value. -/
def sysValue (s : State) (i : Instr) (n : Nat) : Bool :=
  issued s i (fun x => match s.sysRead x.party x.g n with
    | .value _ _ => true
    | _ => false)

theorem witness_SystemRegisterWords : sysValue w0 (.sysrd (fs 5 2)) 2 = true ∧ sysValue (witRanger []) (.sysrd (fs 5 0x200)) 0x200 = true ∧
    performs w0 [.syswr (fs 5 0), .syswr (fs 5 1)] = true ∧ placeGroup.flagsPending 0 = false ∧ placeGroup.flagsPending 1 = false ∧
    performs (witRanger []) [.syswr (fs 5 0x200), .syswr (fs 5 0x107)] = true ∧ (w0.grp? (.group ⟨0, 0, 0⟩)).isSome = true := by decide

theorem witness_PrivilegeAndAlignmentTraps : performs w0 [.sysrd (fs 5 0x200), .syswr (fs 5 0x100), .syswr (fs 5 0x30A), .trapret (fv 0 0 0 0 0)] = true ∧
    rangerRead 0x200 = true ∧
    (let s := wvs ((List.range 32).map (fun l => (128 + l, BitVec.ofNat 32 (0x2001 + 4 * l)))) []
     performs s [.ld (fm 2 4 0x240 0), .st (fm 2 4 0x240 0)] = true ∧ fnAm (fm 2 4 0x240 0).fn = 1 ∧ fnOrd (fm 2 4 0x240 0).fn = 0 ∧ placeGroup.fenceRel = [] ∧
       (List.range 32).all (fun l => match s.grp? (.group ⟨0, 0, 0⟩) with
         | some g => (g.vpair 4 l + 0).toNat % 4 != 0
         | none => false) = true ∧
       performs s [.atom (fm 2 4 0x40 0), .atom (fm 2 4 0x47A 0), .ld (fm 2 4 0x25A 0), .st (fm 2 4 0x26A 0)] = true ∧
       s.detOf (.group ⟨0, 0, 0⟩) = false) ∧
    (let s := wvs [] [(4, 0x2001)]
     performs s [.ld (fm 2 4 0x200 0), .st (fm 2 4 0x200 0), .atom (fm 2 4 0 0)] = true ∧ fnAm (fm 2 4 0x200 0).fn = 0) := by decide

/-- Whether LAUNCH reads its header. -/
def launchReads (s : State) : Bool :=
  issued s (.launch (fv 2 4 0 0 0)) (fun x => decide ((x.g.spair 4).toNat % 64 = 0) && (match readHeader x.party (x.g.spair 4) s with
    | (_, .bits _) => true
    | _ => false))

/-- Mailbox 0 with its oldest slot in a given state. -/
def mailboxState (m : MbSlot) : State := { w0 with plat.mailboxes := [(0, { w0.mb 0 with en := true, ctx := 1, slots := [(0, m)] })] }

/-- A launch header's bits: entry 0x1000, extents 32 and 1, C and K 1, one quantum of registers, queue 0, context 1. -/
def smallHeader : Nat :=
  0x1000 + 0x11 * 2 ^ (8 * 0x25) + 31 * 2 ^ (8 * 0x28) + 1 * 2 ^ (8 * 0x2A) + 1 * 2 ^ (8 * 0x3C) + 1 * 2 ^ (8 * 0x40)

set_option exponentiation.threshold 1024 in
theorem witness_LaunchEvents : launchReads (wvs [] [(4, 0x2000)]) = true ∧
    (∀ m ∈ [MbSlot.cancelled, .committed, .free, .reserved], ((mailboxState m).mb 0).closing = false ∧ ((mailboxState m).mb 0).slot ((mailboxState m).mb 0).dptr = m) ∧
    (mailboxState .committed).checkHeader 0 (headerOf 0) (some 1) ≠ 0 ∧
    ({ mailboxState .committed with sched.queueOwner := [(0, 1)] } : State).checkHeader smallHeader (headerOf smallHeader) (some 1) = 0 := by decide

/-- The witness launch with its cluster set still to place, and no block. -/
def toPlace : State :=
  let l : Launch := { id := 1, hdr := { placeHdr with ext := [32, 1, 1, 1, 1, 1] }, origin := .pool, next := 0, age := 0, reserved := none
                      stage := .running, staged := [], spilled := 0 }
  { w0 with blocks := [], launches := [l], sched := { w0.sched with splits := [], queues := [(0, [1])], saved := [] } }

/-- That launch with more cluster sets, on a device whose die 0 is free or reserved against it. -/
def toPlaceMore (die1 : Bool) : State :=
  let l : Launch := { id := 1, hdr := { placeHdr with ext := [32, 1, 4, 1, 1, 1] }, origin := .pool, next := 0, age := 0, reserved := none
                      stage := .running, staged := [], spilled := 0 }
  { toPlace with launches := [l], blocks := if die1 then (List.range 96).map (fun c => { placeBlock with core := c, regRes := List.replicate 4 (10 ^ 6) }) else [] }

/-- Whether its next set fits a die, after the die 0 has placed one or before. -/
def fitsDie (s : State) (d : Nat) : Bool := s.launches.any (fun l => decide (l.next < l.hdr.sets ∧ l.hdr.prio < 64 ∧ l.age < 65536) &&
  s.privFits l.hdr && (s.findCluster d (some 1) l.hdr l.hdr.nblocks).isSome)

theorem witness_PlacementEvents_more : fitsDie (toPlaceMore true) 0 = false ∧ fitsDie (toPlaceMore true) 1 = true ∧
    fitsDie (toPlaceMore false) 0 = true ∧ (toPlaceMore false).launches.map (fun l => decide (l.next + 1 < l.hdr.sets)) = [true] ∧
    (match (toPlaceMore false).launches with
      | [l] => match (toPlaceMore false).findCluster 0 (some 1) l.hdr l.hdr.nblocks with
        | some cores => fitsDie ((toPlaceMore false).placeSet l cores) 1
        | none => false
      | _ => false) = true := by decide +kernel

theorem witness_PlacementEvents : toPlace.sched.saved = [] ∧ toPlace.sched.queues = [(0, [1])] ∧
    toPlace.launches.map (fun l => decide (l.id = 1 ∧ l.hdr.queue = 0 ∧ l.hdr.prio < 64 ∧ l.next + 1 = l.hdr.sets ∧ toPlace.privFits l.hdr = true ∧
      (toPlace.findCluster 0 (some 1) l.hdr l.hdr.nblocks).isSome = true)) = [true] ∧
    w0.sched.saved = [] ∧ (∀ q ∈ w0.sched.queues, q.2 = []) := by decide

/-- The witness block's cluster set being saved. -/
def savingState : State :=
  { w0 with blocks := [{ placeBlock with groups := [{ placeGroup with saving := true }] }]
            ctxs := put w0.ctxs 1 { Ctx.blank with valid := true, savePoolBytes := 2 ^ 24 }
            sched := { w0.sched with saveOps := [⟨1, 0, [0], false⟩] } }

theorem witness_RucksackEvents : (savingState.sched.saveOps.find? (fun o => o.launch = 1 && o.cset = 0)).isSome = true ∧
    canSave (savingState.setBlocks 1 0) = true ∧ savingState.sched.saved = [] ∧ (savingState.setBlocks 1 0).length = 1 ∧
    (let hd := ((savingState.launchOf 1).map (fun l => l.hdr)).getD default
     (savingState.saveRoom hd.ctx (sum ((savingState.setBlocks 1 0).map (imageBytes hd)))).isSome = true) ∧
    0 < savingState.rangers.length ∧
    (let s := { savingState with sched.saved := [⟨1, 0, 0, false, false, [], 0, 0, [], 0, true, []⟩] }
     (s.sched.saved.find? (fun v => v.launch = 1 && v.cset = 0 && v.restoring)).isSome = true) := by decide

theorem witness_LaunchCompletes :
    (let s := { w0 with blocks := [] }
     (s.launchOf 1).map (fun l => decide (l.stage = .running ∧ s.allExited l = true ∧ l.staged = [] ∧ l.hdr.done = 0)) = some true) ∧
    (let s := { w0 with launches := w0.launches.map (fun (l : Launch) => { l with stage := .doneWait, hdr := { l.hdr with done := 0x2000 } }) }
     (s.launchOf 1).map (fun l => decide (l.stage = .doneWait ∧ l.hdr.done ≠ 0)) = some true) ∧
    (let s := pokes w0 [(0x2000, 4, 1)]
     okAt 0x2000 (s.translate (.die 0) 1 0x2000 needRw) = true ∧ (match s.arrive 0 1 ⟨0x2000, placeLeaf⟩ 1 with
       | .done _ => true
       | _ => false) = true) ∧
    (let g := { placeGroup with waits := [⟨0x1000, placeGroup.live, placeGroup.live, 1, .detlog, 0⟩] }
     (wit g).blocks = [{ placeBlock with groups := [g] }] ∧ (wit g).hdrOfBlock placeBlock = placeHdr ∧ placeHdr.ctx = 1 ∧ g.waits ≠ [] ∧
       ∀ w ∈ g.waits, w.kind = .detlog) := by decide

theorem witness_LaunchCompletes_pool : 8192 ≤ ({ w0 with sched.pool := List.replicate 8192 1 } : State).sched.pool.length :=
  Nat.le_of_eq (List.length_replicate (n := 8192) (a := 1)).symm

theorem witness_TrapEvents : w0.grp? (.group ⟨0, 0, 0⟩) = some placeGroup ∧ coreDie 0 < w0.plat.trapq.length ∧ coreDie 0 < w0.plat.recSeq.length ∧
    placeGroup.stopped = false ∧ placeGroup.live ≠ 0 ∧
    (let g := { placeGroup with waits := [⟨0x1000, placeGroup.live, placeGroup.live, 1, .rclaim 8, 0⟩] }
     let s := wit g
     s.blockUid 1 = some { placeBlock with groups := [g] } ∧ s.deadlocked { placeBlock with groups := [g] } = true ∧
       s.blocks = [{ placeBlock with groups := [g] }]) := by decide

/-- A word at issue that is legal for its party, in range and not forbidden, with a condition. -/
def checkedIn (s : State) (i : Instr) (k : Issue → Bool) : Bool :=
  match s.issueOf i with
  | some x => i.legal && !partyIllegal x.party i x.op && (rangeFault x.g (specOf i).ops).isNone && !partyForbids x.party i x.op && k x
  | none => false

/-- The same in the witness state of a group. -/
def checked (g : Group) (i : Instr) (k : Issue → Bool) : Bool := checkedIn (wit g) i k

theorem witness_IssueChecks :
    (w0.issueOf (.iadd { fv 2 4 6 0 0 with g := 15 })).isSome = true ∧ (Instr.iadd { fv 2 4 6 0 0 with g := 15 }).legal = false ∧
    ((witRanger []).issueOf (.bcopy (fv 0 4 0 0 0))).map (fun x => partyIllegal x.party (.bcopy (fv 0 4 0 0 0)) x.op) = some true ∧
    ((witRanger []).issueOf (.ld (fm 2 4 0x280 0))).map (fun x => partyIllegal x.party (.ld (fm 2 4 0x280 0)) x.op) = some true ∧
    (w0.issueOf (.old (fv 2 4 0 0 2))).map (fun x => partyIllegal x.party (.old (fv 2 4 0 0 2)) x.op) = some true ∧
    ((wit { placeGroup with alloc := 8 }).issueOf (.iadd (fv 8 4 6 0 0))).map (fun x =>
      (Instr.iadd (fv 8 4 6 0 0)).legal && !partyIllegal x.party (.iadd (fv 8 4 6 0 0)) x.op &&
        (rangeFault x.g (specOf (.iadd (fv 8 4 6 0 0))).ops).isSome) = some true ∧
    ((witWave []).issueOf (.launch (fv 2 4 0 0 0))).map (fun x => (Instr.launch (fv 2 4 0 0 0)).legal && x.active != 0 &&
      !partyIllegal x.party (.launch (fv 2 4 0 0 0)) x.op && (rangeFault x.g (specOf (.launch (fv 2 4 0 0 0))).ops).isNone &&
      partyForbids x.party (.launch (fv 2 4 0 0 0)) x.op) = some true ∧
    ((witWave []).issueOf (.gmma (fv 0 4 6 8 0))).map (fun x => (Instr.gmma (fv 0 4 6 8 0)).legal && x.active != 0 &&
      !partyIllegal x.party (.gmma (fv 0 4 6 8 0)) x.op && partyForbids x.party (.gmma (fv 0 4 6 8 0)) x.op &&
      waveLacks (.gmma (fv 0 4 6 8 0)) x.op) = some true ∧
    checked { placeGroup with role := .vector } (.gmma (fv 0 4 6 8 0)) (fun x => !x.g.role.may x.op && x.active != 0 && isUniform x.op
      && x.mask == x.g.live) = true ∧
    checked { placeGroup with role := .vector, present := 0xFFFFFFFF, live := 1, tab := [⟨0x1000, 1, .ready, 0, false, true⟩] }
      (.gmma (fv 0 4 6 8 0)) (fun x => !x.g.role.may x.op && x.active != 0 && x.g.live != x.g.present) = true ∧
    checkedIn { w0 with blocks := [{ placeBlock with sbufs := [SlotBuf.blank] }] } (.sbres (fv 2 5 0 0 0)) (fun x =>
      x.g.role.may x.op && x.active != 0 && !isUniform x.op && (bufFault 1 (specOf (.sbres (fv 2 5 0 0 0))).ops).isSome) = true ∧
    ({ w0 with blocks := [{ placeBlock with sbufs := [SlotBuf.blank] }] } : State).sbufsOf (.group ⟨0, 0, 0⟩) = 1 ∧
    checked { placeGroup with vEmpty := [4] } (.iadd { fv 2 4 6 0 0 with ta := true }) (fun x => x.g.role.may x.op && !isUniform x.op && x.active != 0 &&
      (match readiness x.g (specOf (.iadd { fv 2 4 6 0 0 with ta := true })).ops with
        | .trap _ => true
        | _ => false)) = true ∧
    checked { placeGroup with vEmpty := [4] } (.iadd (fv 2 4 6 0 0)) (fun x => decide (readiness x.g (specOf (.iadd (fv 2 4 6 0 0))).ops = .wait)) = true ∧
    checked { placeGroup with marks := [⟨2, 0x8000, 0x10, 1⟩] } (.iadd (fv 2 4 6 0 0)) (fun x =>
      decide (readiness x.g (specOf (.iadd (fv 2 4 6 0 0))).ops = .go) && (markFault x.g (specOf (.iadd (fv 2 4 6 0 0))).ops).isSome) = true ∧
    checked placeGroup (.iadd { fv 2 4 6 0 0 with g := 3 }) (fun x => x.active == 0 && x.g.role.may x.op) = true ∧
    checked placeGroup (.bcopy { fv 0 4 0 0 0 with g := 3 }) (fun x => isUniform x.op && x.active == 0 && x.g.live == x.g.present && x.mask == x.g.live) = true ∧
    checked { placeGroup with present := 0xFFFFFFFF, live := 1, tab := [⟨0x1000, 1, .ready, 0, false, true⟩] } (.bcopy (fv 0 4 0 0 0))
      (fun x => isUniform x.op && x.g.live != x.g.present) = true ∧
    checked { placeGroup with preds := List.replicate 7 1 } (.bcopy { fv 0 4 0 0 0 with g := 2 })
      (fun x => isUniform x.op && x.g.live == x.g.present && x.mask == x.g.live && x.active != 0 && x.active != x.g.live) = true := by decide

/-- Two entries of one group that wait to be whole, at its partition's turn. -/
def apart : State :=
  { wit { placeGroup with present := 3, live := 3, tab := [⟨0x1000, 1, .uwait, 0, false, true⟩, ⟨0x1010, 2, .uwait, 0, false, true⟩] } with
    agenda := [.issue 0 0] }

theorem witness_IssueChecks_uniform :
    (let g := { placeGroup with present := 3, live := 3, tab := [⟨0x1000, 1, .ready, 0, false, true⟩] }
     checkedIn { wit g with cur := some ⟨.group ⟨0, 0, 0⟩, 0x1000, 1, false, 0⟩ } (.bcopy (fv 0 4 0 0 0))
       (fun x => isUniform x.op && x.g.live == x.g.present && x.mask != x.g.live) = true) ∧
    issued (wit { placeGroup with vEmpty := [4] }) (.pref (fm 0 4 0x40 0)) (fun x => decide (readiness x.g (specPref (fm 0 4 0x40 0)).ops = .wait)) = true ∧
    (let s0 := { apart with agenda := [] }
     s0.arbitrate 0 0 = some ⟨0, 0, 0⟩ ∧ (match s0.grp? (.group ⟨0, 0, 0⟩) with
       | some g => s0.mayIssue (.group ⟨0, 0, 0⟩) g && decide (g.run = none ∧ s0.boundary (.group ⟨0, 0, 0⟩) = s0 ∧ g.stopReq = false) &&
           g.tab.all (fun q => q.st != .ready && decide ((0x1000 : DWord) ≤ q.pc)) && g.tab.any (fun e => e.pc = 0x1000 && e.st = .uwait)
       | none => false) = true ∧ (match s0.fetch (.group ⟨0, 0, 0⟩) 0x1000 with
       | (_, .ok _) => true
       | _ => false) = true) := by decide +kernel

set_option maxRecDepth 20000 in
theorem witness_LaunchEvents_waits :
    (let s := { wvs [] [(4, 0x2000)] with copies := [{ (default : CopyEngine) with id := 7, blk := 1, owned := [(0, 0x80)] }] }
     issued s (.launch (fv 2 4 0 0 0)) (fun x => decide ((x.g.spair 4).toNat % 64 = 0) && (match readHeader x.party (x.g.spair 4) s with
       | (_, .wait) => true
       | _ => false))) = true ∧
    (let q : Producer := { (default : Producer) with id := 9, kind := .launchStatus, sregs := [2], header := some 0x2000, fills := true }
     let g := { placeGroup with pend := [q] }
     let p : Party := .group ⟨0, 0, 0⟩
     (wit g).grp? p = some g ∧ g.pend.find? (fun y => y.id = q.id && y.kind != .ocall && y.kind != .drain && y.kind != .icinv) = some q ∧
     ((wit g).launchStatus p ((wit g).ctxOfParty p) 0x2000).2.isSome = true) := by decide

theorem witness_LaunchEvents_bad :
    issued (wvs [] [(4, 0x2010)]) (.launch (fv 2 4 0 0 0)) (fun x => decide ((x.g.spair 4).toNat % 64 ≠ 0)) = true ∧
    issued (wvs [] [(4, 0x40000000)]) (.launch (fv 2 4 0 0 0)) (fun x => decide ((x.g.spair 4).toNat % 64 = 0) &&
      (match readHeader x.party (x.g.spair 4) (wvs [] [(4, 0x40000000)]) with
        | (_, .bad _) => true
        | _ => false)) = true := by decide

/-- The witness state with a leaf that forbids stores, or with none. -/
def leafed (leaf : Option DWord) : State := { w0 with tlb := (leaf.map (fun e => (⟨.die 0, 1, 0, 30, 0, e, 3⟩ : TlbEntry))).toList }

/-- The cause with which an address fails. -/
def causeAt (s : State) (pa : DWord) (c : Nat) : Bool := match s.translate (.die 0) 1 pa needRw with
  | (_, .error f) => f.cause == c
  | _ => false

theorem witness_LaunchCompletes_faults : causeAt (leafed none) 0x2000 0x06 = true ∧ causeAt (leafed (some (placeLeaf &&& ~~~8#64))) 0x2000 0x07 = true := by decide

/-! ### The fabric's configuration -/

/-- A tile of context 1, region 0. -/
def ownTile : Tile := { Tile.blank with ownV := true, ownCtx := 1, ownRid := 0 }

/-- A run of region 0 on tile 0, in a state. -/
def runIn (st : RunSt) : FabRun :=
  { (default : FabRun) with st := st, rid := 0, slot := 0, gen := 1, entry := 0, tiles := [0], ctx := 1, bases := List.replicate 8 0 }

/-- A Hamper entry of one tile. -/
def entry0 : HamperEntry :=
  { ix := 0, gen := 1, digest := 0, ox := 0, oy := 0, w := 1, h := 1, ctx := 1, prio := 0, units := 1, blocks := [List.replicate 9 0], fps := [], nfpr := 0, rates := [] }

/-- The witness state with a tile 0 and runs on stack 0. -/
def fab (s : State) (t : Tile) (runs : List FabRun) : State :=
  { s with fabrics := { Stack.blank with tiles := t :: List.replicate 63 Tile.blank, runs := runs, hamper := [entry0] } :: List.replicate 7 Stack.blank }

/-- An image of one empty block with a digest field. -/
def image0 (dig : BitVec 256) : List (Nat × Nat × Nat) :=
  [(0x2000, 8, 0x00014B344346), (0x2004, 4, 1), (0x2008, 8, 0x0000000000010100), (0x2010, 8, 128), (0x2018, 8, (200 + 200 * 2 ^ 32)),
    (0x2060, 16, dig.toNat % 2 ^ 128), (0x2070, 16, dig.toNat / 2 ^ 128)]

theorem witness_ConfigurationWords :
    performs (fab w0 ownTile []) [.cfgwr (fv 2 4 6 8 0), .cfgseal (fv 2 4 6 0 0), .cfgevict (fv 2 0 6 0 0), .cfgkill (fv 2 0 6 0 0)] = true ∧
    performs (fab (wvs [] [(4, 0x2000), (6, 9)]) ownTile []) [.cfgwr (fv 2 4 6 8 0)] = true ∧
    ((fab w0 ownTile []).tile 0 0).ownV = true ∧ (w0.tile 0 0).ownV = false ∧ ((fab w0 ownTile []).stackOf 0).liveRun 0 = none ∧
    ((fab w0 ownTile [runIn .running]).stackOf 0).liveRun 0 = some (runIn .running) ∧
    (fab w0 ownTile []).wordRegion 1 0 = some ⟨0, 0, 1, 1⟩ ∧ (fab w0 ownTile []).wordRegion 1 1 = none ∧
    (match (fab w0 ownTile []).namedEntry 1 0x10000 with
      | .is e => decide (e = entry0)
      | _ => false) = true ∧
    performs (fab (wvs [] [(6, 0x10000)]) ownTile []) [.cfgevict (fv 2 0 6 0 0)] = true ∧
    (runIn .running).entry = entry0.ix ∧ (runIn .running).st.live = true ∧
    0 < (fab w0 ownTile []).fabrics.length ∧ ((fab w0 ownTile []).stackOf 0).tiles.length = 64 := by decide

/-- Whether an image is read and passes the header's checks, with what the further checks answer. -/
def sealOf (s : State) : Option (Except Status HamperEntry) :=
  let p : Party := .group ⟨0, 0, 0⟩
  match cfgRead p s 0x2000 16 0 [] with
  | (s1, .ok head) => if (badHeader head).isSome then none else match cfgRead p s1 0x2000 (((imgHdr head).len + 7) / 8 - 16) 16 head with
    | (s2, .ok ws) => some (sealChecks s2 0 1 (s2.prioOf p) ⟨0, 0, 1, 1⟩ ws (imgBytes ws (imgHdr head).len))
    | _ => none
  | _ => none

/-- The digest of the image read at 0x2000. -/
def digestAt (s : State) : BitVec 256 :=
  match cfgRead (.group ⟨0, 0, 0⟩) s 0x2000 25 0 [] with
  | (_, .ok ws) => imgDigest (imgBytes ws 200)
  | _ => 0

/-- The tile that holds the image's block. -/
def loadedTile : Tile := { ownTile with loaded := true, words := List.replicate 9 0 }

/-- An image with the right digest, trusted, is sealed; one with another digest is refused. -/
theorem witness_ConfigurationWords_seal :
    (let s := pokes (fab w0 loadedTile []) (image0 0)
     let d := digestAt s
     (match sealOf s with
       | some (.error _) => true
       | _ => false) = true ∧
     (match sealOf (pokes { s with plat.trust := [d] } (image0 d)) with
       | some (.ok _) => true
       | _ => false) = true) := by decide +kernel

/-- The handle of the witness run: slot 0, region 0, stack 0, generation 1. -/
abbrev h0 : Word := 0x10000

/-- A run that a handle names, with a condition. -/
def named (s : State) (k : FabRun → Bool) : Bool :=
  match s.namedRun 1 h0 with
  | .is r => k r
  | _ => false

theorem witness_RunWords :
    performs (fab (wvs [] [(4, 0x2000), (6, h0)]) ownTile []) [.cfgrun (fv 2 4 6 8 0), .cfgrunResume (fv 2 4 6 8 1), .cfgstat (fv 2 4 6 0 0),
      .cfgdrain (fv 2 0 6 0 0)] = true ∧
    (let s := fab w0 ownTile []
     (s.stackOf 0).entryRegion entry0 1 = some 0 ∧ (List.range 8).find? (fun n => match (s.stackOf 0).run 0 n with
       | some r => !r.st.live
       | none => true) = some 0 ∧ (match cfgRead (.group ⟨0, 0, 0⟩) s 0x2000 16 0 [] with
         | (_, .ok _) => true
         | _ => false) = true) ∧
    named (fab w0 ownTile [runIn .drained]) (fun r => decide (r.st = .drained ∧ r.rangerDrained = false ∧
      (((fab w0 ownTile [runIn .drained]).stackOf 0).region r.rid 1).map Rect.tiles = some r.tiles)) = true ∧
    named (fab w0 ownTile [{ runIn .killed with tiles := [] }]) (fun r => r.tiles == [] && (List.range 64).all (fun rid =>
      (((fab w0 ownTile [{ runIn .killed with tiles := [] }]).stackOf 0).region rid 1).map Rect.tiles != some r.tiles)) = true ∧
    named (fab w0 ownTile [runIn .pending]) (fun r => decide (r.st = .pending)) = true ∧
    named (fab w0 ownTile [runIn .running]) (fun r => decide (r.st = .running)) = true ∧
    okAt 0x2000 ((fab w0 ownTile []).resolve (.group ⟨0, 0, 0⟩) 0x2000 needWr) = true ∧
    ((fab w0 ownTile []).blockOfParty (.group ⟨0, 0, 0⟩)).isSome = true := by decide +kernel

/-- A READ record of sixteen 32-bit elements from 0x3000 without a target. -/
def readRec : BitVec 512 := BitVec.ofNat 512 (0x3000 + 3 * 2 ^ 66 + 1 * 2 ^ 71 + 16 * 2 ^ 128 + 4 * 2 ^ 256)

/-- A WRITE record of the same shape. -/
def writeRec : BitVec 512 := readRec ||| BitVec.ofNat 512 (1 * 2 ^ 64)

/-- A gated READ record with its barrier at 0x2000. -/
def gateRec : BitVec 512 := readRec ||| BitVec.ofNat 512 (2 ^ 75 + 0x2000 * 2 ^ 384)

/-- A tile with one record in a state, and a token for it. -/
def recTile (rc : BitVec 512) (d : StreamSt) (edges : List (Nat × List Token)) : Tile :=
  { ownTile with recs := [rc, 0, 0, 0], streams := [d, .blank, .blank, .blank], edges := edges }

theorem witness_RunEvents :
    ((fab w0 ownTile [runIn .pending]).stackOf 0).nextRun 0 = some (runIn .pending) ∧
    ((fab w0 ownTile [{ runIn .pending with det := true }]).stackOf 0).nextRun 0 = some { runIn .pending with det := true } ∧
    (let s := fab w0 ownTile [runIn .loading]
     (s.stackOf 0).runs.find? (fun r => r.rid = 0 && r.st = .loading) = some (runIn .loading) ∧
     (s.stackOf 0).hamper.find? (fun e => e.ix = (runIn .loading).entry) = some entry0 ∧ (runIn .loading).resumed = false) ∧
    (let r := { runIn .loading with resumed := true, image := [ownTile] }
     let s := fab w0 ownTile [r]
     (s.stackOf 0).runs.find? (fun r => r.rid = 0 && r.st = .loading) = some r ∧ (s.stackOf 0).hamper.find? (fun e => e.ix = r.entry) = some entry0 ∧
       r.image ≠ []) ∧
    loadedTile.has (List.replicate 9 0) = true ∧
    (let s := fab w0 ownTile [runIn .running]
     (s.stackOf 0).runs.find? (fun r => r.rid = 0 && r.st = .running) = some (runIn .running) ∧ (s.stackOf 0).flights = [] ∧
     ((s.stackOf 0).tile 0).edges = [] ∧ ((s.stackOf 0).tile 0).escape = none ∧ ((s.stackOf 0).tile 0).slots = [] ∧ ((s.stackOf 0).tile 0).recList = []) ∧
    (let s := fab w0 (recTile readRec { StreamSt.blank with phase := .done, drained := true } []) [runIn .running]
     ((s.stackOf 0).tile 0).recList.all (fun nr => let d := ((s.stackOf 0).tile 0).stream nr.1
       decide (d.phase = .done ∧ d.passEnd = false ∧ d.etail = false ∧ d.buf = [] ∧ d.drained = true)) = true) ∧
    (let s := fab w0 ownTile [runIn .draining]
     (s.stackOf 0).runs.find? (fun r => r.rid = 0 && r.st = .draining) = some (runIn .draining) ∧ (s.tile 0 0).fault = false ∧
     s.saveRoom 1 (runIn .draining).imageBytes = none ∧
     (s.updCtx 1 (fun c => { c with savePoolBytes := 0x20000 })).saveRoom 1 (runIn .draining).imageBytes = some 0) := by decide +kernel

/-- A group stopped by TRAP with a service number. -/
def calls (code : DWord) (sr : List (Nat × Word)) : State :=
  wit { placeGroup with stopped := true, trap := some { (default : TrapRec) with cause := 0x17, aux := code }, sr := sr }

/-- Translation in the witness state: a VA below 1 GiB reads through, and changes nothing. -/
theorem translate_low (va : DWord) (s : State) (h : va.toNat < 2 ^ 30) (ht : s.tlb = w0.tlb) :
    s.translate (.die 0) 1 va needRd = (s, .ok ⟨va.toNat, placeLeaf⟩) := by
  have hx : va.extractLsb' 57 7 = 0 := by
    apply BitVec.eq_of_toNat_eq
    have : va.toNat / 2 ^ 57 = 0 := Nat.div_eq_of_lt (by omega)
    rw [BitVec.extractLsb'_toNat, Nat.shiftRight_eq_div_pow, this]
    rfl
  have hs : va.toNat >>> 30 = 0 := by simpa [Nat.shiftRight_eq_div_pow] using Nat.div_eq_of_lt h
  have hf : s.tlbFind (.die 0) 1 va.toNat = some ⟨.die 0, 1, 0, 30, 0, placeLeaf, 3⟩ := by
    unfold State.tlbFind
    rw [ht]
    show List.find? _ [_, _, _] = _
    simp [List.find?, hs]
  have hm : va.toNat < 1073741824 := h
  simp only [State.translate, hx, tlbChain, List.findSome?, hf]
  simp [permits, needRd, placeLeaf, Nat.mod_eq_of_lt hm]

/-- A piece below 1 GiB is read whole. -/
theorem readPiece_low (s : State) (ht : s.tlb = w0.tlb) (hp : s.poison = []) (va : DWord) (k : Nat) (h : va.toNat < 2 ^ 30) :
    ∃ l, s.readPiece 0 1 va k = (s, some l) := by
  have ho : ownMemory va.toNat = true := by
    have : va.toNat < 549755813888 := by omega
    simp [ownMemory, region, this]
  refine ⟨(List.range k).map (fun i => s.byte (va.toNat + i)), ?_⟩
  simp [State.readPiece, translate_low va s h ht, ho, State.poisoned, hp]

/-- Pieces below 1 GiB are read whole. -/
theorem readPieces_low (s : State) (ht : s.tlb = w0.tlb) (hp : s.poison = []) :
    ∀ (ps : List (DWord × Nat)) (acc : List Byte), (∀ p ∈ ps, p.1.toNat < 2 ^ 30) → ∃ l, readPieces 0 1 ps s acc = (s, some l)
  | [], acc, _ => ⟨acc, rfl⟩
  | p :: ps, acc, h => by
    obtain ⟨l, hl⟩ := readPiece_low s ht hp p.1 p.2 (h p (by simp))
    simp only [readPieces, hl]
    exact readPieces_low s ht hp ps _ (fun q hq => h q (List.mem_cons_of_mem _ hq))

theorem witness_FabricServices :
    ((calls 0x40 []).calling ⟨0, 0, 0⟩ 0x40).isSome = true ∧
    (∀ q ∈ [0, 64], let s := { calls 0x40 [(1, 0x11)] with ctxs := put w0.ctxs 1 { Ctx.blank with valid := true, quota := q } }
      (s.ctxOf 1).quota = q ∧ s.tilesOf 1 = 0 ∧ 0 + 1 * 1 ≤ 64 ∧ 0 < 0 + 1 * 1 ∧ (s.stackOf 0).lent = [] ∧ (s.stackOf 0).runs = []) ∧
    ((Rect.mk 7 7 1 1).tiles.all (fun i => ((calls 0x40 [(1, 0x11)]).stackOf 0).grantable 1 i)) = true ∧
    (List.range 64).all (fun i => !(((calls 0x40 []).stackOf 0).tile i).ownV) = true ∧
    (∀ a ∈ [0x4011, 0x0000], 2 ^ 18 ≤ a ∨ a % 16 = 0 ∨ (a / 2048 % 2 = 0 ∧ a % 16 = 1)) ∧ (0xF822 / 2048 % 2 = 1 ∧ 8 < 0xF822 / 4096 % 8 + 0xF822 % 16) ∧
    (((fab (calls 0x40 [(1, 0x88)]) ownTile []).stackOf 0).grantable 1 0) = false ∧ 0 ∈ (Rect.mk 0 0 8 8).tiles ∧
    ((calls 0x41 []).calling ⟨0, 0, 0⟩ 0x41).isSome = true ∧ ((calls 0x42 []).calling ⟨0, 0, 0⟩ 0x42).isSome = true ∧
    (calls 0x42 []).ctxOfParty (.group ⟨0, 0, 0⟩) = 1 ∧ (calls 0x42 []).plat.trust.length < 1024 ∧ (calls 0x42 []).plat.keys = [] := by decide

/-- FTRUST's and FVERIFY's operands are read. -/
theorem witness_FabricServices_reads :
    (∃ l, (calls 0x41 [(2, 0x2000)]).readVa 0 1 0x2000 32 = (calls 0x41 [(2, 0x2000)], some l)) ∧
    ∃ l, (calls 0x42 [(4, 0x2000)]).readVa 0 1 0x2000 slhBytes = (calls 0x42 [(4, 0x2000)], some l) :=
  ⟨readPieces_low (calls 0x41 [(2, 0x2000)]) rfl rfl (sectorPieces 0x2000 32) [] (by decide +kernel),
   readPieces_low (calls 0x42 [(4, 0x2000)]) rfl rfl (sectorPieces 0x2000 slhBytes) [] (by decide +kernel)⟩

theorem witness_RegionCommands : 0 < w0.rangers.length ∧ 8 < w0.rangers.length ∧ w0.dev.fbrBusy = none ∧
    ((fab w0 ownTile []).stackOf 0).regionBy 0 = some (1, [0]) ∧ ((fab w0 ownTile []).tile 0 0).ownV = true ∧ ((fab w0 ownTile []).tile 0 0).ownCtx = 1 ∧
    (∀ st ∈ [RunSt.pending, .loading, .running, .draining, .drained], ((fab w0 ownTile [{ runIn st with rangerDrained := true }]).stackOf 0).run 0 0 =
      some { runIn st with rangerDrained := true }) ∧ (runIn .drained).rangerDrained = false ∧ ((fab w0 ownTile []).stackOf 0).run 0 0 = none ∧
    (∀ st ∈ [RunSt.loading, .running, .draining], st.holds = true) ∧ (runIn .pending).rid = ownTile.ownRid ∧
    ((fab w0 ownTile []).stackOf 0).lent = [] ∧ (({ Stack.blank with lent := [(0, 1, [0])] } : Stack).lent.any (fun l => l.1 = 0)) = true ∧
    (({ Stack.blank with lent := [(0, 1, [0])] } : Stack).tile 0).ownV = false ∧ Stack.blank.regionBy 0 = none ∧
    ((0x40000000 : Word).getLsbD 30 = true) ∧ ((0x80000001 : Word).getLsbD 31 = true) ∧
    ((0x80000001 : Word).getLsbD 30 = false) ∧ (0x80000001 : Word).toNat % 256 = 1 ∧ (0x70000000 : Word).toNat / 2 ^ 28 % 16 = 7 ∧
    ({ w0 with dev.fbrBusy := some (0, 0, 0) } : State).dev.fbrBusy = some (0, 0, 0) := by decide

/-- Tile 0 of stack 0. -/
abbrev t00 : TileId := { stack := 0, y := 0, x := 0 }

/-- Whether a stream's record can be worked on, with a condition. -/
def streamMeets (s : State) (k : FabRun → Rec → StreamSt → Bool) : Bool :=
  match s.streamAt t00 0 with
  | some (r, rc, d) => k r rc d
  | none => false

theorem witness_RegionCommands_streams :
    (∀ a ∈ [1, 2], let s := (fab w0 (recTile readRec { StreamSt.blank with phase := .stalled } []) [runIn .running]).answerFault t00 0 a
      streamMeets s (fun r _ d => decide (r.st = .running ∧ d.phase = .stalled ∧ d.answer = a)) = true) := by decide +kernel

/-- The witness state with Ranger 0's SYS.WSEL on the group. -/
def selects (g : Group) (waddr : Word) : State :=
  { wit g with rangers := { Ranger.blank with wsel := 0x8000, waddr := waddr } :: List.replicate 8 Ranger.blank }

theorem witness_WindowAccess : w0.selected 0 = none ∧ (selects placeGroup 0).selected 0 = some (⟨0, 0, 0⟩, placeGroup) ∧ placeGroup.stopped = false ∧
    (selects trapped 0).selected 0 = some (⟨0, 0, 0⟩, trapped) ∧ trapped.stopped = true ∧ 0 < (selects trapped 0).rangers.length ∧
    511 < placeGroup.alloc ∧ placeGroup.vPending 511 = false ∧ itemReadOnly 0x4120 = true ∧ itemReadOnly 0x4604 = true := by decide

theorem witness_GroupCommands : (selects placeGroup 0).selected 0 = some (⟨0, 0, 0⟩, placeGroup) ∧ placeGroup.run = none ∧
    (let g := { placeGroup with run := some ⟨1, 0x1008, true, false, [0, 0]⟩ }
     (selects g 0).selected 0 = some (⟨0, 0, 0⟩, g) ∧ g.run ≠ none ∧ g.stopped = false) ∧
    twice trapped.live trapped.tab = false ∧ (((selects trapped 0).setWstat 0 0).resumeGroup ⟨0, 0, 0⟩).grp? (.group ⟨0, 0, 0⟩) ≠ none ∧
    (let g := { trapped with trap := some { (default : TrapRec) with fatal := true } }
     (selects g 0).selected 0 = some (⟨0, 0, 0⟩, g)) ∧
    ((selects placeGroup 0).blockOf ⟨0, 0, 0⟩).isSome = true ∧ (selects placeGroup 0).sched.saveOps = [] ∧
    (let v : SavedSet := ⟨1, 0, 0, true, false, [], 0, 0, [], 0, false, []⟩
     let s := { selects placeGroup 0 with sched.saved := [v] }
     s.sched.saved = [v] ∧ v.ticket = (s.rg 0).waddr.setWidth 16 ∧ v.restoring = false) ∧
    6 ≤ (6 : Word).toNat % 16 ∧
    (let s := { w0 with plat.trapq := [[⟨0, 0, 0⟩], []] }
     nth [] s.plat.trapq (partyDie (.ranger 0)) = [⟨0, 0, 0⟩]) := by decide

theorem witness_TranslationInvalidation : 8 < w0.rangers.length ∧ (∀ m ∈ [0, 1, 2], (BitVec.ofNat 32 (1 + 4 * m)).toNat % 2 = 1 ∧
      (BitVec.ofNat 32 (1 + 4 * m)).toNat / 4 % 4 = m) ∧ w0.dev.tlbiRun = none ∧
    (∀ m ∈ [0, 1, 2], let s := { w0 with dev.tlbiRun := some (BitVec.ofNat 32 (1 + 4 * m), 0) }
      s.dev.tlbiRun.isSome = true ∧ s.tlbiHeld (BitVec.ofNat 32 (1 + 4 * m)) 0 = false) ∧
    (witWave []).tlbiHeld (BitVec.ofNat 32 9) 0 = true ∧
    (0xD : Word).getLsbD 0 = true ∧ (0xD : Word).toNat / 4 % 4 = 3 ∧
    performs (witRanger [(5, 0xD)]) [.syswr (fs 5 0x212)] = true := by decide

theorem witness_HostAccesses_words : (w0.bar0Read 0x100048 4).isSome = true ∧ (w0.bar0Write 0x100048 4 0).isSome = true ∧
    w0.bar2Span 0x2000 4 = some [0x2000, 0x2001, 0x2002, 0x2003] ∧ w0.bar2Span (2 ^ 40) 1 = some [ctBase] ∧ 4 ≤ 4096 ∧ 4 ≤ 512 := by decide +kernel

/-! ### Host, platform, fabric events -/

/-- Mailbox 0 enabled, with slot 0 in a state. -/
def mb0 (m : MbSlot) : State := { w0 with plat.mailboxes := [(0, { (w0.mb 0) with en := true, slots := [(0, m)] })] }

theorem witness_HostAccesses : (0 < 256 ∧ 255 < 256) ∧ w0.plat.bootFailed = false ∧
    ((mb0 .free).mb 0).en = true ∧ ((mb0 .free).mb 0).slot 0 = .free ∧ ((mb0 .free).mb 0).rptr = 0 ∧ (w0.mb 255).en = false ∧
    ((mb0 .reserved).mb 0).slot ((mb0 .reserved).mb 0).cptr = .reserved ∧ ((mb0 .reserved).mb 0).cptr = 0 ∧ (0x80000000 : Word).toNat % 2 ^ 31 = 0 ∧
    (1 : Word).toNat % 256 ≠ 0 ∧ (124 % 4 = 0 ∧ 120 % 8 = 0 ∧ 124 < 128) ∧
    1 < w0.plat.logs.length ∧ ((nth ErrLog.blank w0.plat.logs 1).head - 0).toNat ≤ 64 ∧ 64 < ((nth ErrLog.blank w0.plat.logs 1).head - 1).toNat ∧
    0x100048 % 4 = 0 ∧ w0.plat.mgstat ≠ 1 ∧ ({ w0 with plat.mgstat := 1 } : State).plat.mgstat = 1 ∧ 0x130002 % 4 ≠ 0 ∧
    w0.plat.bar2Log = 42 ∧ 0x2000 + 4 ≤ 2 ^ 39 ∧ (List.range 4).all (fun i => !w0.lineOwned (0x2000 + i) && !w0.poisoned (0x2000 + i)) = true := by decide

/-- A management command that runs, with its arguments. -/
def manages (cmd : Word) (args : List DWord) : State := { w0 with plat := { w0.plat with mgstat := 1, mgcmd := cmd, mgargs := args } }

/-- Every command, running. -/
theorem witness_ManagementCommands_runs (c : Word) (l : List DWord) : (manages c l).plat.mgstat = 1 ∧ (manages c l).plat.mgcmd = c ∧
    (manages c l).plat.mgargs = l := ⟨rfl, rfl, rfl⟩

theorem witness_ManagementCommands : ((manages 1 [2, 0, 0, 0]).ctxOf 2).valid = false ∧ (manages 1 [2, 0, 0, 0]).quarantined 2 = false ∧ ((manages 1 [1, 0, 0, 0]).ctxOf 1).valid = true ∧
    (0x3FFF : Nat) < 2 ^ 14 ∧ 0xFFFFFFFFFF000 % 2 ^ 12 = 0 ∧ 0xFFFFFFFFFF000 < 2 ^ 52 ∧ ((manages 2 [1, 0, 0, 0]).ctxOf 1).valid = true ∧
    0x01000000 / 2 ^ 24 = 1 ∧ 2047 < 2048 ∧ 0xFF % 2 ^ 32 < 256 ∧ (16 % 32 ≤ 16 ∧ 16 / 32 % 8 = 0 ∧ 0x1FF10 < 2 ^ 17) ∧
    ({ manages 9 [0x2000, 0, 0, 0] with plat.bootstat := 0x80 } : State).plat.bootstat.getLsbD 7 = true ∧ (0x80 : Word).getLsbD 8 = false ∧
    (0x180 : Word).getLsbD 8 = true ∧ 0x2000 % 32 = 0 ∧ w0.plat.keys.length < 16 ∧ (List.range 32).all (fun i => !w0.poisoned (0x2000 + i)) = true ∧
    0x20000FF % 2 ^ 16 < 256 ∧ 0x20000FF / 2 ^ 16 ≤ 512 ∧ 10 < (11 : Word).toNat ∧ region 0x2000 = .hbm 0 ∧
    16 ≤ ({ manages 9 [0x2000, 0, 0, 0] with plat.keys := List.replicate 16 0 } : State).plat.keys.length ∧
    ¬ 1 = 0 ∧ ¬ (0x800 < 2048 ∨ 0x800 = 0xFFFF) ∧ ¬ 17 % 32 ≤ 16 ∧ ¬ 4096 < 4096 := by decide +kernel

theorem witness_ResetAndBringup : (0x5 : Word).toNat % 4 = 1 ∧ ({ State.reset with plat.bootstat := 0x5 } : State).plat.bootstat.toNat % 4 = 1 ∧
    State.reset.rangers.length = 9 ∧ State.reset.plat.mrs.length = 8 ∧ State.reset.plat.crs = true ∧
    ({ State.reset with plat.crs := false } : State).plat.crs = false ∧ 30 ≤ 30 ∧ 42 ≤ 42 := by decide

/-- The witness state after bring-up, with segment 0 exposed to port 3. -/
def up : State := { w0 with plat := { w0.plat with crs := false, bootFailed := false, spdmReady := true, exposed := [(3, 0)] } }

theorem witness_PlatformEvents : up.plat.crs = false ∧ up.plat.bootFailed = false ∧ up.plat.spdmReady = true ∧ w0.plat.spdmReady = false ∧ 7 < 8 ∧
    191 < 192 ∧ 3 < 4 ∧ 3 ∉ up.plat.linksDown ∧ up.exposedTo 3 0x2000 4 = true ∧ up.exposedTo 4 0x2000 4 = false ∧
    (List.range 4).all (fun i => !up.lineOwned (0x2000 + i) && !up.poisoned (0x2000 + i)) = true ∧ region 0x2000 = .hbm 0 ∧ region ctBase = .ct := by decide

theorem witness_PlatformEvents_peer : up.exposedTo 3 0x2000 16 = true ∧ up.exposedTo 3 0x8000 64 = true ∧
    (∀ q ∈ [PeerRequest.load 0x2000 4, .store 0x2000 [0], .arrive 0x2000 1], up.exposedTo 4 (peerSpan q).1 (peerSpan q).2 = false) ∧
    0x2000 % atomBytes 0 = 0 ∧ (up.atomBytes (.ranger 0) (up.atHome 0x2000) 0 5).2.isSome = true ∧
    (match (pokes up [(0x2000, 4, 1)]).arrive 0 0 ((pokes up [(0x2000, 4, 1)]).atHome 0x2000) 1 with
      | .done _ => true
      | _ => false) = true ∧
    (match up.bindAt 0x8000 0x8000 1 false with
      | .ok _ => true
      | _ => false) = true ∧
    (match up.bindAt 0x8000 0x8000 1 true with
      | .fault _ => true
      | _ => false) = true ∧ (0x8000 : DWord).toNat % 64 = 0 ∧
    up.plat.crs = false ∧ ({ up with plat.crs := true } : State).plat.crs = true ∧ ({ up with plat.bootFailed := true } : State).plat.bootFailed = true := by decide +kernel

/-- A data token of 16 lanes, head and tail of its burst. -/
def tok0 : Token := { (default : Token) with ctx := 1, h := true, t := true, val := 32, scl := 127, payload := 1 }

/-- A tile with one node, some of whose three inputs each hold that token. -/
def nodeTile (w : DWord) (d : NodeSt) (ps : List Nat) : Tile :=
  { ownTile with nodes := w :: List.replicate 15 0, node := d :: List.replicate 15 NodeSt.blank, edges := ps.map (fun p => (p, [tok0])) }

/-- The word of a node of an operation, with a parameter base of 1. -/
def nodeWord (op : Nat) : DWord := BitVec.ofNat 64 (op * 2 ^ 56 + (if op = 0xD4 then 0x8000000000 else 0) + 2 ^ 16)

/-- The node's context. -/
def nodeCtx (w : DWord) : NodeCtx := ⟨0, w, runIn .running, false⟩

/-- Every input that the tile's list names is fed. -/
theorem fed (w : DWord) (d : NodeSt) (ps qs : List Nat) (h : ∀ p ∈ qs, (nodeTile w d ps).queue (3 * 0 + p) ≠ []) : FedAt (nodeTile w d ps) 0 qs := h

/-- What the kinds of node need, on tiles whose inputs hold tokens. -/
theorem witness_NodeFirings_ready :
    (∀ op ∈ [0x04, 0x43, 0x22], ReadyElem (nodeCtx (nodeWord op)) (nodeTile (nodeWord op) .blank [0, 1, 2])) ∧
    ReadyElem (nodeCtx (nodeWord 0x44)) (nodeTile (nodeWord 0x44) .blank [0, 1]) ∧
    ReadySource (nodeCtx (nodeWord 0xD3)) (nodeTile (nodeWord 0xD3) .blank [0]) ∧
    ReadySource (nodeCtx (nodeWord 0xD4)) (nodeTile (nodeWord 0xD4) { NodeSt.blank with owed := true } []) ∧
    ReadyData (nodeCtx (nodeWord 0xD6)) (nodeTile (nodeWord 0xD6) .blank [0, 2]) ∧
    ReadyMerge (nodeCtx (nodeWord 0xD1)) (nodeTile (nodeWord 0xD1) .blank [0]) ∧
    ReadyMerge (nodeCtx (nodeWord 0xD1)) (nodeTile (nodeWord 0xD1) { NodeSt.blank with path := some 1 } [1]) ∧
    ReadyMman (nodeCtx (nodeWord 0xD8)) (nodeTile (nodeWord 0xD8) .blank [0]) ∧
    ReadyMman (nodeCtx (nodeWord 0xD8)) (nodeTile (nodeWord 0xD8) { NodeSt.blank with aend := true } [1]) := by
  refine ⟨?_, ⟨fed _ _ _ _ (by decide), by decide⟩, .inl ⟨by decide, fed _ _ _ _ (by decide)⟩, .inr ⟨by decide, .inr (by decide), fun h => absurd h (by decide)⟩,
    ⟨fed _ _ _ _ (by decide), fun _ => fed _ _ _ _ (by decide)⟩, ⟨0, fed _ _ _ _ (by decide), .inr ⟨by decide, .inl ⟨by decide, by decide⟩⟩⟩,
    ⟨1, fed _ _ _ _ (by decide), .inl (by decide)⟩, .inl ⟨by decide, fed _ _ _ _ (by decide)⟩, .inr ⟨by decide, fed _ _ _ _ (by decide)⟩⟩
  intro op h
  simp only [List.mem_cons, List.not_mem_nil, or_false] at h
  rcases h with rfl | rfl | rfl <;> exact ⟨fed _ _ _ _ (by decide), by decide⟩

/-- The hypotheses about a node's firing but for what its kind needs, at a node of an operation, and that its body fires. -/
def firesAt (op : Nat) (ps : List Nat) (body : NodeCtx → Tile → Option Fire) : Bool :=
  let s := fab w0 (nodeTile (nodeWord op) { NodeSt.blank with owed := (0xD3 ≤ op && op ≤ 0xD5) } ps) [runIn .running]
  let tl := s.tile 0 (tileIx t00)
  let d := tl.nodeSt 0
  match s.moving 0 (tileIx t00) with
  | some r => decide (tl.word 0 ≠ 0 ∧ nwOp (tl.word 0) = op ∧ d.frozen = false ∧ r.isSealed (tl.domain 0) = false ∧ d.out = [] ∧ d.skip = [] ∧ d.errs = []) &&
      (tl.paths (tl.word 0)).all (fun p => (s.stackOf 0).credit (.node 0 0 0) p) && decide (s.gatherHeld t00 0 < 64) &&
      (body ⟨0, tl.word 0, r, (s.stackOf 0).fedBy r (tileIx t00) 0⟩ tl).isSome
  | none => false

theorem witness_NodeFirings :
    firesAt 0x04 [0, 1] elementwiseBody = true ∧ firesAt 0x43 [0, 1, 2] elementwiseBody = true ∧ firesAt 0x22 [0, 1, 2] elementwiseBody = true ∧
    firesAt 0xD3 [] (sourceBody (fun t w _ => constToken t w)) = true ∧ firesAt 0xD4 [] (sourceBody (fun t w d => countToken t w d.pos)) = true ∧
    firesAt 0xD5 [] (fun c => sourceBody (fun t w d => genToken t w c.run d.adv d.pos) c) = true ∧
    firesAt 0xD0 [0, 2] steerBody = true ∧ firesAt 0xD1 [0] mergeBody = true ∧ firesAt 0xD2 [0, 2] filterBody = true ∧ firesAt 0xD6 [0] accBody = true ∧
    firesAt 0xD7 [0] bfpsumBody = true ∧ firesAt 0xD8 [0] mmanBody = true ∧ firesAt 0xD9 [0, 1] topknBody = true ∧ firesAt 0xDA [0] passBody = true ∧
    firesAt 0xDB [0] passBody = true ∧ firesAt 0xDC [0] sinkBody = true ∧ firesAt 0x44 [2] tableBody = true ∧ firesAt 0x44 [0, 1] elementwiseBody = true ∧
    (let s := fab w0 (nodeTile 0xD600000000000000 { NodeSt.blank with out := [(15, tok0)] } []) [runIn .running]
     (s.moving 0 0).isSome = true ∧ ((s.tile 0 0).nodeSt 0).out ≠ [] ∧ nwOp ((s.tile 0 0).word 0) = 0xD6 ∧ ((s.tile 0 0).nodeSt 0).frozen = false ∧
     (s.moving 0 0).map (fun r => (r.isSealed ((s.tile 0 0).domain 0), (s.emitNode 0 r 0 0).isSome)) = some (false, true)) ∧
    (let d := { NodeSt.blank with errs := [2, 1] }
     d.out = [] ∧ d.skip = [] ∧ minNat d.errs = some 1) := by decide +kernel

/-- A tile that can fire: no token in the escape buffer, node slot 0 there, and tokens at the inputs, by position. -/
def fireable (t : Tile) (l : List (Nat × Token)) : Bool :=
  t.escape.isNone && decide (0 < t.node.length) && l.all (fun p => (t.queue p.1).head? == some p.2)

theorem witness_NodeRules :
    (let w := nodeWord 0x04
     let t := nodeTile w .blank [0, 1]
     nwGrd w = false ∧ nwPrm w = false ∧ isUnary (nwOp w) = false ∧ nwOp w ≠ 0x22 ∧ nwOp w ≠ 0x44 ∧ isPred (nwOp w) = false ∧
       fireable t [(0, tok0), (1, tok0)] = true ∧ tok0.e = false ∧ tok0.val % 2 = 0 ∧ tok0.val ≤ 32 ∧ (t.nodeSt 0).out = []) ∧
    nwTy 0xD400000000000000 ≠ 2 ∧ 16 * 0 + 15 < (({ Tile.blank with params := [0, 1, 16] } : Tile).param (0 + 2)).toNat ∧
    (nwGrd (nodeWord 0xDC) = false ∧ fireable (nodeTile (nodeWord 0xDC) .blank [0]) [(0, tok0)] = true) ∧
    -- sources: a trigger's tail, an owed burst's next token, and a clear P token of a guarded burst
    (fireable (nodeTile (nodeWord 0xD3) .blank [0]) [(0, tok0)] = true ∧ NodeSt.blank.owed = false) ∧
    (nwGrd (nodeWord 0xD3) = false ∧ fireable (nodeTile (nodeWord 0xD3) { NodeSt.blank with owed := true } []) [] = true ∧ (runIn .running).st ≠ .draining) ∧
    (let w := nodeWord 0xD3 ||| (1 <<< 55)
     nwGrd w = true ∧ fireable { nodeTile w { NodeSt.blank with owed := true } [2] with edges := [(2, [{ tok0 with payload := 0 }])] }
       [(2, { tok0 with payload := 0 })] = true ∧ ({ tok0 with payload := 0 } : Token).payload.getLsbD 0 = false) ∧
    -- STEER with and without a path, FILTER with its bit set and clear, MERGE with an open burst and with none
    (fireable (nodeTile (nodeWord 0xD0) .blank [0, 2]) [(0, tok0), (2, tok0)] = true ∧ NodeSt.blank.path = none) ∧
    fireable (nodeTile (nodeWord 0xD0) { NodeSt.blank with path := some 4 } [0]) [(0, tok0)] = true ∧
    (fireable (nodeTile (nodeWord 0xD2) .blank [0, 2]) [(0, tok0), (2, tok0)] = true ∧ tok0.payload.getLsbD 0 = true) ∧
    (let t := { nodeTile (nodeWord 0xD2) .blank [] with edges := [(0, [{ tok0 with t := false }]), (2, [{ tok0 with payload := 0 }])] }
     fireable t [(0, { tok0 with t := false }), (2, { tok0 with payload := 0 })] = true) ∧
    fireable (nodeTile (nodeWord 0xD1) { NodeSt.blank with path := some 1 } [1]) [(1, tok0)] = true ∧
    (nwSub (nodeWord 0xD1) = 0 ∧ NodeSt.blank.turn = false ∧ fireable (nodeTile (nodeWord 0xD1) .blank [0]) [(0, tok0)] = true) ∧
    -- ACC and BFPSUM with and without an open burst, MMAN's L token, and its last R token
    (nwGrd (nodeWord 0xD6) = false ∧ nwTy (nodeWord 0xD6) ≠ 2 ∧ tok0.h = true ∧ fireable (nodeTile (nodeWord 0xD6) .blank [0]) [(0, tok0)] = true) ∧
    (let a := { tok0 with h := false, t := false }
     let t := { nodeTile (nodeWord 0xD6) { NodeSt.blank with lanes := List.replicate 16 0 } [] with edges := [(0, [a])] }
     fireable t [(0, a)] = true ∧ (t.nodeSt 0).lanes.length = 16 ∧ a.e = false) ∧
    (let a := { tok0 with t := false }
     let t := { nodeTile (nodeWord 0xD8) .blank [] with edges := [(0, [a])] }
     nwGrd (nodeWord 0xD8) = false ∧ fireable t [(0, a)] = true ∧ (t.nodeSt 0).aend = false ∧ (t.nodeSt 0).abuf.length < 2 * mfmtBits (mmanFmt (nodeWord 0xD8))) ∧
    (let w := nodeWord 0xD8 ||| (4 <<< 32)
     let full := 2 * mfmtBits (mmanFmt w)
     let b := { tok0 with h := false }
     let d := { NodeSt.blank with aend := true, abuf := List.replicate full 0, bbuf := List.replicate (full - 1) 0 }
     let t := { nodeTile w d [] with edges := [(1, [b])] }
     fireable t [(1, b)] = true ∧ t.queue 0 = [] ∧ b.t = true ∧ d.bend = false ∧ d.abuf.length = full ∧ d.bbuf.length + 1 = full ∧ d.cnt + 1 < nwImm w) ∧
    -- TOPKN within a burst and at its end, and a table token
    (let a := { tok0 with t := false }
     fireable { nodeTile (nodeWord 0xD9) .blank [] with edges := [(0, [a]), (1, [a])] } [(0, a), (1, a)] = true) ∧
    (fireable (nodeTile (nodeWord 0xD9) .blank [0, 1]) [(0, tok0), (1, tok0)] = true ∧ (nodeTile (nodeWord 0xD9) .blank [0, 1]).topkPoison = false) ∧
    (let t := nodeTile (nodeWord 0x44) .blank [2]
     fireable t [(2, tok0)] = true ∧ t.pq.wf = true ∧ 512 * (nwImm (nodeWord 0x44) / 256 % 32) + 4 * ((t.nodeSt 0).pos + tok0.val / 2) ≤ 16384) := by decide +kernel

/-- The witness run with a token on its way to input L of node 0 of tile 0. -/
def flying (t : Tile) (tok : Token) (r : FabRun) (held : Bool) : State :=
  let s := fab w0 t [r]
  s.updStack 0 (fun k => { k with flights := [⟨.node 1 0 0, 0, 0, 0, .node 0 0, tok, held⟩] })

/-- A tile whose L buffer of node 0 is full. -/
def fullTile : Tile := { ownTile with edges := [(0, List.replicate 8 tok0)] }

/-- The record's command pending: whether the watchdog may expire on tile 0. -/
def pendingCommand (s : State) : Bool := (s.tile 0 0).recList.any (fun nr => (s.tile 0 0).commanding (runIn .running) nr &&
  !(runIn .running).isSealed ((s.stackOf 0).recDomain (runIn .running) 0 nr.1))

theorem witness_TokenEvents :
    (let f : Flight := ⟨.node 1 0 0, 0, 0, 0, .node 0 0, tok0, false⟩
     let s := flying ownTile tok0 (runIn .running) false
     (s.stackOf 0).flights[0]? = some f ∧ firstOfArc (s.stackOf 0).flights 0 f = true ∧ blockedAt (s.stackOf 0).flights 0 f = false ∧
     (s.tile 0 0).ownV = true ∧ BitVec.ofNat 8 (s.tile 0 0).ownCtx = tok0.ctx ∧
     (s.stackOf 0).activeAt 0 = some (runIn .running) ∧ (runIn .running).isSealed ((s.stackOf 0).destDomain (runIn .running) 0 f.dest) = false ∧
     ({ runIn .running with sealed_ := 0xFFFF } : FabRun).isSealed ((s.stackOf 0).destDomain (runIn .running) 0 f.dest) = true ∧
     tok0.d = false ∧ ({ tok0 with d := true } : Token).d = true ∧ ((s.tile 0 0).queue (destKey f.dest)).length < 8) ∧
    ((flying Tile.blank tok0 (runIn .running) false).tile 0 0).ownV = false ∧ ((flying Tile.blank tok0 (runIn .running) false).stackOf 0).holderAt 0 = some (runIn .running) ∧
    (default : Token).ctx ≠ 1 ∧
    (let f : Flight := ⟨.node 1 0 0, 0, 0, 0, .node 0 0, tok0, true⟩
     let s := flying fullTile tok0 (runIn .running) true
     (s.stackOf 0).flights[0]? = some f ∧ firstOfArc (s.stackOf 0).flights 0 f = true ∧ blockedAt (s.stackOf 0).flights 0 f = false ∧ f.held = true ∧
     8 ≤ ((s.tile 0 0).queue (destKey f.dest)).length ∧ (s.tile 0 0).escape = none ∧ (s.stackOf 0).activeAt 0 ≠ none ∧
     BitVec.ofNat 8 (s.tile 0 0).ownCtx = tok0.ctx) ∧
    (let s := fab w0 (recTile readRec { StreamSt.blank with phase := .active } []) [runIn .running]
     s.moving 0 (tileIx t00) = some (runIn .running) ∧ (s.tile 0 0).wdKept.getD ((s.stackOf 0).fbctl.getLsbD 20) = false ∧ 0 < s.fabrics.length ∧ tileIx t00 < (s.stackOf 0).tiles.length ∧
     pendingCommand s = true ∧ (s.stackOf 0).tiles.length = 64 ∧ (s.stackOf 0).counting 0 = true ∧ (s.stackOf 0).counting 1 = false ∧
     (s.stackOf 0).holderAt 0 = some (runIn .running)) ∧
    lookD 0 (w0.tile 0 0).catchup 0 = 0 ∧ 15 < 16 ∧ fullTile.queue 0 ≠ [] ∧ (fullTile.queue 1).length ≤ 0 := by decide +kernel

/-- A run whose footprints cover 0x3000 to 0x30FF. -/
def runFp (st : RunSt) : FabRun := { runIn st with fpR := [(0x3000, 0x100)], fpW := [(0x3000, 0x100)] }

/-- A GATHER record of 32-bit elements from 0x3000. -/
def gatherRec : BitVec 512 := readRec ||| BitVec.ofNat 512 (2 * 2 ^ 64)

/-- The witness state with record 0 of tile 0 in a state, in a run. -/
def streaming (rc : BitVec 512) (d : StreamSt) (toks : List Token) (st : RunSt) : State :=
  fab w0 (recTile rc d (if toks = [] then [] else [(48, toks)])) [runFp st]

/-- Whether a record's elements are all there. -/
def filled (s : State) (tok : Option Token) : Bool := streamMeets s (fun r rc d => match (fillFrom 0 r rc s (readOffsets rc d tok) d).2 with
  | .ready => true
  | _ => false)

theorem witness_StreamEvents :
    ([readRec, writeRec].all (fun rc =>
     let s := streaming rc { StreamSt.blank with phase := .walking, va := 0x3000 } [] .running
     streamMeets s (fun r rc d => decide (d.phase = .walking) && okAt 0x3000 (s.translate (.stack 0) r.ctx d.va (streamNeed 0 rc.writes)))) = true) ∧
    (recOf readRec).writes = false ∧ (recOf writeRec).writes = true ∧
    (let s := streaming readRec { StreamSt.blank with phase := .walking, va := 0x40000000 } [] .running
     streamMeets s (fun r rc d => match s.translate (.stack 0) r.ctx d.va (streamNeed 0 rc.writes) with
       | (_, .error f) => decide (f.cause = 0x06)
       | _ => false) = true) ∧
    (let s := { streaming writeRec { StreamSt.blank with phase := .walking, va := 0x3000 } [] .running with
       tlb := [⟨.stack 0, 1, 0, 30, 0, placeLeaf &&& ~~~8#64, 3⟩] }
     streamMeets s (fun r rc d => match s.translate (.stack 0) r.ctx d.va (streamNeed 0 rc.writes) with
       | (_, .error f) => decide (f.cause = 0x07)
       | _ => false) = true) ∧
    (∀ ph ∈ [0, 1], let s := streaming gateRec { StreamSt.blank with phase := .waiting, gate := BitVec.ofNat 32 ph } [] .running
     streamMeets s (fun r rc d => decide (d.phase = .waiting ∧ r.st = .running ∧ d.retry = false) &&
       (match s.translate (.die 0) r.ctx (resolveVa r.bases rc.gbar) needRd with
         | (s1, .ok tr) => (s1.gatePhase 0 r.ctx tr.pa).2 == some 0
         | _ => false)) = true) ∧
    (let s := streaming readRec { StreamSt.blank with phase := .active } [] .running
     streamMeets s (fun r rc d => decide (rc.mode = 0 ∧ r.st = .running ∧ d.phase = .active ∧ d.etail = false ∧ (s.tile 0 0).computeOff = false ∧
       (s.tile 0 0).catchup = [] ∧ s.recCredit t00 0 rc = true)) = true ∧ filled s none = true) ∧
    (let s := streaming gatherRec { StreamSt.blank with phase := .active } [tok0] .running
     streamMeets s (fun r rc d => decide (rc.mode = 2 ∧ r.st = .running ∧ d.phase = .active ∧ d.etail = false ∧ (s.tile 0 0).computeOff = false ∧
       (s.tile 0 0).catchup = [] ∧ s.recCredit t00 0 rc = true ∧ (s.tile 0 0).queue 48 = [tok0] ∧ tok0.e = false)) = true ∧ filled s (some tok0) = true) ∧
    (let s := streaming readRec { StreamSt.blank with phase := .active, etail := true } [] .running
     streamMeets s (fun r rc d => decide (rc.sends = true ∧ r.st = .running ∧ d.phase = .active ∧ (s.tile 0 0).computeOff = false ∧ d.etail = true)) = true) ∧
    (∀ ph ∈ [StreamPh.active, .done], let s := streaming readRec { StreamSt.blank with phase := ph } [] .draining
     streamMeets s (fun r rc d => decide (rc.sends = true ∧ r.st = .draining ∧ d.phase ≠ .walking ∧ s.recMarked t00 0 r = true ∧ d.seq = 0 ∧ d.buf = [] ∧
       d.etail = false ∧ rc.mode = 0 ∧ s.recCredit t00 0 rc = true)) = true) ∧
    (∀ tok ∈ [tok0, { tok0 with t := false }, { tok0 with e := true }], let s := streaming writeRec { StreamSt.blank with phase := .active } [tok] .running
     streamMeets s (fun r rc d => decide (rc.writes = true ∧ r.st = .running ∧ d.phase = .active ∧ d.passEnd = false ∧ (s.tile 0 0).computeOff = false ∧
       (s.tile 0 0).queue 48 = [tok]) && (match (writeFrom 0 r rc (if tok.e then [] else writeElems rc d tok) d s).2.2 with
         | .ready => true
         | _ => false)) = true) ∧
    (let s := streaming writeRec { StreamSt.blank with phase := .active, passEnd := true } [] .running
     streamMeets s (fun _ rc d => d.passEnd && !rc.gate) = true) ∧
    (∀ k ∈ [none, some true], let s := (streaming readRec StreamSt.blank [] .running).updTile 0 0 (fun x => { x with wdKept := k })
      (s.tile 0 0).wdKept = k ∧ (s.stackOf 0).counting 0 = false) := by decide +kernel

theorem witness_GateRecords : (recOf gateRec).gate = true ∧ (recOf gateRec).gbar = 0x2000 ∧ (recOf writeRec).mode = 1 ∧ (recOf readRec).cnt = [16, 1, 1, 1] := by decide +kernel

/-- v4 := v5, v6 := v7, both halves always. -/
def dual0 : Dual := ⟨false, ⟨1, 4, 5, 7, false, false, false, false⟩, ⟨1, 6, 7, 7, false, false, false, false⟩⟩

theorem witness_DualWords_waits :
    (∀ t, t = true ∨ t = false → issued (wit { placeGroup with vEmpty := [7] }) (.dualWord { dual0 with h1 := { dual0.h1 with ht := t } })
      (fun x => (x.g.pget 7 &&& x.mask) != 0 && x.g.vEmpty = [7]) = true) ∧
    issued (wit { placeGroup with marks := [⟨2, 0x8000, 0x10, 1⟩] }) (.dualWord dual0) (fun x => (x.g.pget 7 &&& x.mask) != 0 && x.g.vEmpty = []) = true ∧
    dual0.h0.hd = 4 ∧ dual0.h1.hs = 7 ∧ dual0.h1.imm = false := by decide

theorem witness_DualWords : issued w0 (.dualWord dual0) (fun x => decide (readiness x.g (specDual dual0).ops = .go ∧ markFault x.g (specDual dual0).ops = none) &&
      (x.g.pget 7 &&& x.mask) ||| (x.g.pget 7 &&& x.mask) != 0) = true ∧
    issued w0 (.dualWord { dual0 with h0 := { dual0.h0 with hg := 3 }, h1 := { dual0.h1 with hg := 3 } }) (fun x => x.g.pget 3 &&& x.mask == 0) = true ∧
    placeGroup.v.wf = true := by decide

/-- The witness group within a run. -/
def inRun (words : Nat) : Group := { placeGroup with run := some ⟨words, 0x1000, true, false, []⟩ }

theorem witness_StepRunsDecoded_ends : (∀ n ∈ [0, 22, 23], issued (wit (inRun n)) (.nop (fv 0 0 0 0 0)) (fun x =>
      decide (x.g.tab = [⟨x.pc, x.mask, .ready, 0, false, true⟩] ∧ x.mask ≠ 0 ∧ x.g.run = some ⟨n, 0x1000, true, false, []⟩ ∧ x.b = false ∧ isControl x.op = false)) = true) ∧
    issued (wit (inRun 0)) (.nop { fv 0 0 0 0 0 with b := true }) (fun x => x.b) = true ∧
    issued (wit (inRun 0)) (.bra (fb 0 2)) (fun x => isControl x.op && x.active != 0) = true ∧
    ((wit (inRun 0)).issueOf (.bra { fb 0 2 with g := 3 })).any (fun x => isControl x.op && isBranch x.op && x.active == 0) = true := by decide

theorem witness_DecodeEncode : (Instr.iadd (fv 2 4 6 0 0)).legal = true ∧ (encode (.iadd (fv 2 4 6 0 0))).isSome = true ∧
    (decode 0x011C008080600000).isSome = true := by decide

/-- The witness group about to issue the word placed at 0x1000. -/
def about : State := { placeWord State.reset 64 0x011C0180C0700021 with tlb := w0.tlb }

/-- A party's turn that finds no run and starts one: its head and the words of its run, from the loop buffer or not. -/
def starts (s : State) (p : Party) (hit : Bool) (words : Nat) : Bool :=
  match s.grp? p with
  | some g => s.mayIssue p g && decide (g.run = none ∧ s.boundary p = s ∧ g.stopReq = false) && (match g.head with
      | .entry e => !g.held e && decide ((s.next.loopCopy p e.pc).isSome = hit ∧
          ((s.next.loopCopy p e.pc).getD (s.next.codeFrom p words e.pc)).head?.isSome = decide (words ≠ 0))
      | _ => false)
  | none => false

/-- A Ranger whose next word is the address of an entry of the error log, a NOP's word: memory of no run's copy. -/
def atLog : State :=
  let r : Ranger := { Ranger.blank with running := true, grp := { Ranger.blank.grp with live := 1, tab := [⟨0xFFF8000110048, 1, .ready, 0, false, true⟩] } }
  { w0 with rangers := r :: List.replicate 8 Ranger.blank
            plat.logs := [⟨1, 0, 0, [(0, ⟨1, 0, 0, 0x005C000000000000, 0, 0⟩)]⟩, ⟨0, 0, 0, []⟩], agenda := [.ranger 0] }

theorem witness_StepRunsDecoded :
    (let s0 := { about with agenda := [] }
     about.agenda = [.issue 0 0] ∧ about.frozen = false ∧ s0.arbitrate 0 0 = some ⟨0, 0, 0⟩ ∧ starts s0 (.group ⟨0, 0, 0⟩) false 1 = true ∧
     starts { s0 with loops := [⟨0, 0, 1, 0x1000, [0x011C0180C0700021]⟩] } (.group ⟨0, 0, 0⟩) true 1 = true ∧
     (decode 0x011C0180C0700021).isSome = true ∧
     okAt 0x1000 (about.translate (partyTlb (.group ⟨0, 0, 0⟩)) (about.ctxOfParty (.group ⟨0, 0, 0⟩)) 0x1000 needEx) = true ∧
     about.code = [] ∧ about.poisoned 0x1000 = false ∧ ownMemory 0x1000 = true ∧ about.rdc = [] ∧ (about.codeFrom (.group ⟨0, 0, 0⟩) (0 + 1) 0x1000).length = 1) ∧
    (starts atLog (.ranger 0) false 0 = true ∧ atLog.codeFrom (.ranger 0) 24 0xFFF8000110048 = [] ∧ (match State.fetch atLog (.ranger 0) 0xFFF8000110048 with
      | (_, .ok w) => (decode w).isSome
      | _ => false) = true) ∧
    (let g := { placeGroup with run := some ⟨1, 0x1000, false, false, [0, 0x011C0180C0700021]⟩ }
     let s := wit g
     s.mayIssue (.group ⟨0, 0, 0⟩) g = true ∧ (g.tab.find? (fun e => e.pc = 0x1000 && e.st = .ready)).isSome = true ∧
       [0, (0x011C0180C0700021 : DWord)][1]? = some 0x011C0180C0700021) ∧
    (match ({ w0 with agenda := [.event .dispatcherCycle] } : State).agenda with
      | .event e :: _ => decide (e = .dispatcherCycle)
      | _ => false) = true ∧
    steps { w0 with agenda := [.event .dispatcherCycle] } = true := by decide +kernel

theorem witness_MemoryStaysCanonical : Memory.wf about.mem = true ∧ steps about = true := by decide +kernel

/-- A machine whose system Ranger has given the freeze command. -/
def freezing : State := { State.reset with plat.mgstat := 1, plat.mgcmd := 8, plat.mgargs := [0xF2EE, 0, 0, 0] }

theorem witness_FrozenModule_command : freezing.plat.mgstat = 1 ∧ freezing.plat.mgcmd = 8 ∧ freezing.mgArg 0 = 0xF2EE ∧
    (∀ i ∈ [1, 2, 3], freezing.mgArg i = 0) := by decide

theorem witness_FrozenModule_reset : ({ w0 with agenda := [.event (.coldReset true false)] } : State).agenda = .event (.coldReset true false) :: [] := rfl

theorem witness_NopWord : ((wit (inRun 0)).issueOf (.nop (fv 0 0 0 0 0))).any (fun x => decide (x.g.tab = [⟨x.pc, x.mask, .ready, 0, false, true⟩] ∧
      x.mask ≠ 0 ∧ x.g.run = some ⟨0, 0x1000, true, false, []⟩)) = true ∧
    ((wit (inRun 22)).issueOf (.nop { fv 0 0 0 0 0 with b := true, g := 0 })).isSome = true ∧
    (Instr.nop (fv 0 0 0 0 0)).legal = true ∧ (Instr.nop { fv 0 0 0 0 0 with b := true, g := 0 }).legal = true ∧
    (w0.issueOf (.nop { fv 0 0 0 0 0 with g := 15 })).isSome = true ∧ (Instr.nop { fv 0 0 0 0 0 with g := 15 }).legal = false ∧
    (w0.issueOf (.nop (fv 0 0 0 0 1))).isSome = true ∧ (Instr.nop (fv 0 0 0 0 1)).legal = false := by decide

theorem witness_HomeDies : (0x7FFFFFFFFF : Nat) < 0x8000000000 ∧ homeDie 0x3FFFFFFFFF = 0 ∧ homeDie 0x4000000000 = 1 ∧
    homeDie 0x7FFFFFFFFF = 1 ∧ homeDie (0x1000000000000 + 0x17FFFFFFFFF) = 0 ∧ homeDie (0x1000000000000 + 0x18000000000) = 1 ∧
    homeDie (0x1000000000000 + 0x2FFFFFFFFFF) = 1 := by decide +kernel

theorem witness_FrozenModule : ({ w0 with frozen := true, agenda := [.issue 0 0] } : State).frozen = true ∧
    ∀ p sec rest, ({ w0 with frozen := true, agenda := [.issue 0 0] } : State).agenda ≠ .event (.coldReset p sec) :: rest :=
  ⟨rfl, fun _ _ _ h => by cases h⟩

/-! ## Single steps -/

/-- The group that a meaning leaves in the witness state, with a condition. -/
def after (s : State) (i : Instr) (k : State → Group → Bool) : Bool :=
  match exec i s with
  | .next t => match t.grp? (.group ⟨0, 0, 0⟩) with
    | some g => k t g
    | none => false
  | _ => false

/-- 17 R388: the sum wraps, and with SAT it is clamped with IOV. -/
theorem test_iadd_wraps : after (wvs [(128, 0xFFFFFFFF), (192, 1)] []) (.iadd (fv 2 4 6 0 0)) (fun _ g => g.vget 2 0 == 0 && g.fpflags == 0) = true ∧
    after (wvs [(128, 0x7FFFFFFF), (192, 1)] []) (.iadd (fv 2 4 6 0 0x01)) (fun _ g => g.vget 2 0 == 0x7FFFFFFF && g.fpflags != 0) = true := by decide

/-- 17 R388: a source that is also the destination is read first, and the high half of −1 × −1 is 0 signed. -/
theorem test_imul_same_register : after (wvs [(128, 3)] []) (.imul (fv 4 4 4 0 0)) (fun _ g => g.vget 4 0 == 9 && g.vget 4 1 == 0) = true ∧
    after (wvs [(128, 0xFFFFFFFF)] []) (.imulh (fv 2 4 4 0 0)) (fun _ g => g.vget 2 0 == 0) = true := by decide

/-- 19 R419: a shift by the width shifts everything out, and SAR leaves the sign. -/
theorem test_shift_by_width : after (wvs [(128, 0x80000001), (192, 32)] []) (.shl (fv 2 4 6 0 0)) (fun _ g => g.vget 2 0 == 0) = true ∧
    after (wvs [(128, 0x80000001), (192, 32)] []) (.sar (fv 2 4 6 0 0)) (fun _ g => g.vget 2 0 == 0xFFFFFFFF) = true := by decide

/-- 04 R84: 1 + 2^-24 ties to even. -/
theorem test_fadd_ties_to_even : after (wvs [(128, 0x3F800000), (192, 0x33800000)] []) (.fadd (fv 2 4 6 0 0x100)) (fun _ g => g.vget 2 0 == 0x3F800000) = true := by
  decide

/-- 14 R309: BRA counts words from its own; a lane whose guard fails goes on. -/
theorem test_bra_splits : after (wit { placeGroup with preds := List.replicate 7 1 }) (.bra { fb 0 4 with g := 2 })
    (fun _ g => g.tab.map (fun e => (e.pc, e.mask)) == [(0x1008, 0xFFFFFFFE), (0x1020, 1)]) = true := by decide

/-- 18 R395: a store is little-endian, and the storing core's loads see it. -/
theorem test_store_little_endian : after (wit { placeGroup with v := Sparse.setAll [] (vAddr 4), sr := [] }) (.st (fm 4 4 0x240 0))
    (fun t _ => (t.loadBytes (.group ⟨0, 0, 0⟩) ⟨0x2004, placeLeaf⟩ 1).2 == some 0x04 && (t.loadBytes (.group ⟨0, 0, 0⟩) ⟨0x2004, placeLeaf⟩ 4).2 == some 0x2004) = true := by decide +kernel

/-- 16 R342: 32 lanes add 1 to one word. -/
theorem test_atomic_add : after (wvs ((List.range 32).map (fun l => (64 + l, 1)) ++ vAddr 0) []) (.atom (fm 2 4 0x40 0))
    (fun t _ => t.homeRead 0x2000 4 == 32) = true := by decide +kernel

/-- 05 R111: the line of a page that a leaf with MS maps is memory-side, another is not. -/
theorem test_ms_line : (let s := { State.reset with mem := [(8, 1), (9, 0x10), (0x1000, 1), (0x1001, 0x20), (0x2000, 1), (0x2001, 0x30), (0x3000, 0x43), (0x3003, 0x40)] }
    s.msLine 0x40000005 = true ∧ s.msLine 0x80000000 = false ∧ wordOfCells 0x1000 (s.mem.drop 2) = BitVec.ofNat 64 (s.homeRead 0x1000 8)) := by decide

/-- 12 R268: TRAP stops the group with its code, at the word. -/
theorem test_trap_record : after w0 (.trap (fv 0 0 0 0 5)) (fun t g => g.stopped && t.plat.trapq.headD [] == [⟨0, 0, 0⟩] &&
    (match g.trap with
      | some r => r.cause == 0x17 && r.aux == 5 && r.pc == 0x1000 && r.lanes == 0xFFFFFFFF
      | none => false)) = true := by decide

/-- 15 R330: a group's read of a Ranger's register traps with PRIV and the register's number. -/
theorem test_privilege : after w0 (.sysrd (fs 5 0x200)) (fun _ g => (g.trap.map (fun r => (r.cause, r.aux))) == some (0x19, 0x200)) = true := by decide

/-- 20: a placed EXIT runs as the first word after a load, and the group is gone. -/
theorem test_placed_exit_steps : (match step (State.withFetchWord State.reset 64 0x9D1C000000000000) with
    | .next t => decide (t.blocks = [])
    | _ => false) = true := by decide +kernel

/-- 12 R287: a frozen module does not move. -/
theorem test_frozen : (match step { w0 with frozen := true, agenda := [.event .dispatcherCycle] } with
    | .next t => decide (t.blocks = w0.blocks ∧ t.agenda = [])
    | _ => false) = true := by decide

/-! ## More witnesses: the clauses on what is not there yet, what is refused, and what recurs -/

/-- A call of a service with a producer in flight for s0. -/
def callsBusy (code : DWord) : State :=
  wit { placeGroup with stopped := true, trap := some { (default : TrapRec) with cause := 0x17, aux := code }
                        pend := [{ (default : Producer) with id := 9, sregs := [0] }] }

theorem witness_FabricServices_busy :
    ((callsBusy 0x40).calling ⟨0, 0, 0⟩ 0x40).any (fun g => g.sPending 0) = true ∧
    (∀ s ∈ [callsBusy 0x43, calls 0x7F []], ∃ code ∈ [0x43, 0x7F], ∃ g r, s.calling ⟨0, 0, 0⟩ code = some g ∧ s.grp? (.group ⟨0, 0, 0⟩) = some g ∧
      g.trap = some r ∧ r.aux = BitVec.ofNat 64 code ∧ g.sPending 0 = decide (code = 0x43)) := by
  refine ⟨by decide, ?_⟩
  intro s hs
  simp only [List.mem_cons, List.not_mem_nil, or_false] at hs
  obtain rfl | rfl := hs
  · exact ⟨0x43, by decide, _, _, by decide, rfl, rfl, rfl, by decide⟩
  · exact ⟨0x7F, by decide, _, _, by decide, rfl, rfl, rfl, by decide⟩

theorem witness_GroupCommands_join :
    ((selects placeGroup 0).blockOf ⟨0, 0, 0⟩).any (fun b => decide (b.launch = 1 ∧ b.cset = 0)) = true ∧
    (({ selects placeGroup 0 with sched.saveOps := [⟨2, 0, [], false⟩, ⟨1, 0, [4], true⟩] } : State).sched.saveOps =
      [⟨2, 0, [], false⟩] ++ (⟨1, 0, [4], true⟩ : SaveOp) :: []) := by decide

/-- A cluster set that the dispatcher saves, one group of it stopped. -/
def haltedState : State :=
  { savingState with blocks := [{ placeBlock with groups := [{ placeGroup with saving := true, stopped := true }] }]
                     sched := { savingState.sched with saveOps := [⟨1, 0, [], false⟩] } }

theorem witness_RucksackEvents_more :
    (∀ s ∈ [savingState, haltedState], canSave (s.setBlocks 1 0) = true ∧ s.setBlocks 1 0 ≠ [] ∧ s.copies = [] ∧
      ((s.setBlocks 1 0).all (fun b => b.groups.all (fun g => g.pend.all (fun q => q.header.isNone)))) = true) ∧
    ((haltedState.setBlocks 1 0).any (fun b => b.groups.any (fun g => decide (g.live ≠ 0) && g.stopped))) = true ∧
    (let hd := ((haltedState.launchOf 1).map (fun l => l.hdr)).getD default
     (haltedState.saveRoom hd.ctx (sum ((haltedState.setBlocks 1 0).map (imageBytes hd)))).isSome = true) ∧
    (savingState.sched.saveOps.find? (fun o => o.launch = 1 && o.cset = 0)) = some ⟨1, 0, [0], false⟩ ∧
    (haltedState.sched.saveOps.find? (fun o => o.launch = 1 && o.cset = 0)) = some ⟨1, 0, [], false⟩ ∧
    w0.sched.saveOps = [] := by decide

/-- A load in flight that its word issued at a VA. -/
def loading : Producer :=
  { (default : Producer) with id := 9, kind := .load, vregs := [5], fills := true, site := some ⟨0x1000, 0, 1, [0x2000]⟩ }

theorem witness_TrapEvents_sites :
    (let g := { placeGroup with pend := [loading] }
     (wit g).grp? (.group ⟨0, 0, 0⟩) = some g ∧ g.stopped = false ∧ g.live ≠ 0 ∧
       (wit g).unanswered (.group ⟨0, 0, 0⟩) g 0x2000 = some ⟨0x1000, 0, 1, [0x2000]⟩ ∧
       g.pend = [] ++ loading :: [] ∧ (wit g).unanswered (.group ⟨0, 0, 0⟩) g 0x3000 = none) ∧
    (w0.siteHere (.group ⟨0, 0, 0⟩) placeGroup).isSome = true := by decide +kernel

theorem witness_LaunchCompletes_barfault :
    (match w0.arrive 0 1 ⟨0x2000, placeLeaf⟩ 1 with
      | .barfault _ => true
      | _ => false) = true ∧
    (match ({ w0 with poison := [0x200] } : State).arrive 0 1 ⟨0x2000, placeLeaf⟩ 1 with
      | .poison _ => true
      | _ => false) = true := by decide

theorem witness_BarrierWords_barfault : w0.poisoned 0x2000 = false ∧ w0.homeRead 0x2000 4 = 0 ∧
    (pokes w0 [(0x2000, 4, 1), (0x200C, 4, 1)]).homeRead 0x200C 4 ≠ 0 ∧
    (let s := pokes w0 [(0x2000, 4, 1)]
     s.homeRead 0x2000 4 < s.homeRead 0x2004 4 + 2) ∧
    (let s := pokes w0 [(0x2000, 4, 1), (0x2004, 4, 1)]
     s.homeRead 0x2004 4 + 0 ≤ s.homeRead 0x2000 4) := by decide

theorem witness_TierSteps_tables :
    (let s := tierState ctBase
     movesOne (s.lookTables 0 1 0x50000) = true ∧ moveEnds (s.lookTables 0 1 0x50000) none = true) ∧
    ((tierState 0x70000).lookTables 0 1 0x50000).pageAt 1 true 0x50000 = .moved 0x70000 ∧
    (w0.lookTables 0 1 0x50000).pageAt 1 true 0x50000 = .bad 3 ∧
    moveEnds ((pokes (tierState ctBase) [(0x20004, 4, 0)]).lookTables 0 1 0x50000) (some 1) = true ∧
    (let s := { tierDone none .free with blocks := [], sched.saved := [⟨1, 0, 0, false, false, [], 0, 0, [placeBlock], 0, false, []⟩] }
     s.tiers.all (fun t => t.kind && s.blockSaved t.blk) = true) := by decide +kernel

theorem witness_PoolWords_more :
    performs w0 [.rgive (fv 0 0 0 0 0), .rclaim (fv 0 0 0 0 0)] = true ∧
    (performs (wit { placeGroup with alloc := 504 }) [.rgive (fv 0 0 0 0 63)] = true ∧ 504 < 8 * 63 + 8) ∧
    (performs w0 [.rclaim (fv 0 0 0 0 1)] = true ∧ (w0.blockOf ⟨0, 0, 0⟩).map (fun b => decide (8 * (w0.hdrOfBlock b).rmaxq < 512 + 8)) = some true) ∧
    (let s := wit { placeGroup with pend := [{ loading with vregs := [511] }] }
     performs s [.rgive (fv 0 0 0 0 1)] = true ∧ ({ placeGroup with pend := [{ loading with vregs := [511] }] } : Group).vPending (512 - 8 + 7) = true) ∧
    (∀ free ∈ [0, 8], let c : List Claim := if free = 0 then [] else [⟨3, 8⟩]
     let s := { w0 with blocks := [{ placeBlock with free := free, claims := c, groups := [{ placeGroup with alloc := 504 }] }] }
     performs s [.rclaim (fv 0 0 0 0 1)] = true ∧ (s.blockOf ⟨0, 0, 0⟩).any (fun b => decide (504 + 8 ≤ 8 * (s.hdrOfBlock b).rmaxq) &&
       (b.claims.all (fun c => c.gix != 0)) && (decide (b.claims ≠ []) || decide (b.free < 8))) = true) := by decide

theorem witness_IssueChecks_looks :
    checked { placeGroup with sEmpty := [4] } (.bcopy { fv 0 4 0 0 0 with ta := true }) (fun x => isUniform x.op && x.g.role.may x.op &&
      decide (x.g.live = x.g.present ∧ x.mask = x.g.live ∧ x.active = x.g.live) &&
      (bufFault (w0.sbufsOf x.party) (specOf (.bcopy { fv 0 4 0 0 0 with ta := true })).ops).isNone &&
      (match readiness x.g (specOf (.bcopy { fv 0 4 0 0 0 with ta := true })).ops with
        | .trap _ => true
        | _ => false)) = true ∧
    checked { placeGroup with sEmpty := [4] } (.bcopy (fv 0 4 0 0 0)) (fun x => isUniform x.op && decide (x.active = x.g.live) &&
      decide (readiness x.g (specOf (.bcopy (fv 0 4 0 0 0))).ops = .wait)) = true ∧
    issued (wit { placeGroup with vEmpty := [4] }) (.accwr (fv 2 4 6 0 0)) (fun x => x.g.vEmpty == [4]) = true ∧
    issued (wit { placeGroup with marks := [⟨2, 0x8000, 0x10, 1⟩] }) (.accwr (fv 2 4 6 0 0)) (fun x => decide (accWindow (x.g.sget 6).toNat = some (0, 1, 0)) &&
      (regFault x.g [4]).isSome && x.g.gmmas.isEmpty) = true := by decide

/-- The wave of two, only lane 0 of it at its word, with a lane gone or a register empty. -/
def waveAt (live mask : LaneMask) (empty : List Nat) (marks : List FaultMark) : State :=
  let s := witWave []
  let g := fun (g : Group) => { g with live := live, tab := [⟨0x1000, mask, .ready, 0, false, true⟩], vEmpty := empty, marks := marks }
  { s with potluck.waves := s.potluck.waves.map (fun w => { w with grp := g w.grp }), cur := some ⟨.wave ⟨0, 0⟩ 0, 0x1000, mask, false, 0⟩ }

/-- Whether a batch's end comes to its checks, with a condition. -/
def endsBatch (s : State) (f : FmtV) (k : Issue → Bool) : Bool := [Instr.ocommit f, .oabort f].all (fun i => match s.issueOf i with
  | some x => i.legal && !partyIllegal x.party i x.op && !partyForbids x.party i x.op && (rangeFault x.g (specOf i).ops).isNone &&
      decide (x.active ≠ 0) && (s.waveOf x.party).isSome && k x
  | none => false)

theorem witness_WaveWords_ends :
    endsBatch (waveAt 1 1 [] []) (fv 0 4 0 0 0) (fun x => x.g.live != x.g.present) = true ∧
    endsBatch (waveAt 3 1 [4] []) { fv 0 4 0 0 0 with ta := true } (fun x => x.g.live == x.g.present && x.mask != x.g.live) = true ∧
    endsBatch (waveAt 3 3 [4] []) { fv 0 4 0 0 0 with ta := true } (fun x => x.g.live == x.g.present && x.mask == x.g.live && x.g.role.may x.op &&
      (match readiness x.g (specOf (.ocommit { fv 0 4 0 0 0 with ta := true })).ops with
        | .trap _ => true
        | _ => false)) = true ∧
    endsBatch (waveAt 3 3 [4] []) (fv 0 4 0 0 0) (fun x => x.mask == x.g.live &&
      decide (readiness x.g (specOf (.ocommit (fv 0 4 0 0 0))).ops = .wait)) = true ∧
    endsBatch (waveAt 3 3 [] [⟨2, 0x8000, 0x10, 1⟩]) (fv 0 4 0 0 0) (fun x => x.mask == x.g.live &&
      decide (readiness x.g (specOf (.ocommit (fv 0 4 0 0 0))).ops = .go) && (markFault x.g (specOf (.ocommit (fv 0 4 0 0 0))).ops).isSome) = true := by decide

theorem witness_ControlWords_more :
    (let g := { placeGroup with marks := [⟨2, 0x8000, 0x10, 1⟩] }
     performs (wit g) [.exit (fv 0 0 0 0 0)] = true ∧ g.marks = ⟨2, 0x8000, 0x10, 1⟩ :: []) ∧
    issued (wvs [(128, 0x2001), (131, 0x2004)] []) (.brx (fv 0 4 0 0 0)) (fun x =>
      (List.range 32).all (fun l => hasLane 9 l == (x.lanes.contains l && decide ((x.g.vpair 4 l).toNat % 8 ≠ 0)))) = true := by decide

theorem witness_MatrixWords_more :
    (let s := wvs [] [(6, 9)]
     issued s (.gangset (fv 0 4 6 0 0)) (fun x => decide (8 < (x.g.sget 6).toNat ∧ x.g.marks = [] ∧ 4 ∉ x.g.vEmpty))) = true ∧
    (∀ k ∈ List.range 8, genKind (BitVec.ofNat 256 k) = k) ∧
    (∃ g : Gen, genAdditive g = true ∧ 5 ≤ genKind g) ∧
    (∃ g : Gen, ∃ m e neg, fp32.value (genParam g) = .fin neg m e) :=
  ⟨by decide, by decide, ⟨BitVec.allOnes 256, by decide⟩, ⟨0, _, _, _, rfl⟩⟩

/-- Each block of a product follows from the one before. -/
theorem witness_MatrixWords_blocks (step : Nat → Nat → Nat) (c0 : Nat) : ∃ c : Nat → Nat, c 0 = c0 ∧ ∀ kb, c (kb + 1) = step kb (c kb) :=
  ⟨fun n => Nat.rec c0 step n, rfl, fun _ => rfl⟩

/-- The levels of a tree and the steps of a scan follow from their inputs. -/
theorem witness_CrossLaneWords_levels {α : Type} (step : Nat → (Nat → α) → Nat → α) (x0 : Nat → α) :
    ∃ x : Nat → Nat → α, x 0 = x0 ∧ ∀ k i, x (k + 1) i = step k (x k) i :=
  ⟨fun n => Nat.rec x0 step n, rfl, fun _ _ => rfl⟩

end Sys2Proof.Tests
end

section
/-! Proofs about the physical map: the die that homes an address (05 R109), its L2 slice and its Potluck unit (06 R139). -/

namespace Sys2Proof.Machine

/-! ## Bit fields -/

theorem testBit_bits (x lo n k : Nat) : (bits x lo n).testBit k = (decide (k < n) && x.testBit (lo + k)) := by
  rw [bits, Nat.testBit_mod_two_pow, Nat.testBit_shiftRight]

/-! ## The home die -/

theorem homeDie_hbm {pa : Nat} (h : pa < 0x8000000000) : homeDie pa = if pa / 2 ^ 36 < 4 then 0 else 1 := by
  rw [homeDie, region, if_pos h]

theorem region_ct {off : Nat} (h : off < 0x30000000000) : region (ctBase + off) = .ct := by
  have above : ¬ ctBase + off < 0x8000000000 := by simp only [ctBase]; omega
  have inside : (decide (ctBase ≤ ctBase + off) && decide (ctBase + off < ctBase + 0x30000000000)) = true := by
    simpa using h
  rw [region, if_neg above, if_pos inside]

theorem homeDie_ct {off : Nat} (h : off < 0x30000000000) :
    homeDie (ctBase + off) = if off < 0x18000000000 then 0 else 1 := by
  rw [homeDie, region_ct h, Nat.add_sub_cancel_left]

/-- The stack number is the three-bit field that R109's table reads: an HBM address has no bit above it. -/
theorem bits_stack {pa : Nat} (h : pa < 0x8000000000) : bits pa 36 3 = pa / 2 ^ 36 := by
  rw [bits, Nat.shiftRight_eq_div_pow]
  exact Nat.mod_eq_of_lt (by omega)

/-! ## The slice -/

/-- The bits of a slice number, each the exclusive or of one bit of every field; a field has six. -/
theorem testBit_l2Slice (pa k : Nat) : (l2Slice pa).testBit k = (decide (k < 6) &&
    ((pa % 2 ^ 52).testBit (6 + k) ^^ (pa % 2 ^ 52).testBit (12 + k) ^^ (pa % 2 ^ 52).testBit (18 + k) ^^
      (pa % 2 ^ 52).testBit (24 + k) ^^ (pa % 2 ^ 52).testBit (30 + k) ^^ (pa % 2 ^ 52).testBit (36 + k) ^^
      (pa % 2 ^ 52).testBit (42 + k) ^^ (pa % 2 ^ 52).testBit (48 + k))) := by
  have fields : List.range 8 = [0, 1, 2, 3, 4, 5, 6, 7] := rfl
  simp only [l2Slice, fields, List.foldl_cons, List.foldl_nil, Nat.testBit_xor, testBit_bits, Nat.zero_testBit]
  cases decide (k < 6) <;> simp

theorem l2Slice_lt (pa : Nat) : l2Slice pa < 64 := by
  refine Nat.lt_pow_two_of_testBit (n := 6) _ fun k hk => ?_
  rw [testBit_l2Slice, decide_eq_false (Nat.not_lt.mpr hk), Bool.false_and]

theorem l2Slice_mod (pa : Nat) : l2Slice (pa % 2 ^ 52) = l2Slice pa := by
  rw [l2Slice, l2Slice, Nat.mod_mod]

/-- Settles O54: the die by the two ranges of the physical map, the slice bit by bit, and the address worked out in 06 R139. -/
theorem homeDies : Obligations.HomeDies := by
  refine ⟨fun pa h => ?hbm, fun off h => ?ctLow, fun off hlo hhi => ?ctHigh, fun pa => ⟨rfl, rfl, l2Slice_lt pa⟩,
    fun pa k hpa hk => ?sliceBit, fun pa => (l2Slice_mod pa).symm, by decide, by decide⟩
  case hbm => rw [homeDie_hbm h, bits_stack h]
  case ctLow => exact (homeDie_ct (by omega)).trans (if_pos h)
  case ctHigh => exact (homeDie_ct hhi).trans (if_neg (Nat.not_lt.mpr hlo))
  case sliceBit => rw [testBit_l2Slice, decide_eq_true hk, Bool.true_and, Nat.mod_eq_of_lt hpa]

end Sys2Proof.Machine
end

section
/-! Proofs about `nop` (18 R403): the fields of a format V word (14 R303), a word's illegal encoding and its clear guard at issue
(14 R302, R313), and where a party's only entry and its run go when a word retires (03 R48, R50). -/

namespace Sys2Proof.Machine

/-! ## Format V words -/

/-- The fields of a format V word side by side (14 R303), its width written as the sum of theirs, which the library's lemmas about
concatenation look for. -/
def vFields (op : BitVec 8) (f : FmtV) : BitVec (1 + 1 + 8 + 4 + 1 + 1 + 1 + 9 + 9 + 9 + 9 + 11) :=
  bit f.b ++ 0#1 ++ op ++ f.g ++ bit f.ta ++ bit f.tb ++ bit f.tc ++ f.dst ++ f.sa ++ f.sb ++ f.sc ++ f.fn

theorem extractLsb'_vWord (op : BitVec 8) (f : FmtV) (lo n : Nat) :
    (vWord op f).extractLsb' lo n = (vFields op f).extractLsb' lo n := rfl

theorem getLsbD_vWord (op : BitVec 8) (f : FmtV) (i : Nat) : (vWord op f).getLsbD i = (vFields op f).getLsbD i := rfl

theorem vWord_not_dual (op : BitVec 8) (f : FmtV) : (vWord op f).getLsbD 62 = false := by
  simp only [getLsbD_vWord, vFields, BitVec.getLsbD_append]
  rfl

theorem vWord_op (op : BitVec 8) (f : FmtV) : (vWord op f).extractLsb' 54 8 = op := by
  rw [extractLsb'_vWord, vFields]
  simp (disch := omega) only [BitVec.extractLsb'_append_eq_of_le, BitVec.extractLsb'_append_eq_of_add_le]
  exact BitVec.extractLsb'_eq_self

/-- The fields of a format V word are those it was made of. -/
theorem vOf_vWord (op : BitVec 8) (f : FmtV) : vOf (vWord op f) = f := by
  obtain ⟨b, g, ta, tb, tc, dst, sa, sb, sc, fn⟩ := f
  simp only [vOf, extractLsb'_vWord, getLsbD_vWord, vFields, FmtV.mk.injEq]
  refine ⟨?b, ?g, ?ta, ?tb, ?tc, ?dst, ?sa, ?sb, ?sc, ?fn⟩
  case b | ta | tb | tc =>
    simp only [BitVec.getLsbD_append]
    simp [bit]
  case g | dst | sa | sb | sc | fn =>
    simp (disch := omega) only [BitVec.extractLsb'_append_eq_of_le, BitVec.extractLsb'_append_eq_of_add_le]
    exact BitVec.extractLsb'_eq_self

theorem decode_vWord_nop (f : FmtV) : decode (vWord 0x01 f) = if (Instr.nop f).legal then some (.nop f) else none := by
  have parsed : parse (vWord 0x01 f) = some (.nop f) := by
    rw [parse, if_neg (ne_true_of_eq_false (vWord_not_dual _ f)), vWord_op]
    exact congrArg (fun v => some (Instr.nop v)) (vOf_vWord _ f)
  rw [decode, parsed]

theorem Slot.none_legal_iff (x : BitVec 9) : Slot.none.legal x.toNat = true ↔ x = 0 := by
  rw [Slot.legal, decide_eq_true_eq, ← BitVec.toNat_inj]
  rfl

/-- A legal `nop` has no field beside B and a guard other than 0b1111 (14 R313). -/
theorem nop_legal_iff (f : FmtV) : (Instr.nop f).legal = true ↔ f.g ≠ 15 ∧ f.ta = false ∧ f.tb = false ∧ f.tc = false ∧
    f.dst = 0 ∧ f.sa = 0 ∧ f.sb = 0 ∧ f.sc = 0 ∧ f.fn = 0 := by
  simp only [Instr.legal, specOf, specV, Slot.hasEmpty, Bool.and_eq_true, Bool.or_false, Bool.not_eq_true', bne_iff_ne,
    decide_eq_true_eq, Slot.none_legal_iff]
  tauto

/-! ## A word at issue -/

/-- A word at issue: an issuing party, a lane word, and the issue made of them. -/
theorem issueOf_cases {i : Instr} {s : State} {x : Issue} (h : s.issueOf i = some x) :
    ∃ (c : Cur) (hd : Hdr) (g : Group), s.cur = some c ∧ hdrOf i = some hd ∧ s.grp? c.party = some g ∧
      x = { party := c.party, pc := c.pc, mask := c.mask, df := c.df, word := c.word, b := hd.b, op := hd.op, g := g
            active := if hd.op = 0x100 then c.mask else guardLanes g hd.g c.mask, ctx := s.ctxOfParty c.party } := by
  unfold State.issueOf at h
  split at h
  next c hd hc hh =>
    obtain ⟨g, hg, hx⟩ := Option.map_eq_some_iff.1 h
    exact ⟨c, hd, g, hc, hh, hg, hx.symm⟩
  next => simp at h

/-- An illegal encoding traps with ILLOP, whatever its guard (14 R313). -/
theorem laneWord_illegal {i : Instr} {s : State} {x : Issue} (h : s.issueOf i = some x) (hi : i.legal = false)
    (body : Issue → State → State) :
    laneWord i body s = .next (trapWord x (causeOf 0x01) (decodeLanes x.g x.op x.active x.mask) s) := by
  obtain ⟨c, hd, g, hc, hh, hg, rfl⟩ := issueOf_cases h
  have hok : (specOf i).ok = false := hi
  simp [laneWord, issueWord, hc, hh, hg, hok]

/-- A word that its party may issue and that its guard lets no lane perform goes on to the next word (14 R302). -/
theorem laneWord_inactive {i : Instr} {s : State} {x : Issue} (h : s.issueOf i = some x) (hi : i.legal = true)
    (hp : partyIllegal x.party i x.op = false) (hr : rangeFault x.g (specOf i).ops = none) (hu : isUniform x.op = false)
    (ha : x.active = 0) (body : Issue → State → State) : laneWord i body s = .next (retire x x.g s) := by
  obtain ⟨c, hd, g, hc, hh, hg, rfl⟩ := issueOf_cases h
  have hok : (specOf i).ok = true := hi
  simp only at hp hr hu ha
  simp [laneWord, issueWord, hc, hh, hg, hok, hp, hr, hu, ha]

/-! ## The end of a word -/

/-- A party's only entry moves on to the next PC with its lanes, DEF clear (03 R48). -/
theorem advance_only_entry {g : Group} {pc : DWord} {m : LaneMask} {pm : BitVec 4} {d : Bool}
    (ht : g.tab = [⟨pc, m, .ready, pm, d, true⟩]) (hm : m ≠ 0) (df : Bool) (npc : DWord) :
    (g.advance pc m df [(m, npc)]).tab = [⟨npc, m, .ready, 0, false, true⟩] := by
  have hm' : m ≠ 0#32 := hm
  simp [Group.advance, ht, hm', insReady, insEntry, wakeUniform]

/-- The run that a word which retires leaves: none where the word ends it or is its 24th (03 R50). -/
def retiredRun (x : Issue) : Option Run :=
  if x.last || decide (24 ≤ (x.g.run.map (fun r => r.words)).getD 0 + 1) then none
  else x.g.run.map (fun r => { r with words := (x.g.run.map (fun r => r.words)).getD 0 + 1, pc := x.pc + 8 })

/-- A word that retires changes the table and the run of the registers it leaves, and nothing else. -/
theorem retire_eq (x : Issue) (g : Group) (s : State) : retire x g s = s.setGrp x.party
    { g with tab := (g.advance x.pc x.mask x.df [(x.mask, x.pc + 8)]).tab, run := retiredRun x } := by
  simp only [retire, endWord, retiredRun, Bool.or_false]
  split <;> rfl

theorem retiredRun_of_last {x : Issue} (h : x.last = true) : retiredRun x = none := by
  simp [retiredRun, h]

theorem retiredRun_of_not_last {x : Issue} {r : Run} (h : x.last = false) (hr : x.g.run = some r) (hw : r.words < 23) :
    retiredRun x = some { r with words := r.words + 1, pc := x.pc + 8 } := by
  have room : ¬ 24 ≤ r.words + 1 := by omega
  simp [retiredRun, h, hr, room]

/-! ## The word `nop` -/

theorem nop_issue {f : FmtV} {s : State} {x : Issue} (h : s.issueOf (.nop f) = some x) : x.op = 0x01 ∧ x.b = f.b := by
  obtain ⟨c, hd, g, -, hh, -, rfl⟩ := issueOf_cases h
  obtain rfl : ⟨0x01, f.b, f.g⟩ = hd := Option.some.inj hh
  exact ⟨rfl, rfl⟩

/-- Every party may issue `nop`. -/
theorem nop_party (p : Party) (f : FmtV) : partyIllegal p (.nop f) 0x01 = false ∧ partyForbids p (.nop f) 0x01 = false := by
  cases p <;> exact ⟨rfl, rfl⟩

/-- A legal `nop` names no register and suits every party and role, so that it performs wherever its guard lets some lane. -/
theorem nop_performs {f : FmtV} {x : Issue} (hop : x.op = 0x01) (hl : (Instr.nop f).legal = true) (ha : x.active ≠ 0) (s : State) :
    x.performs (.nop f) s = true := by
  have hok : (specOf (.nop f)).ok = true := hl
  have noOps : (specOf (.nop f)).ops = [] := rfl
  obtain ⟨hi, hf⟩ := nop_party x.party f
  have uniform : isUniform 0x01 = false := rfl
  have lanes : (x.active != 0) = true := bne_iff_ne.2 ha
  have range : rangeFault x.g [] = none := rfl
  have noFault : entryFault x [] s = none := by rw [entryFault, hop]; rfl
  have ready : readiness x.g [] = .go := rfl
  have marks : markFault x.g [] = none := by simp [markFault, regFault]
  simp only [Issue.performs, hok, noOps, hop, hi, hf, uniform, lanes, range, noFault, ready, marks, Option.isNone_none, decide_true,
    Bool.not_false, Bool.and_true, Bool.or_true, Bool.true_or]

/-- A legal `nop` retires, whether its guard lets some lane perform it or none. -/
theorem exec_nop_legal {f : FmtV} {s : State} {x : Issue} (h : s.issueOf (.nop f) = some x) (hl : (Instr.nop f).legal = true) :
    exec (.nop f) s = .next (retire x x.g s) := by
  obtain ⟨hop, -⟩ := nop_issue h
  by_cases ha : x.active = 0
  case pos => exact laneWord_inactive h hl (by rw [hop]; exact (nop_party x.party f).1) rfl (by rw [hop]; rfl) ha _
  case neg =>
    have issued : s.issues (.nop f) = some x := by simp [State.issues, h, nop_performs hop hl ha s]
    exact laneWord_performs issued _

theorem exec_nop_illegal {f : FmtV} {s : State} {x : Issue} (h : s.issueOf (.nop f) = some x) (hl : (Instr.nop f).legal = false) :
    exec (.nop f) s = .next (trapWord x ⟨0x01, 0, 0, 0⟩ x.mask s) := by
  have lanes : decodeLanes x.g x.op x.active x.mask = x.mask := by rw [(nop_issue h).1]; rfl
  exact (laneWord_illegal h hl _).trans (by rw [lanes]; rfl)

/-- `nop` ends its run by its B bit alone (03 R50). -/
theorem nop_last {f : FmtV} {s : State} {x : Issue} (h : s.issueOf (.nop f) = some x) : x.last = f.b := by
  obtain ⟨hop, hb⟩ := nop_issue h
  rw [Issue.last, hop, hb]
  exact Bool.or_false _

/-- Settles O2: the encoding by reading back its fields, the effect by the two ways a `nop` at issue goes, ILLOP or retirement. -/
theorem nopWord : Obligations.NopWord := by
  refine ⟨by decide, fun f => ⟨nop_legal_iff f, fun hl => ?illegal, fun hl => ?legal⟩,
    fun s x f h => ⟨exec_nop_illegal h, fun hl => ?effect⟩⟩
  case illegal => rw [decode_vWord_nop, hl]; rfl
  case legal => rw [decode_vWord_nop, if_pos hl]
  case effect =>
    have retired := exec_nop_legal h hl
    rw [retire_eq] at retired
    refine ⟨_, retiredRun x, retired, fun pm df ht hm => ?table, fun hb => ?ends, fun hb r hr hw => ?goesOn⟩
    case table => exact advance_only_entry ht hm _ _
    case ends => exact retiredRun_of_last ((nop_last h).trans hb)
    case goesOn => exact retiredRun_of_not_last ((nop_last h).trans hb) hr hw

end Sys2Proof.Machine
end
